-- ==== Sys2Proof/Word.lean ====
section
/-! DEFINITION. The units of data the Mehlor 2640 carries on its serial frames (spec/11 R184): the byte
and the 16-bit code. Everything the manual counts (positions, line numbers, times, order numbers) is a `Nat`. -/

namespace Sys2Proof

/-- One byte of a link frame, a forward frame, a back-channel frame or a slip (R175, R120, R185, R155). -/
abbrev Byte := BitVec 8

/-- A 16-bit code: a station code, a match mask, the bureau code, a check code (R163, R164, R121). -/
abbrev Word := BitVec 16

/-- Whole-number division rounded up: the manual's `ceil(a / b)` (00, section 3.0). -/
def ceilDiv (a b : Nat) : Nat := (a + (b - 1)) / b

/-- A counter of 16 bits that stays at 65535 (R57, R67, R137). -/
def satSucc (n : Nat) : Nat := min 65535 (n + 1)

end Sys2Proof
end

