-- ==== Sys2Proof/Syntax.lean ====
section
/-! DEFINITION. The commands of the block: one constructor of `Instr` for each row of spec/opcode_table.json.
The table gives its rows no operands; those given here are the arguments of spec/11 R184's command table, the
fields of the back-channel frames (R184), the line concerned, and for an event that brings a measurement the
measurement itself (log entry 29). -/

namespace Sys2Proof

/-- The two serial links (R174). -/
inductive Link where
  | desk
  | dispatch
  deriving DecidableEq, Repr

/-- The four line channels, numbered 1 to 4 (00, section 3.0). -/
inductive Chan where
  | c1
  | c2
  | c3
  | c4
  deriving DecidableEq, Repr

/-- The channel's number, 1 to 4. -/
def Chan.number : Chan → Nat
  | .c1 => 1
  | .c2 => 2
  | .c3 => 3
  | .c4 => 4

/-- The four channels in number order. -/
def Chan.all : List Chan := [.c1, .c2, .c3, .c4]

/-- One value for each link. -/
structure PerLink (α : Type) where
  desk : α
  dispatch : α
  deriving DecidableEq, Repr

/-- One value for each line channel. -/
structure PerChan (α : Type) where
  c1 : α
  c2 : α
  c3 : α
  c4 : α
  deriving DecidableEq, Repr

/-- The arguments of WRITE DIRECTORY after the index, as the frame carries them (R184): `nameCount` and
`digitCount` are the count bytes, and what stands beyond a count is not read. -/
structure EntryArgs where
  code : Word
  mask : Word
  nameCount : Byte
  name : List Byte
  kind : Byte
  digitCount : Byte
  digits : List Byte
  lpm : Byte
  rate : Byte
  segment : Byte
  iocLow : Word
  iocHigh : Word
  retries : Byte
  deriving DecidableEq, Repr

/-- The arguments of WRITE SETTINGS, as the frame carries them (R184). -/
structure SettingsArgs where
  diameter : Word
  depth : Byte
  retryDelay : Word
  bureau : Word
  printer : Byte
  rate : Byte
  channels : PerChan Byte
  deriving DecidableEq, Repr

/-- The six kinds of back-channel frame (R184). -/
inductive BackKind where
  | station
  | phased
  | retake
  | hold
  | go
  | receipt
  deriving DecidableEq, Repr

/-- The commands and events of the part: the rows of spec/opcode_table.json, in the table's order. -/
inductive Instr where
  /-- RESET (R25). -/
  | reset
  /-- LINK_SELECT_FALL (R175). -/
  | linkSelectFall (l : Link)
  /-- UNKNOWN_COMMAND (R175): select rises on a frame whose command byte is no listed code. -/
  | unknownCommand (l : Link) (code : Byte)
  /-- FRAME_ERROR (R175): the whole bytes that arrived, command byte first, and the bits of a partial byte. -/
  | frameError (l : Link) (bytes : List Byte) (partialBits : Nat)
  /-- SUBMIT_ORDER (R8); `entries` are the index bytes, and the count byte is their number. -/
  | submitOrder (l : Link) (priority : Byte) (tag : BitVec 24) (resolution : Byte) (length : Word) (curve : Byte)
      (entries : List Byte)
  /-- ADD_CAPTION (R10); the count byte is the number of characters. -/
  | addCaption (l : Link) (order : Word) (chars : List Byte)
  /-- AMEND_PRIORITY (R11). -/
  | amendPriority (l : Link) (order : Word) (priority : Byte)
  /-- WITHDRAW_ORDER (R12). -/
  | withdrawOrder (l : Link) (order : Word)
  /-- MOUNT_CONFIRM (R63). -/
  | mountConfirm (l : Link) (tag : BitVec 24)
  /-- HALT_ROUND (R41). -/
  | haltRound (l : Link)
  /-- LINE_OUT (R98). -/
  | lineOut (l : Link) (channel : Byte)
  /-- LINE_IN (R99). -/
  | lineIn (l : Link) (channel : Byte)
  /-- LINE_RESET (R118). -/
  | lineReset (l : Link) (channel : Byte)
  /-- MARK_FAULT_CODE (R138). -/
  | markFaultCode (l : Link) (channel : Byte)
  /-- RELEASE_RECEIPT (R147). -/
  | releaseReceipt (l : Link) (filing : Word)
  /-- REPRINT_SLIP (R160). -/
  | reprintSlip (l : Link) (filing : Word)
  /-- ACK_NOTICE (R180). -/
  | ackNotice (l : Link) (kind : Byte)
  /-- SET_NOTICE_MASK (R179). -/
  | setNoticeMask (l : Link) (mask : Byte)
  /-- SET_CLOCK (R182). -/
  | setClock (l : Link) (minute : Word) (day : Word)
  /-- WRITE_DIRECTORY (R168). -/
  | writeDirectory (l : Link) (index : Byte) (args : EntryArgs)
  /-- ERASE_DIRECTORY (R168). -/
  | eraseDirectory (l : Link) (index : Byte)
  /-- WRITE_CURVE (R169); `points` are T[0] to T[16]. -/
  | writeCurve (l : Link) (index : Byte) (points : List Byte)
  /-- WRITE_SETTINGS (R169). -/
  | writeSettings (l : Link) (args : SettingsArgs)
  /-- SET_LOCK (R171). -/
  | setLock (l : Link)
  /-- CLEAR_LOCK (R171). -/
  | clearLock (l : Link)
  /-- READ_RESULT (R177). -/
  | readResult (l : Link)
  /-- READ_STATUS (R184). -/
  | readStatus (l : Link)
  /-- READ_QUEUE (R184). -/
  | readQueue (l : Link)
  /-- READ_ORDER (R184). -/
  | readOrder (l : Link) (order : Word)
  /-- READ_DESTINATION (R184). -/
  | readDestination (l : Link) (order : Word) (index : Byte)
  /-- READ_CHANNEL (R96). -/
  | readChannel (l : Link) (channel : Byte)
  /-- READ_RECEIPT (R149). -/
  | readReceipt (l : Link) (filing : Word)
  /-- READ_NEXT_RECEIPT (R149). -/
  | readNextReceipt (l : Link)
  /-- READ_DIRECTORY (R163). -/
  | readDirectory (l : Link) (index : Byte)
  /-- READ_CURVE (R164). -/
  | readCurve (l : Link) (index : Byte)
  /-- READ_SETTINGS (R164). -/
  | readSettings (l : Link)
  /-- READ_NOTICE (R180). -/
  | readNotice (l : Link)
  /-- READ_CLOCK (R182). -/
  | readClock (l : Link)
  /-- PRESENCE_FALL (R148). -/
  | presenceFall (l : Link)
  /-- PRESENCE_RISE (R148). -/
  | presenceRise (l : Link)
  /-- INDEX_PULSE (R50), with the timebase count at the pulse (log entry 3). -/
  | indexPulse (time : Nat)
  /-- PHOTOCELL_READING (R68): the twelve bits of the transfer. -/
  | photocellReading (value : BitVec 12)
  /-- COVER_OPEN (R65). -/
  | coverOpen
  /-- COVER_CLOSE (R65). -/
  | coverClose
  /-- CLAMP_OPEN (R64). -/
  | clampOpen
  /-- CLAMP_CLOSE (R64). -/
  | clampClose
  /-- HOME_SWITCH_CLOSE (R59). -/
  | homeSwitchClose
  /-- GUARD_FALL (R170). -/
  | guardFall
  /-- GUARD_RISE (R170). -/
  | guardRise
  /-- CARRIER_PRESENT (R103). -/
  | carrierPresent (c : Chan)
  /-- CARRIER_ABSENT (R114). -/
  | carrierAbsent (c : Chan)
  /-- PRRDY_READY (R157). -/
  | prrdyReady
  /-- PAPER_ABSENT (R158). -/
  | paperAbsent
  /-- PAPER_PRESENT (R158). -/
  | paperPresent
  /-- STATION (R106): a STATION frame with a good check, and the station code it carries. -/
  | station (c : Chan) (code : Word)
  /-- PHASED (R108). -/
  | phased (c : Chan) (code : Word)
  /-- RETAKE (R132). -/
  | retake (c : Chan) (code : Word) (line : Word)
  /-- HOLD (R130). -/
  | hold (c : Chan) (code : Word)
  /-- GO (R131). -/
  | go (c : Chan) (code : Word)
  /-- RECEIPT (R140). -/
  | receipt (c : Chan) (code : Word) (received : Word) (unrecovered : Word) (grade : Byte) (picture : Word)
  /-- BAD_CHECK (R112). -/
  | badCheck (c : Chan)
  /-- FRAMING_FAILURE (R185). -/
  | framingFailure (c : Chan)
  /-- RETRY_DELAY_EXPIRY (R20) of destination `dest` of order `order`. -/
  | retryDelayExpiry (order : Nat) (dest : Nat)
  /-- LOCK_LIMIT (R54). -/
  | lockLimit
  /-- IDLE_STOP (R55). -/
  | idleStop
  /-- COAST_STOP (R56). -/
  | coastStop
  /-- RETURN_LIMIT (R60). -/
  | returnLimit
  /-- DIAL_SETTLE_END (R102). -/
  | dialSettleEnd (c : Chan)
  /-- DIGIT_TONE_END (R102). -/
  | digitToneEnd (c : Chan)
  /-- DIGIT_SILENCE_END (R102). -/
  | digitSilenceEnd (c : Chan)
  /-- ANSWER_LIMIT (R103). -/
  | answerLimit (c : Chan)
  /-- ANNOUNCE_LIMIT (R105). -/
  | announceLimit (c : Chan)
  /-- CARRIER_LOSS_LIMIT (R114). -/
  | carrierLossLimit (c : Chan)
  /-- RECEIPT_LIMIT (R111). -/
  | receiptLimit (c : Chan)
  /-- COOLDOWN_EXPIRY (R117). -/
  | cooldownExpiry (c : Chan)
  /-- HOLD_TIMEOUT (R131). -/
  | holdTimeout (c : Chan)
  /-- LINE_PERIOD_START (R125). -/
  | linePeriodStart (c : Chan)
  /-- FORWARD_FRAME_SENT (R120). -/
  | forwardFrameSent (c : Chan)
  /-- STOP_SENT (R110). -/
  | stopSent (c : Chan)
  /-- RESEND_END (R90). -/
  | resendEnd (c : Chan)
  /-- RELEASE_COMPLETE (R116). -/
  | releaseComplete (c : Chan)
  /-- STORE_CYCLE_END (R166). -/
  | storeCycleEnd
  /-- CLOCK_SECOND (R182). -/
  | clockSecond
  /-- SLIP_CHARACTER_SENT (R157); `ready` is the PRRDY level read before the next character (log entry 8). -/
  | slipCharacterSent (ready : Bool)
  /-- SLIP_BEGIN (R156); `ready` is the PRRDY level read before the first character (log entry 8). -/
  | slipBegin (ready : Bool)
  /-- FILING_TRANSFER (R23). -/
  | filingTransfer
  /-- FRAME_IGNORED (R113): a frame of kind `kind` with a good check from the station `code`. -/
  | frameIgnored (c : Chan) (code : Word) (kind : BackKind)
  deriving DecidableEq, Repr

end Sys2Proof
end

