-- ==== Sys2Proof/Decode.lean ====
section
/-! DEFINITION. spec/opcode_table.json gives no bits for any of its 87 rows ("n_rows_with_fixed": 0, spec/98_reader.md),
so no table word spells a command. The part's own frames (link frames, back-channel frames) are read in
Machine/Operands.lean. -/

namespace Sys2Proof

/-- The command a table word spells: none, since no row of the table has bits. -/
def decodeTableWord (_nbits _w : Nat) : Option Instr := none

end Sys2Proof
end

