-- ==== Sys2Proof/Machine/Types.lean ====
section
/-! DEFINITION. The records of the nine blocks, each as the rule that owns it lists its fields. Named values stand in
the order in which the owning rule first names them, which is also their code in the answers (R184). -/

namespace Sys2Proof

/-- The value of one link. -/
def PerLink.get {α : Type} (p : PerLink α) : Link → α
  | .desk => p.desk
  | .dispatch => p.dispatch

/-- Replace the value of one link. -/
def PerLink.set {α : Type} (p : PerLink α) (l : Link) (v : α) : PerLink α :=
  match l with
  | .desk => { p with desk := v }
  | .dispatch => { p with dispatch := v }

/-- The value of one channel. -/
def PerChan.get {α : Type} (p : PerChan α) : Chan → α
  | .c1 => p.c1
  | .c2 => p.c2
  | .c3 => p.c3
  | .c4 => p.c4

/-- Replace the value of one channel. -/
def PerChan.set {α : Type} (p : PerChan α) (c : Chan) (v : α) : PerChan α :=
  match c with
  | .c1 => { p with c1 := v }
  | .c2 => { p with c2 := v }
  | .c3 => { p with c3 := v }
  | .c4 => { p with c4 := v }

/-- The same value for every channel. -/
def PerChan.all {α : Type} (v : α) : PerChan α := { c1 := v, c2 := v, c3 := v, c4 := v }

namespace Machine

/-- A timer: stopped, or running since the timebase count it holds (log entry 1). -/
abbrev Timer := Option Nat

/-- Priorities (R1), highest first; their codes are 0 to 3 (R184). -/
inductive Priority where
  | flash
  | urgent
  | routine
  | deferred
  deriving DecidableEq, Repr

/-- The eleven outcomes of a destination, in the order of R3. -/
inductive CallOutcome where
  | noAnswer
  | lineLost
  | dropped
  | phasingFailed
  | holdTimeout
  | wrongStation
  | incompatible
  | withdrawn
  | delivered
  | deliveredWithGaps
  | sentUnconfirmed
  deriving DecidableEq, Repr

/-- The states of an order (R1, R4). -/
inductive OrderState where
  | waiting
  | mountRequested
  | onDrum
  | withdrawing
  | filing
  deriving DecidableEq, Repr

/-- The states of a destination (R3, R5). -/
inductive DestState where
  | ready
  | delayed
  | assigned
  | sending
  | final
  deriving DecidableEq, Repr

/-- A time of day with its day count (R3, R182). -/
structure TimeOfDay where
  minute : Nat
  day : Nat
  deriving DecidableEq, Repr

/-- The receiver report (R3, R140). -/
structure Report where
  received : Nat
  unrecovered : Nat
  grade : Nat
  picture : Nat
  deriving DecidableEq, Repr

/-- The retry-delay timer of a DELAYED destination: its start and the delay read when it started, in µs (R20). -/
structure RetryTimer where
  start : Nat
  length : Nat
  deriving DecidableEq, Repr

/-- A destination record (R3). -/
structure Destination where
  entry : Nat
  state : DestState
  attempts : Nat
  retryTimer : Option RetryTimer
  outcome : Option CallOutcome
  exhausted : Bool
  channel : Option Chan
  filed : Bool
  station : Option Word
  startTime : Option TimeOfDay
  endTime : Option TimeOfDay
  sent : Nat
  resent : Nat
  skipped : Nat
  report : Option Report
  deriving DecidableEq, Repr

/-- An order record (R1). -/
structure Order where
  number : Nat
  origin : Link
  sequence : Nat
  priority : Priority
  tag : Nat
  resolution : Nat
  length : Nat
  ioc : Nat
  samples : Nat
  lines : Nat
  curve : Nat
  caption : List Byte
  state : OrderState
  dests : List Destination
  attempted : Bool
  deriving DecidableEq, Repr

/-- The order book: its orders in the order of admission, and the two counts of R2 (log entry 18). -/
structure Book where
  orders : List Order
  nextNumber : Nat
  sequence : Nat
  deriving DecidableEq, Repr

/-- A filing reference (R22), with the channel of the call that ended, if one did (R144). -/
structure FilingRef where
  order : Nat
  dest : Nat
  channel : Option Chan
  deriving DecidableEq, Repr

/-- The five speed classes and LPM classes (R7, R47, R163). -/
inductive LpmClass where
  | l30
  | l45
  | l60
  | l90
  | l120
  deriving DecidableEq, Repr

/-- The states of a round (R26). -/
inductive RoundState where
  | closed
  | assembling
  | scanning
  | draining
  deriving DecidableEq, Repr

/-- The round record (R26); a member is a channel with the destination index it serves. `samples` is the model's own: S of the round's
order, kept with its order number when the order leaves the book (R26, R69; log entry 31). -/
structure Round where
  state : RoundState
  order : Option Nat
  drumClass : Option LpmClass
  members : PerChan (Option Nat)
  scanComplete : Bool
  samples : Nat
  deriving DecidableEq, Repr

/-- The states of the drum (R47). -/
inductive DrumState where
  | stopped
  | spinning
  | locked
  | coasting
  deriving DecidableEq, Repr

/-- The drum's part of the drum controller (R47). -/
structure Drum where
  state : DrumState
  target : Option LpmClass
  drive : Nat
  lastPulse : Option Nat
  period : Option Nat
  lockCount : Nat
  looseMiss : Nat
  lockTimer : Timer
  idleTimer : Timer
  coastTimer : Timer
  deriving DecidableEq, Repr

/-- The states of the head (R57). -/
inductive HeadState where
  | home
  | scanning
  | returning
  | fault
  deriving DecidableEq, Repr

/-- The head's part of the drum controller (R57). -/
structure Head where
  position : Nat
  state : HeadState
  returnTimer : Timer
  held : Nat
  deriving DecidableEq, Repr

/-- The mount state, with the tag it carries (R61). -/
inductive Mount where
  | empty
  | requested (tag : Nat)
  | mounted (tag : Nat)
  | unmountRequested (tag : Nat)
  deriving DecidableEq, Repr

/-- The lamp state (R67). -/
inductive Lamp where
  | ok
  | fault
  deriving DecidableEq, Repr

/-- The filtered reference pair Wf and Bf (R67, R72). -/
structure ReferencePair where
  white : Nat
  black : Nat
  deriving DecidableEq, Repr

/-- The latest reference: Wnew, Bnew and the verdict (R67, R71). -/
structure LatestReference where
  white : Nat
  black : Nat
  valid : Bool
  deriving DecidableEq, Repr

/-- The 17 points of a tone curve (R164). -/
abbrev Curve := Vector Nat 17

/-- The working curve with the index it was copied from (R67). -/
structure WorkingCurve where
  index : Nat
  points : Curve
  deriving DecidableEq, Repr

/-- A gathering (R67, R69): the pulse its instants are counted from, the target period they are computed from, and the
readings taken so far in their order (16 white, 16 black, then the line). -/
structure Gathering where
  pulse : Nat
  target : Nat
  readings : List Nat
  deriving DecidableEq, Repr

/-- The scan converter (R67). -/
structure Converter where
  lamp : Lamp
  invalidCount : Nat
  pair : Option ReferencePair
  latest : Option LatestReference
  curve : Option WorkingCurve
  invalidTotal : Nat
  gathering : Option Gathering
  deriving DecidableEq, Repr

/-- A HOLDING slot (R83). -/
structure HeldLine where
  number : Nat
  levels : List Nat
  marks : PerChan Bool
  deriving DecidableEq, Repr

/-- The line store (R83): its HOLDING slots, in rising line number, and the round retake depth. A FREE slot carries
nothing and the position of a slot cannot be observed, so the free slots are the 64 less those listed (log entry 18). -/
structure LineStore where
  held : List HeldLine
  depth : Option Nat
  deriving DecidableEq, Repr

/-- The line kind of a directory entry (R163). -/
inductive LineKind where
  | dialled
  | leased (c : Chan)
  deriving DecidableEq, Repr

/-- Line signalling rates (R163). -/
inductive LineRate where
  | r4800
  | r9600
  | r14400
  | r19200
  deriving DecidableEq, Repr

/-- Segment sizes (R163). -/
inductive SegmentSize where
  | g128
  | g256
  | g512
  deriving DecidableEq, Repr

/-- The fields of a VALID directory entry (R163). -/
structure Entry where
  code : Word
  mask : Word
  name : List Byte
  kind : LineKind
  digits : List Nat
  lpm : LpmClass
  rate : LineRate
  segment : SegmentSize
  iocLow : Nat
  iocHigh : Nat
  retries : Nat
  deriving DecidableEq, Repr

/-- The contents kept for a directory entry: `none` is EMPTY (R163). -/
abbrev EntryContents := Option Entry

/-- A directory entry as it is readable (R163, R165). -/
inductive EntryReading where
  | empty
  | valid (e : Entry)
  | damaged
  deriving DecidableEq, Repr

/-- The slip printer's character rates (R155). -/
inductive PrintRate where
  | b1200
  | b2400
  deriving DecidableEq, Repr

/-- The configuration of a channel (R97). -/
inductive ChanConfig where
  | dialled
  | leased (entry : Nat)
  deriving DecidableEq, Repr

/-- The device settings (R164). -/
structure Settings where
  diameter : Nat
  depth : Nat
  retryDelay : Nat
  bureau : Word
  printerEnabled : Bool
  rate : PrintRate
  config : PerChan ChanConfig
  deriving DecidableEq, Repr

/-- A stored item: its contents, the check kept with it, and whether the test of the latest reset found it damaged
(R165). -/
structure Stored (α : Type) where
  contents : α
  check : Word
  damaged : Bool
  deriving DecidableEq, Repr

/-- A write in progress: the item and its new contents (R166). -/
inductive StoreWrite where
  | entry (index : Nat) (e : EntryContents)
  | curve (index : Nat) (points : Curve)
  | settings (v : Settings)
  | lock (flag : Bool)
  deriving DecidableEq, Repr

/-- The store cycle in WRITING (R166); `guardFell` says that the guard fell inside the cycle (R170). -/
structure StoreCycle where
  item : StoreWrite
  link : Link
  start : Nat
  guardFell : Bool
  deriving DecidableEq, Repr

/-- The setting store (R163 to R166); `lock` is the lock flag, `true` for SET, and `cycle` is `none` in IDLE. -/
structure Store where
  entries : Vector (Stored EntryContents) 24
  curves : Vector (Stored Curve) 4
  settings : Stored Settings
  lock : Stored Bool
  cycle : Option StoreCycle
  deriving DecidableEq, Repr

/-- The thirteen states of a channel (R96). -/
inductive ChanState where
  | out
  | idle
  | dialling
  | awaitAnswer
  | announce
  | caption
  | phasing
  | phased
  | picture
  | stopping
  | awaitReceipt
  | release
  | cooldown
  deriving DecidableEq, Repr

/-- The service flag (R96). -/
inductive Service where
  | inService
  | outOfService
  deriving DecidableEq, Repr

/-- The hook output (R96, R101). -/
inductive Hook where
  | onHook
  | offHook
  deriving DecidableEq, Repr

/-- The call ending (R96). -/
inductive CallEnding where
  | outcome (o : CallOutcome)
  | released
  | reset
  deriving DecidableEq, Repr

/-- The call with its call copy (R96, R100). -/
structure Call where
  order : Nat
  dest : Nat
  entryIndex : Nat
  entry : Entry
  config : ChanConfig
  bureau : Word
  deriving DecidableEq, Repr

/-- The tone-pair output while dialling (R101, R102): silent, the 2 s settle, digit `k` sounding, the silence after it. -/
inductive DialPhase where
  | silent
  | settle
  | tone (k : Nat)
  | gap (k : Nat)
  deriving DecidableEq, Repr

/-- The running line timer (R104): its start, and the line periods begun so far. -/
structure LineTimer where
  start : Nat
  begun : Nat
  deriving DecidableEq, Repr

/-- An entry of a retake queue (R124, R133). -/
inductive RetakeEntry where
  | resend (line : Nat)
  | skip (line : Nat)
  deriving DecidableEq, Repr

/-- The caution arming (R124, R135). -/
inductive Caution where
  | armed
  | disarmed
  deriving DecidableEq, Repr

/-- The last fault codes (R124, R138). -/
inductive FaultCode where
  | none
  | badCheck
  | stranger
  | badRetake
  | unexpected
  | mark
  deriving DecidableEq, Repr

/-- The eight kinds of forward frame with their fields (R120). -/
inductive ForwardFrame where
  | ident (bureau : Word) (order : Nat) (tag : Nat)
  | caption (first last : Bool) (chars : List Byte)
  | phase (count : Nat)
  | line (first last resent : Bool) (number start : Nat) (levels : List Nat)
  | fill (next : Nat)
  | skip (line : Nat)
  | abort (order : Nat)
  | stop (order : Nat) (lines : Nat)
  deriving DecidableEq, Repr

/-- A reception in progress on a back channel (R112, R185): the bit times of idle since the last byte, counted up to ten, the bits of
the byte in progress, and the bytes since the last idle of ten bit times, the first of which begins a frame; `none` while bytes
up to the next such idle are discarded. -/
structure Reception where
  idle : Nat
  byte : Option (List Bool)
  run : Option (List Byte)
  deriving DecidableEq, Repr

/-- The state of one line channel (R96, R124), with the dialling progress (R102), the caption frames sent (R107), the
frame on the line, the frames owed behind it, the run of back-to-back frames it belongs to: the instant the run began and the
bytes of it that have left (R120, R123; log entry 31), and the reception in progress on its back channel (R112; log entry 36). -/
structure Channel where
  state : ChanState
  service : Service
  call : Option Call
  station : Option Word
  ending : Option CallEnding
  stateTimer : Timer
  phaseCount : Nat
  lineTimer : Option LineTimer
  linePeriod : Nat
  carrierTimer : Timer
  hook : Hook
  dial : DialPhase
  captionSent : Nat
  onLine : Option ForwardFrame
  owed : List ForwardFrame
  runStart : Nat
  runBytes : Nat
  sendPosition : Nat
  queue : List RetakeEntry
  hold : Timer
  stopping : Nat
  trouble : Nat
  caution : Caution
  fault : FaultCode
  sent : Nat
  resent : Nat
  skipped : Nat
  refused : Nat
  reception : Reception
  deriving DecidableEq, Repr

/-- The states of a record's slip (R142). -/
inductive SlipState where
  | pending
  | printing
  | printed
  | notRequired
  deriving DecidableEq, Repr

/-- A receipt record (R142). -/
structure Receipt where
  filing : Nat
  order : Nat
  tag : Nat
  priority : Priority
  entry : Nat
  name : List Byte
  station : Option Word
  channel : Option Chan
  outcome : CallOutcome
  attempts : Nat
  exhausted : Bool
  startTime : Option TimeOfDay
  endTime : Option TimeOfDay
  sent : Nat
  resent : Nat
  skipped : Nat
  report : Option Report
  caption : List Byte
  released : PerLink Bool
  slip : SlipState
  reprint : Bool
  deriving DecidableEq, Repr

/-- The printer states (R154). -/
inductive PrinterState where
  | disabled
  | ready
  | printing
  | waiting
  | paperOut
  deriving DecidableEq, Repr

/-- What happens on the photocell lines in a transfer (R68): the converter select rises or falls, or a bit is clocked in. -/
inductive PhotocellEvent where
  | select (high : Bool)
  | clock (bit : Bool)
  deriving DecidableEq, Repr

/-- A slip in progress (R154). -/
structure Slip where
  filing : Nat
  text : List Byte
  rate : PrintRate
  deriving DecidableEq, Repr

/-- The slip printer controller (R154), with the run of back-to-back characters on the line, the instant it began
and the characters of it sent (R155; log entry 31), and the latch of a paper
absence reported while a character was on the line (R158; log entry 9). -/
structure Printer where
  state : PrinterState
  slip : Option Slip
  position : Nat
  disablePending : Bool
  runStart : Nat
  runSent : Nat
  abandonDue : Bool
  deriving DecidableEq, Repr

/-- The causes of DRUM FAULT (R178). -/
inductive DrumCause where
  | lock
  | lamp
  | cover
  | clamp
  | head
  deriving DecidableEq, Repr

/-- The kinds of MOUNT REQUEST (R178). -/
inductive MountKind where
  | mount
  | cancelled
  | unmount
  deriving DecidableEq, Repr

/-- The stored items as STORE DONE and the results name them (R184). -/
inductive ItemName where
  | entry (index : Nat)
  | curve (index : Nat)
  | settings
  | lock
  deriving DecidableEq, Repr

/-- A notice with its detail (R178). -/
inductive Notice where
  | drumFault (cause : DrumCause) (order : Option Nat)
  | mountRequest (kind : MountKind) (tag : Nat) (order : Option Nat)
  | lineTrouble (channel : Chan) (trouble : Nat) (order : Nat) (dest : Nat)
  | printerAttention (filing : Option Nat)
  | receiptFiled (filing : Nat) (order : Nat) (dest : Nat) (outcome : CallOutcome)
  | orderDone (order : Nat)
  | storeDone (item : ItemName)
  deriving DecidableEq, Repr

/-- The seven kinds of notice, highest priority first; their codes are 1 to 7 (R178). -/
inductive NoticeKind where
  | drumFault
  | mountRequest
  | lineTrouble
  | printerAttention
  | receiptFiled
  | orderDone
  | storeDone
  deriving DecidableEq, Repr

/-- One value for each kind of notice. -/
structure PerKind (α : Type) where
  drumFault : α
  mountRequest : α
  lineTrouble : α
  printerAttention : α
  receiptFiled : α
  orderDone : α
  storeDone : α
  deriving DecidableEq, Repr

/-- The result codes (R184's result table). -/
inductive ResultCode where
  | none
  | ok
  | accepted
  | captionClipped
  | frameError
  | unknownCommand
  | badField
  | bookFull
  | badPriority
  | badTag
  | badGeometry
  | badDestination
  | incompatible
  | noSuchOrder
  | otherLink
  | captionClosed
  | busy
  | notWithdrawable
  | alreadyWithdrawing
  | notRequested
  | wrongTag
  | clampOpen
  | drumTurning
  | noSuchChannel
  | noSuchReceipt
  | printerDisabled
  | notPrinted
  | storeBusy
  | locked
  | badCurve
  | inUse
  | referenced
  | channelBusy
  | guardLow
  deriving DecidableEq, Repr

/-- A result record (R177). -/
structure ResultRecord where
  command : Byte
  code : ResultCode
  value : Nat
  deriving DecidableEq, Repr

/-- What a master does on the lines of a link (R175): select falls, a rising edge of the shift clock samples data in, select rises. -/
inductive LinkEvent where
  | selectFall
  | clock (bit : Bool)
  | selectRise
  deriving DecidableEq, Repr

/-- The frame assembly of a link (R174): the whole bytes taken, the bits of a partial byte, and for a read the answer copy and the
answer position, counted in bits shifted out (log entry 14). -/
inductive Assembly where
  | idle
  | receiving (bytes : List Byte) (partialBits : List Bool) (answer : Option (List Byte)) (position : Nat)
  deriving DecidableEq, Repr

/-- The state of one link (R174). -/
structure LinkState where
  assembly : Assembly
  result : ResultRecord
  notices : PerKind (Option Notice)
  mask : PerKind Bool
  attention : Bool
  deriving DecidableEq, Repr

/-- The time-of-day clock when SET (R182); `since` is the timebase count of its latest second. -/
structure Clock where
  minute : Nat
  day : Nat
  second : Nat
  since : Nat
  deriving DecidableEq, Repr

/-- The levels of the inputs (00, 1.4): `true` is closed, present, high, ready, paper present, carrier present. -/
structure Pins where
  cover : Bool
  clamp : Bool
  home : Bool
  presence : PerLink Bool
  guard : Bool
  printerReady : Bool
  paper : Bool
  carrier : PerChan Bool
  deriving DecidableEq, Repr

end Machine
end Sys2Proof
end

