-- ==== Sys2Proof/Machine/Bits.lean ====
section
/-! DEFINITION. Numbers as bytes (R184), the check code (R121), and the numbers that named values stand for. -/

namespace Sys2Proof.Machine

/-- The `n` bytes of a number, high byte first (R184). -/
def be : Nat → Nat → List Byte
  | 0, _ => []
  | n + 1, v => BitVec.ofNat 8 (v / 256 ^ n) :: be n v

/-- The number that bytes carry, high byte first (R184). -/
def ofBe (bs : List Byte) : Nat := bs.foldl (fun acc b => acc * 256 + b.toNat) 0

/-- The bits of a value in the order in which a line carries them, most significant first (R68, R120, R185). -/
def msbFirst {w : Nat} (v : BitVec w) : List Bool := (List.range w).map fun i => v.getLsbD (w - 1 - i)

/-- The value that bits carry, most significant first (R68, R185). -/
def ofMsbFirst (w : Nat) (bits : List Bool) : BitVec w :=
  BitVec.ofNat w (bits.foldl (fun n b => 2 * n + (if b then 1 else 0)) 0)

/-- One bit through the check register (R121): compare with the top bit, shift, and add 0x1021 where they differed. -/
def checkBit (r : Word) (b : Bool) : Word :=
  if r.msb != b then (r <<< 1) ^^^ 0x1021#16 else r <<< 1

/-- One byte through the check register, most significant bit first (R121). -/
def checkByte (r : Word) (b : Byte) : Word :=
  [7, 6, 5, 4, 3, 2, 1, 0].foldl (fun r i => checkBit r (b.getLsbD i)) r

/-- The check code of a run of bytes, from a register of all ones (R121). -/
def checkCode (bs : List Byte) : Word := bs.foldl checkByte 0xFFFF#16

/-- A frame with its check code, high byte first (R121). -/
def withCheck (bs : List Byte) : List Byte := bs ++ be 2 (checkCode bs).toNat

/-- A flag as one byte, 0 or 1. -/
def boolByte (b : Bool) : Byte := if b then 1#8 else 0#8

def LpmClass.lpm : LpmClass → Nat
  | .l30 => 30
  | .l45 => 45
  | .l60 => 60
  | .l90 => 90
  | .l120 => 120

/-- The target period Tt in µs: floor(60,000,000 / LPM) (R51, R104). -/
def LpmClass.period (c : LpmClass) : Nat := 60000000 / c.lpm

def LineRate.bits : LineRate → Nat
  | .r4800 => 4800
  | .r9600 => 9600
  | .r14400 => 14400
  | .r19200 => 19200

def SegmentSize.size : SegmentSize → Nat
  | .g128 => 128
  | .g256 => 256
  | .g512 => 512

def PrintRate.baud : PrintRate → Nat
  | .b1200 => 1200
  | .b2400 => 2400

/-- The LPM class a byte names: the number itself (R184). -/
def lpmOfByte (b : Byte) : Option LpmClass :=
  match b.toNat with
  | 30 => some .l30
  | 45 => some .l45
  | 60 => some .l60
  | 90 => some .l90
  | 120 => some .l120
  | _ => none

/-- The line signalling rate a byte names, 0 to 3 (R184). -/
def rateOfByte (b : Byte) : Option LineRate :=
  match b.toNat with
  | 0 => some .r4800
  | 1 => some .r9600
  | 2 => some .r14400
  | 3 => some .r19200
  | _ => none

/-- The segment size a byte names, 0 to 2 (R184). -/
def segmentOfByte (b : Byte) : Option SegmentSize :=
  match b.toNat with
  | 0 => some .g128
  | 1 => some .g256
  | 2 => some .g512
  | _ => none

/-- The channel a byte names, 1 to 4. -/
def chanOfByte (b : Byte) : Option Chan :=
  match b.toNat with
  | 1 => some .c1
  | 2 => some .c2
  | 3 => some .c3
  | 4 => some .c4
  | _ => none

/-- The line kind a byte names: 0 DIALLED, 1 to 4 LEASED on that channel (R184). -/
def lineKindOfByte (b : Byte) : Option LineKind :=
  if b.toNat = 0 then some .dialled else (chanOfByte b).map .leased

/-- The priority a byte names, 0 to 3 (R184). -/
def priorityOfByte (b : Byte) : Option Priority :=
  match b.toNat with
  | 0 => some .flash
  | 1 => some .urgent
  | 2 => some .routine
  | 3 => some .deferred
  | _ => none

/-- The notice kind a code names, 1 to 7 (R178). -/
def noticeKindOfByte (b : Byte) : Option NoticeKind :=
  match b.toNat with
  | 1 => some .drumFault
  | 2 => some .mountRequest
  | 3 => some .lineTrouble
  | 4 => some .printerAttention
  | 5 => some .receiptFiled
  | 6 => some .orderDone
  | 7 => some .storeDone
  | _ => none

/-- Rank of a priority, FLASH 0 the highest; also its code (R184). -/
def Priority.rank : Priority → Nat
  | .flash => 0
  | .urgent => 1
  | .routine => 2
  | .deferred => 3

def CallOutcome.number : CallOutcome → Nat
  | .noAnswer => 0
  | .lineLost => 1
  | .dropped => 2
  | .phasingFailed => 3
  | .holdTimeout => 4
  | .wrongStation => 5
  | .incompatible => 6
  | .withdrawn => 7
  | .delivered => 8
  | .deliveredWithGaps => 9
  | .sentUnconfirmed => 10

def OrderState.number : OrderState → Nat
  | .waiting => 0
  | .mountRequested => 1
  | .onDrum => 2
  | .withdrawing => 3
  | .filing => 4

def DestState.number : DestState → Nat
  | .ready => 0
  | .delayed => 1
  | .assigned => 2
  | .sending => 3
  | .final => 4

def RoundState.number : RoundState → Nat
  | .closed => 0
  | .assembling => 1
  | .scanning => 2
  | .draining => 3

def DrumState.number : DrumState → Nat
  | .stopped => 0
  | .spinning => 1
  | .locked => 2
  | .coasting => 3

def HeadState.number : HeadState → Nat
  | .home => 0
  | .scanning => 1
  | .returning => 2
  | .fault => 3

def Lamp.number : Lamp → Nat
  | .ok => 0
  | .fault => 1

def ChanState.number : ChanState → Nat
  | .out => 0
  | .idle => 1
  | .dialling => 2
  | .awaitAnswer => 3
  | .announce => 4
  | .caption => 5
  | .phasing => 6
  | .phased => 7
  | .picture => 8
  | .stopping => 9
  | .awaitReceipt => 10
  | .release => 11
  | .cooldown => 12

def Service.number : Service → Nat
  | .inService => 0
  | .outOfService => 1

def Hook.number : Hook → Nat
  | .onHook => 0
  | .offHook => 1

/-- Outcomes as in R3, 11 for RELEASED and 12 for RESET (R184). -/
def CallEnding.number : CallEnding → Nat
  | .outcome o => o.number
  | .released => 11
  | .reset => 12

def Caution.number : Caution → Nat
  | .armed => 0
  | .disarmed => 1

def FaultCode.number : FaultCode → Nat
  | .none => 0
  | .badCheck => 1
  | .stranger => 2
  | .badRetake => 3
  | .unexpected => 4
  | .mark => 5

def SlipState.number : SlipState → Nat
  | .pending => 0
  | .printing => 1
  | .printed => 2
  | .notRequired => 3

def PrinterState.number : PrinterState → Nat
  | .disabled => 0
  | .ready => 1
  | .printing => 2
  | .waiting => 3
  | .paperOut => 4

def DrumCause.number : DrumCause → Nat
  | .lock => 0
  | .lamp => 1
  | .cover => 2
  | .clamp => 3
  | .head => 4

def MountKind.number : MountKind → Nat
  | .mount => 0
  | .cancelled => 1
  | .unmount => 2

def linkNumber : Link → Nat
  | .desk => 0
  | .dispatch => 1

/-- Item codes (R184): 0 to 23, 0x100 plus the curve index, 0x200, 0x300. -/
def ItemName.code : ItemName → Nat
  | .entry i => i
  | .curve i => 0x100 + i
  | .settings => 0x200
  | .lock => 0x300

/-- The item a write concerns (R166). -/
def StoreWrite.name : StoreWrite → ItemName
  | .entry i _ => .entry i
  | .curve i _ => .curve i
  | .settings _ => .settings
  | .lock _ => .lock

/-- The kind a notice belongs to (R178). -/
def Notice.kind : Notice → NoticeKind
  | .drumFault _ _ => .drumFault
  | .mountRequest _ _ _ => .mountRequest
  | .lineTrouble _ _ _ _ => .lineTrouble
  | .printerAttention _ => .printerAttention
  | .receiptFiled _ _ _ _ => .receiptFiled
  | .orderDone _ => .orderDone
  | .storeDone _ => .storeDone

/-- Notice kinds in priority order (R178). -/
def NoticeKind.all : List NoticeKind :=
  [.drumFault, .mountRequest, .lineTrouble, .printerAttention, .receiptFiled, .orderDone, .storeDone]

/-- Notice kind codes, 1 to 7 (R178). -/
def NoticeKind.code : NoticeKind → Nat
  | .drumFault => 1
  | .mountRequest => 2
  | .lineTrouble => 3
  | .printerAttention => 4
  | .receiptFiled => 5
  | .orderDone => 6
  | .storeDone => 7

def PerKind.get {α : Type} (p : PerKind α) : NoticeKind → α
  | .drumFault => p.drumFault
  | .mountRequest => p.mountRequest
  | .lineTrouble => p.lineTrouble
  | .printerAttention => p.printerAttention
  | .receiptFiled => p.receiptFiled
  | .orderDone => p.orderDone
  | .storeDone => p.storeDone

def PerKind.set {α : Type} (p : PerKind α) (k : NoticeKind) (v : α) : PerKind α :=
  match k with
  | .drumFault => { p with drumFault := v }
  | .mountRequest => { p with mountRequest := v }
  | .lineTrouble => { p with lineTrouble := v }
  | .printerAttention => { p with printerAttention := v }
  | .receiptFiled => { p with receiptFiled := v }
  | .orderDone => { p with orderDone := v }
  | .storeDone => { p with storeDone := v }

/-- The same value for every kind. -/
def PerKind.all {α : Type} (v : α) : PerKind α :=
  { drumFault := v, mountRequest := v, lineTrouble := v, printerAttention := v, receiptFiled := v, orderDone := v,
    storeDone := v }

/-- The result codes of R184's result table. -/
def ResultCode.number : ResultCode → Nat
  | .none => 0x00
  | .ok => 0x01
  | .accepted => 0x02
  | .captionClipped => 0x03
  | .frameError => 0x10
  | .unknownCommand => 0x11
  | .badField => 0x12
  | .bookFull => 0x20
  | .badPriority => 0x21
  | .badTag => 0x22
  | .badGeometry => 0x23
  | .badDestination => 0x24
  | .incompatible => 0x25
  | .noSuchOrder => 0x26
  | .otherLink => 0x27
  | .captionClosed => 0x28
  | .busy => 0x29
  | .notWithdrawable => 0x2A
  | .alreadyWithdrawing => 0x2B
  | .notRequested => 0x30
  | .wrongTag => 0x31
  | .clampOpen => 0x32
  | .drumTurning => 0x33
  | .noSuchChannel => 0x38
  | .noSuchReceipt => 0x40
  | .printerDisabled => 0x41
  | .notPrinted => 0x42
  | .storeBusy => 0x48
  | .locked => 0x49
  | .badCurve => 0x4A
  | .inUse => 0x4B
  | .referenced => 0x4C
  | .channelBusy => 0x4D
  | .guardLow => 0x4E

end Sys2Proof.Machine
end

