-- ==== Sys2Proof/Machine/Forward.lean ====
section
/-! DEFINITION. Forward frames (spec/07 R120 to R122, R184): their bytes with the check code, their bits and the time of a
run of them, the segments of a line and the frames of a caption. -/

namespace Sys2Proof.Machine

/-- A flags byte: bit 0 first, bit 1 last, bit 2 resent (R184). -/
def flagsByte (first last resent : Bool) : Byte :=
  BitVec.ofNat 8 ((if first then 1 else 0) + (if last then 2 else 0) + (if resent then 4 else 0))

/-- The bytes of a forward frame before its check code (R184). -/
def frameBody : ForwardFrame → List Byte
  | .ident bureau order tag => 0x01#8 :: (be 2 bureau.toNat ++ be 2 order ++ be 3 tag)
  | .caption first last chars => 0x02#8 :: ([flagsByte first last false, BitVec.ofNat 8 chars.length] ++ chars)
  | .phase count => [0x03#8, BitVec.ofNat 8 count]
  | .line first last resent number start levels =>
    0x04#8 :: ([flagsByte first last resent] ++ be 2 number ++ be 2 start ++ be 2 levels.length ++
      levels.map (BitVec.ofNat 8))
  | .fill next => 0x05#8 :: be 2 next
  | .skip line => 0x06#8 :: be 2 line
  | .abort order => 0x07#8 :: be 2 order
  | .stop order lines => 0x08#8 :: (be 2 order ++ be 2 lines)

/-- The bytes of a forward frame on the line (R120, R121). -/
def frameBytes (f : ForwardFrame) : List Byte := withCheck (frameBody f)

/-- The bits of a forward frame on the line, each byte most significant bit first (R120). -/
def frameBits (f : ForwardFrame) : List Bool := (frameBytes f).flatMap msbFirst

/-- The bytes that some frames take on the line (R120, R122). -/
def bytesOnLine (fs : List ForwardFrame) : Nat := (fs.map fun f => (frameBytes f).length).sum

/-- The time that a run of bytes sent back to back takes on the line, in µs (R120): b × 8 / rate seconds, rounded down once for the
whole run (log entry 21). -/
def lineTime (rate : LineRate) (bytes : Nat) : Nat := bytes * 8 * 1000000 / rate.bits

/-- The first `n` pieces of `g` items of a list. -/
def pieces {α : Type} (g : Nat) : Nat → List α → List (List α)
  | 0, _ => []
  | n + 1, xs => xs.take g :: pieces g n (xs.drop g)

/-- Segment `j` of `count` of a line (R122). -/
def segmentFrame (g count : Nat) (resent : Bool) (number j : Nat) (levels : List Nat) : ForwardFrame :=
  .line (decide (j = 0)) (decide (j + 1 = count)) resent number (j * g) levels

/-- Number the segments of a line from `j` on (R122). -/
def numberSegments (g count : Nat) (resent : Bool) (number : Nat) : Nat → List (List Nat) → List ForwardFrame
  | _, [] => []
  | j, p :: rest => segmentFrame g count resent number j p :: numberSegments g count resent number (j + 1) rest

/-- The segments of a line of S levels: ceil(S / g) LINE frames (R122). -/
def lineSegments (g : Nat) (resent : Bool) (number : Nat) (levels : List Nat) : List ForwardFrame :=
  let count := ceilDiv levels.length g
  numberSegments g count resent number 0 (pieces g count levels)

/-- How many CAPTION frames a caption takes (R107). -/
def captionFrames (caption : List Byte) : Nat := max 1 (ceilDiv caption.length 80)

/-- CAPTION frame `k` of a caption (R107). -/
def captionFrame (caption : List Byte) (k : Nat) : ForwardFrame :=
  .caption (decide (k = 0)) (decide (k + 1 = captionFrames caption)) ((caption.drop (80 * k)).take 80)

/-- The last segment of a resend, with its line number (R90). -/
def resendLast : ForwardFrame → Option Nat
  | .line _ true true number _ _ => some number
  | _ => none

/-- Whether a frame is a STOP. -/
def isStop : ForwardFrame → Bool
  | .stop _ _ => true
  | _ => false

end Sys2Proof.Machine
end

