-- ==== Sys2Proof/Machine/Lines.lean ====
section
/-! DEFINITION. The line store (spec/05): filing, asking, the release of marks and the flush. -/

namespace Sys2Proof.Machine

/-- The number of slots (R83). -/
def slotCount : Nat := 64

/-- Whether some channel's mark is in a mark set. -/
def anyMark (m : PerChan Bool) : Bool := m.c1 || m.c2 || m.c3 || m.c4

/-- The held line of a number, if a slot holds it (R83). -/
def findLine (ls : LineStore) (n : Nat) : Option HeldLine := ls.held.find? (fun h => h.number == n)

/-- Put a held line at its place in rising line number. -/
def insertLine (h : HeldLine) : List HeldLine → List HeldLine
  | [] => [h]
  | x :: rest => if h.number < x.number then h :: x :: rest else x :: insertLine h rest

/-- A filing request (R85, R86): the store after it, and whether it was ACCEPTED (otherwise FULL). A line number already
held is ACCEPTED and keeps its slot as it is (log entry 26). A slot whose mark set is empty is FREE (R93), so a line filed
for no member takes none; R87 says that this does not arise (log entry 19). -/
def fileLine (n : Nat) (levels : List Nat) (marks : PerChan Bool) (ls : LineStore) : LineStore × Bool :=
  if (findLine ls n).isSome then (ls, true)
  else if ls.held.length < slotCount then
    if anyMark marks then
      ({ ls with held := insertLine { number := n, levels := levels, marks := marks } ls.held }, true)
    else (ls, true)
  else (ls, false)

/-- A channel's question for line `n` (R88): the levels on YES. -/
def askLine (c : Chan) (n : Nat) (ls : LineStore) : Option (List Nat) :=
  match findLine ls n with
  | none => none
  | some h => if h.marks.get c then some h.levels else none

/-- Release one channel's mark on a held line where `p` says so; a slot whose mark set is empty becomes FREE (R93). -/
def releaseWhere (c : Chan) (p : Nat → Bool) : List HeldLine → List HeldLine
  | [] => []
  | h :: rest =>
    if p h.number then
      let marks := h.marks.set c false
      if anyMark marks then { h with marks := marks } :: releaseWhere c p rest else releaseWhere c p rest
    else h :: releaseWhere c p rest

/-- Release a channel's mark on line `n` (R89, R90). -/
def releaseMark (c : Chan) (n : Nat) (ls : LineStore) : LineStore :=
  { ls with held := releaseWhere c (fun m => m == n) ls.held }

/-- Release every mark a channel holds (R91, R92). -/
def releaseAll (c : Chan) (ls : LineStore) : LineStore := { ls with held := releaseWhere c (fun _ => true) ls.held }

/-- A flush: every slot FREE, the round retake depth as it was (R94). -/
def flushLines (ls : LineStore) : LineStore := { ls with held := [] }

/-- The lines a channel marks, in rising number (R83). -/
def markedLines (c : Chan) (ls : LineStore) : List Nat := (ls.held.filter (fun h => h.marks.get c)).map HeldLine.number

/-- The round retake depth in use; while a round is SCANNING or DRAINING it is present (R84; log entry 19). -/
def retakeDepth (ls : LineStore) : Nat := ls.depth.getD 0

/-- Whether line numbers rise strictly. -/
def risingNumbers : List HeldLine → Bool
  | a :: b :: rest => decide (a.number < b.number) && risingNumbers (b :: rest)
  | _ => true

/-- The canonical form of the line store: at most 64 slots, strictly rising line numbers, no empty mark set (R83). -/
def LineStore.wf (ls : LineStore) : Bool :=
  decide (ls.held.length ≤ slotCount) && risingNumbers ls.held && ls.held.all (fun h => anyMark h.marks)

end Sys2Proof.Machine
end

