-- ==== Sys2Proof/Machine/Items.lean ====
section
/-! DEFINITION. The stored items of the setting store (spec/10 R163 to R165): the contents each kind keeps, the check kept
with them, and the items of a part delivered new. R165 says that the check runs over the item's stored contents and does
not say how these lie in bytes: the model takes the form of the write command's arguments (DESIGN CHOICE, log entry 7). -/

namespace Sys2Proof.Machine

/-- A list of characters as a count byte and `width` bytes, filled with 0x20 (R184). -/
def charField (width : Nat) (cs : List Byte) : List Byte :=
  BitVec.ofNat 8 cs.length :: (cs ++ List.replicate (width - cs.length) 0x20#8)

def LineKind.byte : LineKind → Byte
  | .dialled => 0#8
  | .leased c => BitVec.ofNat 8 c.number

def LineRate.byte : LineRate → Byte
  | .r4800 => 0#8
  | .r9600 => 1#8
  | .r14400 => 2#8
  | .r19200 => 3#8

def SegmentSize.byte : SegmentSize → Byte
  | .g128 => 0#8
  | .g256 => 1#8
  | .g512 => 2#8

def PrintRate.byte : PrintRate → Byte
  | .b1200 => 0#8
  | .b2400 => 1#8

def ChanConfig.byte : ChanConfig → Byte
  | .dialled => 0xFF#8
  | .leased i => BitVec.ofNat 8 i

/-- The fields of a VALID entry in the byte form of the WRITE DIRECTORY arguments after the index (R184). -/
def entryBytes (e : Entry) : List Byte :=
  be 2 e.code.toNat ++ be 2 e.mask.toNat ++ charField 16 e.name ++ [e.kind.byte] ++
    charField 20 (e.digits.map (BitVec.ofNat 8)) ++
    [BitVec.ofNat 8 e.lpm.lpm, e.rate.byte, e.segment.byte] ++ be 2 e.iocLow ++ be 2 e.iocHigh ++
    [BitVec.ofNat 8 e.retries]

/-- The settings in the byte form of the WRITE SETTINGS arguments (R184). -/
def settingsBytes (v : Settings) : List Byte :=
  be 2 v.diameter ++ [BitVec.ofNat 8 v.depth] ++ be 2 v.retryDelay ++ be 2 v.bureau.toNat ++
    [boolByte v.printerEnabled, v.rate.byte] ++
    [v.config.c1.byte, v.config.c2.byte, v.config.c3.byte, v.config.c4.byte]

/-- Contents of a directory entry as bytes: a byte for the state, and the fields of a VALID entry. -/
def entryContentBytes : EntryContents → List Byte
  | none => [0#8]
  | some e => 1#8 :: entryBytes e

def curveBytes (t : Curve) : List Byte := t.toList.map (BitVec.ofNat 8)

def lockBytes (flag : Bool) : List Byte := [boolByte flag]

/-- An item written whole with a fresh check (R165, R166). -/
def freshItem {α : Type} (bytes : α → List Byte) (v : α) : Stored α :=
  { contents := v, check := checkCode (bytes v), damaged := false }

/-- The test of a reset: an item whose check differs is damaged (R165). -/
def testItem {α : Type} (bytes : α → List Byte) (i : Stored α) : Stored α :=
  { i with damaged := checkCode (bytes i.contents) != i.check }

/-- An item left half-written: its contents fail its check (R172; log entry 7). -/
def breakItem {α : Type} (bytes : α → List Byte) (i : Stored α) : Stored α :=
  { i with check := ~~~ checkCode (bytes i.contents) }

/-- The unity curve (R79). -/
def unityCurve : Curve := Vector.ofFn fun i => min 255 (16 * i.val)

/-- The default device settings (R164). -/
def defaultSettings : Settings :=
  { diameter := 600, depth := 4, retryDelay := 120, bureau := 0x0000#16, printerEnabled := true, rate := .b1200,
    config := PerChan.all .dialled }

/-- The setting store of a part delivered new (R163, R164), in IDLE. -/
def newStore : Store :=
  { entries := Vector.replicate 24 (freshItem entryContentBytes none),
    curves := Vector.replicate 4 (freshItem curveBytes unityCurve),
    settings := freshItem settingsBytes defaultSettings,
    lock := freshItem lockBytes false,
    cycle := none }

end Sys2Proof.Machine
end

