-- ==== Sys2Proof/Machine/State.lean ====
section
/-! DEFINITION. The whole state of the part, and the state right after reset. Every field is named by a rule of spec/
(INVENTORY.md lists them), but for the model's own: `now` (log entry 1), `selectDue` (log entry 17), `free` (log
entries 8 and 15) and the host's queue `pending`. -/

namespace Sys2Proof.Machine

/-- Why the part stops: no rule of spec/ stops it in any state on any command (each command has an effect, if only on a
result record), so there is no reason, and no meaning can answer a fault. Safe: nothing is stopped. -/
inductive Fault where
  deriving DecidableEq, Repr

/-- Why a command has no meaning. -/
inductive Refusal where
  /-- Raised by an arm of `exec` for a command without a meaning yet, with its mnemonic. No arm raises it. Safe. -/
  | notModelled (mnemonic : String)
  deriving DecidableEq, Repr

/-- The state of the Mehlor 2640. -/
structure State where
  /-- The count of the 1 MHz timebase, in µs (00, section 3.0). -/
  now : Nat
  /-- The desk link and the dispatch link (R174). -/
  links : PerLink LinkState
  /-- The order book (R1, R2). -/
  book : Book
  /-- The filing queue, oldest first (R22). -/
  filing : List FilingRef
  /-- The next-filing value (R23). -/
  nextFiling : Nat
  /-- The round record (R26). -/
  round : Round
  /-- The drum (R47). -/
  drum : Drum
  /-- The head (R57). -/
  head : Head
  /-- The mount state (R61). -/
  mount : Mount
  /-- The scan converter (R67). -/
  converter : Converter
  /-- The line store (R83). -/
  lineStore : LineStore
  /-- The line channels (R96, R124). -/
  channels : PerChan Channel
  /-- The receipt log, in filing order (R145). -/
  log : List Receipt
  /-- The slip printer controller (R154). -/
  printer : Printer
  /-- The setting store (R163 to R166). -/
  store : Store
  /-- The time-of-day clock; `none` is UNSET (R182). -/
  clock : Option Clock
  /-- The levels of the inputs (00, 1.4). -/
  pins : Pins
  /-- The model's own: an event of R15 or R27 has been met in the step being made (log entry 17). -/
  selectDue : Bool
  /-- The model's own: how many free values have been used (log entry 15). -/
  free : Nat
  /-- The host's queue of commands, first in, first out. -/
  pending : List Instr
  deriving DecidableEq, Repr

/-- The state of a link after reset (R174). -/
def LinkState.initial : LinkState :=
  { assembly := .idle, result := { command := 0x00#8, code := .none, value := 0 }, notices := PerKind.all none,
    mask := PerKind.all true, attention := false }

/-- The reception of a back channel after reset: no idle has been counted, so bytes begin no frame before one (log entry 36). -/
def Reception.initial : Reception := { idle := 0, byte := none, run := none }

/-- The state of a channel after reset (R96, R124). -/
def Channel.initial : Channel :=
  { state := .idle, service := .inService, call := none, station := none, ending := none, stateTimer := none,
    phaseCount := 0, lineTimer := none, linePeriod := 0, carrierTimer := none, hook := .onHook, dial := .silent,
    captionSent := 0, onLine := none, owed := [], runStart := 0, runBytes := 0, sendPosition := 0, queue := [], hold := none,
    stopping := 0, trouble := 0, caution := .armed, fault := .none, sent := 0, resent := 0, skipped := 0, refused := 0,
    reception := Reception.initial }

/-- The closed round record (R26). -/
def Round.none : Round :=
  { state := .closed, order := Option.none, drumClass := Option.none, members := PerChan.all Option.none,
    scanComplete := false, samples := 0 }

/-- The machine right after reset: every volatile field as its rule states, the setting store of a part delivered new
(R163, R164), and the input levels of log entry 6, with which the head is HOME (R57) and the printer READY (R154). -/
def State.reset : State :=
  { now := 0,
    links := { desk := LinkState.initial, dispatch := LinkState.initial },
    book := { orders := [], nextNumber := 1, sequence := 1 },
    filing := [],
    nextFiling := 1,
    round := Round.none,
    drum := { state := .stopped, target := none, drive := 0, lastPulse := none, period := none, lockCount := 0,
              looseMiss := 0, lockTimer := none, idleTimer := none, coastTimer := none },
    head := { position := 0, state := .home, returnTimer := none, held := 0 },
    mount := .empty,
    converter := { lamp := .ok, invalidCount := 0, pair := none, latest := none, curve := none, invalidTotal := 0,
                   gathering := none },
    lineStore := { held := [], depth := none },
    channels := PerChan.all Channel.initial,
    log := [],
    printer := { state := .ready, slip := none, position := 0, disablePending := false, runStart := 0, runSent := 0,
                 abandonDue := false },
    store := newStore,
    clock := none,
    pins := { cover := true, clamp := true, home := true, presence := { desk := true, dispatch := true }, guard := true,
              printerReady := true, paper := true, carrier := PerChan.all false },
    selectDue := false,
    free := 0,
    pending := [] }

end Sys2Proof.Machine
end

