-- ==== Sys2Proof/Machine/Flags.lean ====
section
/-! DEFINITION. The flags a link shows its master: the result record (R177), the notice set (R178) and the attention
output, which follows set and mask at once (R179). -/

namespace Sys2Proof.Machine

/-- Whether a kind is present in the notice set and enabled in the mask (R179). -/
def kindRaised (ls : LinkState) (k : NoticeKind) : Bool := (ls.notices.get k).isSome && ls.mask.get k

/-- What the attention output shows: some present kind is enabled (R179). -/
def attentionOf (ls : LinkState) : Bool := NoticeKind.all.any (kindRaised ls)

/-- Judge the attention output again (R179). -/
def judgeAttention (ls : LinkState) : LinkState := { ls with attention := attentionOf ls }

/-- Place a notice in a link's set: its kind becomes present and its detail replaces the one held (R178). -/
def placeNotice (n : Notice) (ls : LinkState) : LinkState :=
  judgeAttention { ls with notices := ls.notices.set n.kind (some n) }

/-- Remove a kind from a link's set (R180). -/
def removeNotice (k : NoticeKind) (ls : LinkState) : LinkState :=
  judgeAttention { ls with notices := ls.notices.set k none }

/-- Replace a link's mask (R179). -/
def replaceMask (m : PerKind Bool) (ls : LinkState) : LinkState := judgeAttention { ls with mask := m }

/-- A notice to one link (R178). -/
def noticeTo (l : Link) (n : Notice) (s : State) : State :=
  { s with links := s.links.set l (placeNotice n (s.links.get l)) }

/-- A notice to both links, whether or not each is present (R178). -/
def noticeBoth (n : Notice) (s : State) : State := noticeTo .dispatch n (noticeTo .desk n s)

/-- The end of a write-type frame: the assembly returns to IDLE and the result record is replaced (R175, R177). -/
def postResult (l : Link) (command : Byte) (code : ResultCode) (value : Nat) (s : State) : State :=
  { s with
    links := s.links.set l
      { s.links.get l with assembly := .idle, result := { command := command, code := code, value := value } } }

/-- The mask a SET NOTICE MASK byte gives: bit 0 for kind 1 to bit 6 for kind 7 (R179). -/
def maskOfByte (b : Byte) : PerKind Bool :=
  { drumFault := b.getLsbD 0, mountRequest := b.getLsbD 1, lineTrouble := b.getLsbD 2, printerAttention := b.getLsbD 3,
    receiptFiled := b.getLsbD 4, orderDone := b.getLsbD 5, storeDone := b.getLsbD 6 }

/-- The frame assembly of a link replaced (R174). -/
def setAssembly (l : Link) (a : Assembly) (s : State) : State :=
  { s with links := s.links.set l { s.links.get l with assembly := a } }

/-- The frame of a read-type command when its answer copy has been taken and nothing of it shifted out (R176; log entry 14). -/
def takeAnswer (l : Link) (bytes : List Byte) (answer : List Byte) (s : State) : State :=
  setAssembly l (.receiving bytes [] (some answer) 0) s

/-- What data out carries as the `k`th byte of the answer (R176): the copy's byte, and zeros once the last has been shifted out or
while no copy is taken. -/
def dataOutByte : Assembly → Nat → Byte
  | .receiving _ _ (some answer) _, k => answer.getD k 0#8
  | _, _ => 0#8

end Sys2Proof.Machine
end

