-- ==== Sys2Proof/Machine/SettingStore.lean ====
section
/-! DEFINITION. The setting store (spec/10): how its items read, the lock, the store cycle and the test of a reset. While a
cycle runs the items keep their old contents, so every reading below is of the old contents (R166). -/

namespace Sys2Proof.Machine

/-- A directory entry as readable (R163, R165); an index beyond the table reads EMPTY. -/
def readEntry (st : Store) (i : Nat) : EntryReading :=
  match st.entries[i]? with
  | none => .empty
  | some item =>
    if item.damaged then .damaged
    else match item.contents with
      | none => .empty
      | some e => .valid e

/-- The fields of a VALID entry, if the entry is VALID. -/
def validEntry (st : Store) (i : Nat) : Option Entry :=
  match readEntry st i with
  | .valid e => some e
  | _ => none

/-- A tone curve as readable: the unity curve in place of a damaged one (R165). -/
def readCurvePoints (st : Store) (i : Nat) : Curve :=
  match st.curves[i]? with
  | none => unityCurve
  | some item => if item.damaged then unityCurve else item.contents

/-- Whether a curve's condition is REPLACED (R165). -/
def curveReplaced (st : Store) (i : Nat) : Bool :=
  match st.curves[i]? with
  | none => false
  | some item => item.damaged

/-- The device settings as readable: the defaults in place of damaged ones (R165). -/
def readSettings (st : Store) : Settings := if st.settings.damaged then defaultSettings else st.settings.contents

/-- The lock flag as readable: SET in place of a damaged one (R165). -/
def readLockFlag (st : Store) : Bool := st.lock.damaged || st.lock.contents

/-- Whether a guard fall inside the running cycle still waits for the cycle's end (R170). -/
def guardFallHeldOff (st : Store) : Bool :=
  match st.cycle with
  | none => false
  | some c => c.guardFell

/-- The store is locked while the flag is SET and the guard input low, but for a fall inside a running cycle (R170). -/
def storeLocked (s : State) : Bool := readLockFlag s.store && !s.pins.guard && !guardFallHeldOff s.store

/-- The length of a store cycle in µs: 25 ms (R166). -/
def cycleLength : Nat := 25000

/-- Start a store cycle (R166). -/
def startCycle (l : Link) (w : StoreWrite) (s : State) : State :=
  { s with store := { s.store with cycle := some { item := w, link := l, start := s.now, guardFell := false } } }

/-- The item of a write takes its new contents with a fresh check (R166). -/
def writeItem (w : StoreWrite) (st : Store) : Store :=
  match w with
  | .entry i e => { st with entries := st.entries.setIfInBounds i (freshItem entryContentBytes e) }
  | .curve i t => { st with curves := st.curves.setIfInBounds i (freshItem curveBytes t) }
  | .settings v => { st with settings := freshItem settingsBytes v }
  | .lock f => { st with lock := freshItem lockBytes f }

/-- Change one element of a vector, where the index names one. -/
def modifyAt {α : Type} {n : Nat} (v : Vector α n) (i : Nat) (f : α → α) : Vector α n :=
  match v[i]? with
  | none => v
  | some x => v.setIfInBounds i (f x)

/-- The item of a write interrupted by a reset is left half-written (R172). -/
def breakWrite (w : StoreWrite) (st : Store) : Store :=
  match w with
  | .entry i _ => { st with entries := modifyAt st.entries i (breakItem entryContentBytes) }
  | .curve i _ => { st with curves := modifyAt st.curves i (breakItem curveBytes) }
  | .settings _ => { st with settings := breakItem settingsBytes st.settings }
  | .lock _ => { st with lock := breakItem lockBytes st.lock }

/-- Every item tested at a reset (R165). -/
def testStore (st : Store) : Store :=
  { entries := st.entries.map (testItem entryContentBytes),
    curves := st.curves.map (testItem curveBytes),
    settings := testItem settingsBytes st.settings,
    lock := testItem lockBytes st.lock,
    cycle := none }

/-- The store after a reset: an interrupted write left half-written, then the test (R165, R172). -/
def storeAfterReset (st : Store) : Store :=
  match st.cycle with
  | none => testStore st
  | some c => testStore (breakWrite c.item st)

/-- The first byte list items up to a count byte: characters beyond the count are not read (R184). -/
def counted (n : Byte) (bs : List Byte) : List Byte := bs.take n.toNat

/-- The entry that WRITE DIRECTORY's arguments give; `none` is BAD FIELD (R168). -/
def entryOfArgs (a : EntryArgs) : Option Entry := do
  let kind ← lineKindOfByte a.kind
  let lpm ← lpmOfByte a.lpm
  let rate ← rateOfByte a.rate
  let segment ← segmentOfByte a.segment
  let digits := (counted a.digitCount a.digits).map BitVec.toNat
  let name := counted a.nameCount a.name
  if a.nameCount.toNat ≤ 16 ∧ name.all (fun c => 0x20 ≤ c.toNat && c.toNat ≤ 0x7E) = true ∧
      100 ≤ a.iocLow.toNat ∧ a.iocLow.toNat ≤ 2000 ∧ 100 ≤ a.iocHigh.toNat ∧ a.iocHigh.toNat ≤ 2000 ∧
      a.iocLow.toNat ≤ a.iocHigh.toNat ∧ a.retries.toNat ≤ 5 ∧
      (if kind = .dialled then
        1 ≤ a.digitCount.toNat ∧ a.digitCount.toNat ≤ 20 ∧ digits.all (fun d => d ≤ 9) = true
       else a.digitCount.toNat = 0) then
    some { code := a.code, mask := a.mask, name := name, kind := kind, digits := digits, lpm := lpm, rate := rate,
           segment := segment, iocLow := a.iocLow.toNat, iocHigh := a.iocHigh.toNat, retries := a.retries.toNat }
  else none

/-- The configuration a channel byte of WRITE SETTINGS gives (R184). -/
def configOfByte (b : Byte) : Option ChanConfig :=
  if b.toNat = 0xFF then some .dialled else if b.toNat ≤ 23 then some (.leased b.toNat) else none

/-- Whether a list of configurations leases two channels to one entry index (R169). -/
def leasesOneEntryTwice : List ChanConfig → Bool
  | [] => false
  | .dialled :: rest => leasesOneEntryTwice rest
  | .leased i :: rest => rest.contains (.leased i) || leasesOneEntryTwice rest

/-- The settings that WRITE SETTINGS' arguments give; `none` is BAD FIELD (R164, R169). -/
def settingsOfArgs (a : SettingsArgs) : Option Settings := do
  let c1 ← configOfByte a.channels.c1
  let c2 ← configOfByte a.channels.c2
  let c3 ← configOfByte a.channels.c3
  let c4 ← configOfByte a.channels.c4
  let rate ← match a.rate.toNat with
    | 0 => some PrintRate.b1200
    | 1 => some PrintRate.b2400
    | _ => none
  if 300 ≤ a.diameter.toNat ∧ a.diameter.toNat ≤ 800 ∧ a.depth.toNat ≤ 8 ∧ 30 ≤ a.retryDelay.toNat ∧
      a.retryDelay.toNat ≤ 600 ∧ a.printer.toNat ≤ 1 ∧ leasesOneEntryTwice [c1, c2, c3, c4] = false then
    some { diameter := a.diameter.toNat, depth := a.depth.toNat, retryDelay := a.retryDelay.toNat, bureau := a.bureau,
           printerEnabled := decide (a.printer.toNat = 1), rate := rate,
           config := { c1 := c1, c2 := c2, c3 := c3, c4 := c4 } }
  else none

/-- The 17 points of WRITE CURVE as a curve; `none` where there are not 17 of them. -/
def curveOfPoints (ps : List Byte) : Option Curve :=
  if h : (ps.map BitVec.toNat).toArray.size = 17 then some ⟨(ps.map BitVec.toNat).toArray, h⟩ else none

/-- Whether no point of a list lies below the one before it (R164). -/
def nonDecreasing : List Nat → Bool
  | a :: b :: rest => decide (a ≤ b) && nonDecreasing (b :: rest)
  | _ => true

end Sys2Proof.Machine
end

