-- ==== Sys2Proof/Machine/SlipText.lean ====
section
/-! DEFINITION. The slip text of a receipt record (spec/09 R159) and the frame of a slip character (R155). -/

namespace Sys2Proof.Machine

/-- The codes of a text. -/
def text (s : String) : List Byte := s.toList.map fun c => BitVec.ofNat 8 c.toNat

/-- A decimal number with leading zeros to a width (R159). -/
def decimal : Nat → Nat → List Byte
  | 0, _ => []
  | w + 1, n => decimal w (n / 10) ++ [BitVec.ofNat 8 (0x30 + n % 10)]

/-- A capital hexadecimal digit. -/
def hexDigit (n : Nat) : Byte := if n < 10 then BitVec.ofNat 8 (0x30 + n) else BitVec.ofNat 8 (0x37 + n)

/-- A 16-bit code in four capital hexadecimal digits (R159). -/
def hex4 (w : Word) : List Byte :=
  [hexDigit (w.toNat / 4096 % 16), hexDigit (w.toNat / 256 % 16), hexDigit (w.toNat / 16 % 16), hexDigit (w.toNat % 16)]

/-- Padded with spaces to a width. -/
def padded (width : Nat) (cs : List Byte) : List Byte := cs ++ List.replicate (width - cs.length) 0x20#8

def priorityName : Priority → String
  | .flash => "FLASH"
  | .urgent => "URGENT"
  | .routine => "ROUTINE"
  | .deferred => "DEFERRED"

def outcomeName : CallOutcome → String
  | .noAnswer => "NO ANSWER"
  | .lineLost => "LINE LOST"
  | .dropped => "DROPPED"
  | .phasingFailed => "PHASING FAILED"
  | .holdTimeout => "HOLD TIMEOUT"
  | .wrongStation => "WRONG STATION"
  | .incompatible => "INCOMPATIBLE"
  | .withdrawn => "WITHDRAWN"
  | .delivered => "DELIVERED"
  | .deliveredWithGaps => "DELIVERED WITH GAPS"
  | .sentUnconfirmed => "SENT UNCONFIRMED"

/-- Line 3: the filing number and the end time (R159). -/
def filingLine (r : Receipt) : List Byte :=
  text "FILING " ++ decimal 5 r.filing ++ text "  END " ++
    (match r.endTime with
     | some t => decimal 2 (t.minute / 60) ++ text ":" ++ decimal 2 (t.minute % 60) ++ text " DAY " ++ decimal 5 t.day
     | none => text "--:-- DAY -----")

/-- Line 5: the station (R159). -/
def stationLine (r : Receipt) : List Byte :=
  text "ENTRY " ++ decimal 2 r.entry ++ text " " ++ padded 16 r.name ++ text " CODE " ++
    (match r.station with
     | some w => hex4 w
     | none => text "----")

/-- Line 6: the channel and the attempts (R159). -/
def channelLine (r : Receipt) : List Byte :=
  text "CHANNEL " ++
    (match r.channel with
     | some c => decimal 1 c.number
     | none => text "-") ++
    text "  ATTEMPTS " ++ decimal 1 r.attempts ++ (if r.exhausted then text "  RETRIES USED" else [])

/-- Line 9: the receiver report (R159). -/
def reportLine (r : Receipt) : List Byte :=
  match r.report with
  | some p =>
    text "RCVD " ++ decimal 5 p.received ++ text " UNREC " ++ decimal 5 p.unrecovered ++ text " Q" ++ decimal 1 p.grade ++
      text " PIC " ++ decimal 4 p.picture
  | none => text "NO RECEIVER REPORT"

/-- The lines of a slip, in order (R159). -/
def slipLines (bureau : Word) (r : Receipt) : List (List Byte) :=
  [text "WIRE RECEIPT  BUREAU " ++ hex4 bureau] ++
  (if r.reprint then [text "*** REPRINT ***"] else []) ++
  [filingLine r,
   text "ORDER " ++ decimal 4 r.order ++ text "  " ++ padded 8 (text (priorityName r.priority)) ++ text "  TAG " ++
     decimal 6 r.tag,
   stationLine r,
   channelLine r,
   text "OUTCOME " ++ text (outcomeName r.outcome),
   text "SENT " ++ decimal 5 r.sent ++ text " RESENT " ++ decimal 5 r.resent ++ text " SKIPPED " ++ decimal 5 r.skipped,
   reportLine r,
   text "CAPTION " ++ (if r.caption = [] then text "(NONE)" else r.caption),
   List.replicate 40 0x2D#8,
   []]

/-- The slip text: every line followed by carriage return and line feed (R159). -/
def slipText (bureau : Word) (r : Receipt) : List Byte :=
  (slipLines bureau r).flatMap fun l => l ++ [0x0D#8, 0x0A#8]

/-- The bits of a slip character on PRTX (R155): start bit low, seven data bits least significant first, even parity, two
stop bits high. -/
def characterBits (b : Byte) : List Bool :=
  let data := [0, 1, 2, 3, 4, 5, 6].map fun i => b.getLsbD i
  [false] ++ data ++ [data.foldl xor false] ++ [true, true]

/-- The time that some characters sent back to back take on PRTX, in µs: 11 bits each (R155), rounded down once for the whole run
(log entry 21). -/
def charactersTime (rate : PrintRate) (n : Nat) : Nat := n * 11 * 1000000 / rate.baud

end Sys2Proof.Machine
end

