-- ==== Sys2Proof/Machine/Tone.lean ====
section
/-! DEFINITION. The scan converter's arithmetic (spec/04): reading instants, the reference, and the tone curve. -/

namespace Sys2Proof.Machine

/-- How many reference readings a revolution has (R69). -/
def referenceReadings : Nat := 32

/-- The instant of reading `i` of a gathering, in µs after its pulse (R69): 32 reference readings, then the line readings. -/
def readingInstant (tt samples i : Nat) : Nat :=
  if i < referenceReadings then (2 * i + 1) * tt / 1024
  else (4 * samples * tt + (2 * (i - referenceReadings) + 1) * 29 * tt) / (64 * samples)

/-- The sum of some readings. -/
def sumOf (xs : List Nat) : Nat := xs.foldl (· + ·) 0

/-- The reference of a complete gathering, and its verdict (R71). -/
def referenceOf (readings : List Nat) : LatestReference :=
  let w := sumOf (readings.take 16) / 16
  let b := sumOf ((readings.drop 16).take 16) / 16
  { white := w, black := b, valid := decide (1024 ≤ w) && decide (b + 512 ≤ w) }

/-- The span limit: Bf is Wf − 512 where the span would be below 512 (R72). -/
def limitSpan (p : ReferencePair) : ReferencePair :=
  if p.white < p.black + 512 then { p with black := p.white - 512 } else p

/-- A valid revolution folded into the reference pair (R72). -/
def foldReference (pair : Option ReferencePair) (r : LatestReference) : ReferencePair :=
  match pair with
  | none => limitSpan { white := r.white, black := r.black }
  | some p => limitSpan { white := (3 * p.white + r.white + 2) / 4, black := (3 * p.black + r.black + 2) / 4 }

/-- A reading normalised against the reference pair, 0 to 1023 (R77). -/
def normalise (p : ReferencePair) (s : Nat) : Nat :=
  if s ≤ p.black then 0 else min 1023 ((s - p.black) * 1024 / (p.white - p.black))

/-- A normalised value mapped through a curve to a level (R78). -/
def levelOf (t : Curve) (n : Nat) : Nat :=
  let i := n / 64
  let f := n - 64 * i
  let lo := t.toList.getD i 0
  let hi := t.toList.getD (i + 1) 0
  lo + ((hi - lo) * f + 32) / 64

/-- The converted line: one level for each line reading, in order (R80). -/
def convertLine (p : ReferencePair) (t : Curve) (readings : List Nat) : List Nat :=
  (readings.drop referenceReadings).map fun s => levelOf t (normalise p s)

end Sys2Proof.Machine
end

