-- ==== Sys2Proof/Machine/Ops.lean ====
section
/-! DEFINITION. The shared operations on State, block by block: time, order and destination records, the drum, the head and
the mount. The state is the last argument of each. -/

namespace Sys2Proof.Machine

/-! ### Time (log entry 1) -/

/-- The timebase at `t`, unless it has passed it already. -/
def jumpTo (t : Nat) (s : State) : State := { s with now := max s.now t }

/-- The timebase at the moment a running timer has counted `length` µs. -/
def jumpPast (t : Timer) (length : Nat) (s : State) : State :=
  match t with
  | none => s
  | some t0 => jumpTo (t0 + length) s

/-- The whole milliseconds a timer has counted, 0 when stopped (R184). -/
def elapsedMs (now : Nat) (t : Timer) : Nat :=
  match t with
  | none => 0
  | some t0 => (now - t0) / 1000

/-- The time of day a record takes from the clock; absent while the clock is UNSET (R182). -/
def timeOfDay (s : State) : Option TimeOfDay := s.clock.map fun c => { minute := c.minute, day := c.day }

/-- An event of R15 or R27 has been met in this step (log entry 17). -/
def markSelection (s : State) : State := { s with selectDue := true }

/-! ### Channels, orders and destinations -/

/-- Change the state of one channel. -/
def modChan (c : Chan) (f : Channel → Channel) (s : State) : State :=
  { s with channels := s.channels.set c (f (s.channels.get c)) }

/-- The order with a number, if the book holds it. -/
def findOrder (s : State) (n : Nat) : Option Order := s.book.orders.find? (fun o => o.number == n)

/-- Change one order record. -/
def modOrder (n : Nat) (f : Order → Order) (s : State) : State :=
  { s with book := { s.book with orders := s.book.orders.map fun o => if o.number = n then f o else o } }

/-- Change the state of one order. -/
def setOrderState (n : Nat) (st : OrderState) (s : State) : State := modOrder n (fun o => { o with state := st }) s

/-- Every order in state `a` goes to state `b` (at most one order is ON DRUM, and one MOUNT REQUESTED: R4). -/
def moveOrders (a b : OrderState) (s : State) : State :=
  { s with
    book := { s.book with orders := s.book.orders.map fun o => if o.state = a then { o with state := b } else o } }

/-- One destination record. -/
def findDest (s : State) (n i : Nat) : Option Destination :=
  match findOrder s n with
  | none => none
  | some o => o.dests[i]?

/-- Change one destination record. -/
def modDest (n i : Nat) (f : Destination → Destination) (s : State) : State :=
  modOrder n (fun o => { o with dests := o.dests.modify i f }) s

/-- Whether a destination is FINAL. -/
def isFinal (d : Destination) : Bool := d.state == .final

/-- Append a filing reference (R22). -/
def appendRef (r : FilingRef) (s : State) : State := { s with filing := s.filing ++ [r] }

/-- The first number from `n` on, passing from `limit` to 1, that is not in use (R2, R23). -/
def freeNumber (limit : Nat) (used : List Nat) : Nat → Nat → Nat
  | 0, n => n
  | fuel + 1, n => if used.contains n then freeNumber limit used fuel (if n = limit then 1 else n + 1) else n

/-- The number after one given, passing from `limit` to 1 (R2, R23). -/
def numberAfter (limit n : Nat) : Nat := if n = limit then 1 else n + 1

/-! ### The drum (spec/03, 3.1 to 3.3) -/

/-- SPINNING or LOCKED: the motor is driven (R48). -/
def turning (d : Drum) : Bool := d.state == .spinning || d.state == .locked

/-- What the motor drive output carries (R48). -/
def motorOutput (s : State) : Nat := if turning s.drum then s.drum.drive else 0

/-- The drive is cut: a turning drum becomes COASTING and keeps its drive value (R48). -/
def cutDrive (s : State) : State :=
  if turning s.drum then
    { s with
      drum := { s.drum with state := .coasting, target := none, lockTimer := none, idleTimer := none,
                            coastTimer := some s.now } }
  else s

/-- The spin command (R49). -/
def spinCommand (k : LpmClass) (s : State) : State :=
  let d := s.drum
  let d' : Drum :=
    match d.state with
    | .stopped => { d with state := .spinning, target := some k, drive := 512, lockCount := 0, lockTimer := some s.now }
    | .coasting =>
      { d with state := .spinning, target := some k, drive := 512, lockCount := 0, coastTimer := none,
               lockTimer := some s.now }
    | .spinning => { d with target := some k, lockCount := 0, lockTimer := some s.now }
    | .locked =>
      if d.target = some k then d
      else { d with state := .spinning, target := some k, lockCount := 0, looseMiss := 0, lockTimer := some s.now }
  { s with drum := { d' with idleTimer := none } }

/-- The idle timer starts from zero when a round becomes CLOSED with the drum turning (R55). -/
def startIdle (s : State) : State :=
  if turning s.drum then { s with drum := { s.drum with idleTimer := some s.now } } else s

/-- The correction of one revolution: e / 256 truncated toward zero, within −24 to +24, and the drive within 0 to 1023; `e`
is the measured period less the target period (R51). -/
def correctedDrive (drive period tt : Nat) : Nat :=
  if tt ≤ period then min 1023 (drive + min 24 ((period - tt) / 256)) else drive - min 24 ((tt - period) / 256)

/-- The size of the error of a revolution (R51). -/
def periodError (period tt : Nat) : Nat := if tt ≤ period then period - tt else tt - period

/-- Within the tight tolerance, floor(Tt / 1024) (R51). -/
def withinTight (period tt : Nat) : Bool := decide (periodError period tt ≤ tt / 1024)

/-- Within the loose tolerance, floor(Tt / 256) (R51). -/
def withinLoose (period tt : Nat) : Bool := decide (periodError period tt ≤ tt / 256)

/-! ### The head and the mount (spec/03, 3.4 and 3.5) -/

/-- A completed return: HOME at position 0, the return timer stopped (R59). The drum may have become free by it (R15). -/
def headHome (s : State) : State :=
  { s with head := { s.head with state := .home, position := 0, returnTimer := none }, selectDue := true }

/-- Drive the head home: at once where the home switch is closed, otherwise RETURNING with a fresh timer (R59, R60). -/
def startReturn (s : State) : State :=
  if s.pins.home then headHome s
  else { s with head := { s.head with state := .returning, returnTimer := some s.now } }

/-- The scheduler's command of a head return; a RETURNING head is not commanded again (R59). -/
def commandReturn (s : State) : State :=
  match s.head.state with
  | .scanning => startReturn s
  | .home => startReturn s
  | .returning => s
  | .fault => s

/-- Whether the stepper drives the head home: RETURNING with the cover closed (R59, R65). -/
def stepperMoving (s : State) : Bool := s.head.state == .returning && s.pins.cover

/-- A mount request for an order's print (R61). -/
def requestMount (tag order : Nat) (s : State) : State :=
  let s := cutDrive s
  noticeBoth (.mountRequest .mount tag (some order)) { s with mount := .requested tag }

/-- A mount request withdrawn (R62); the mount state becomes EMPTY, an event of R15. -/
def withdrawMountRequest (s : State) : State :=
  match s.mount with
  | .requested t => noticeBoth (.mountRequest .cancelled t none) { s with mount := .empty, selectDue := true }
  | _ => s

/-- An unmount request, which acts on a MOUNTED print only (R62). -/
def requestUnmount (s : State) : State :=
  match s.mount with
  | .mounted t =>
    let s := cutDrive s
    noticeBoth (.mountRequest .unmount t none) { s with mount := .unmountRequested t }
  | _ => s

/-! ### Leaving the book (spec/01, 1.7) -/

/-- An order leaves the book: its place is freed and ORDER DONE is noticed; an event of R15 (R24). -/
def leaveBook (n : Nat) (s : State) : State :=
  noticeBoth (.orderDone n)
    { s with book := { s.book with orders := s.book.orders.filter fun o => o.number ≠ n }, selectDue := true }

/-- An order with every destination FINAL is FILING while a reference of it is queued, and leaves otherwise (R24). -/
def finishOrder (n : Nat) (s : State) : State :=
  if s.filing.any (fun r => r.order == n) then setOrderState n .filing s else leaveBook n s

/-- After a destination became FINAL: an order of R4's rows whose destinations are all FINAL is finished; a WITHDRAWING
order waits for its round (R24). -/
def settleOrder (n : Nat) (s : State) : State :=
  match findOrder s n with
  | none => s
  | some o => if o.dests.all isFinal && o.state != .withdrawing then finishOrder n s else s

end Sys2Proof.Machine
end

