-- ==== Sys2Proof/Machine/Rounds.lean ====
section
/-! DEFINITION. The round (spec/02): its membership, the start of scanning, its close; the end of a call (spec/06 R115, R116,
spec/07 R129) and what the scheduler makes of an outcome (spec/01 R18, R19); the abort procedure (R38, R39). -/

namespace Sys2Proof.Machine

/-! ### The round record -/

/-- A round is open in every state but CLOSED (R26). -/
def roundOpen (s : State) : Bool := s.round.state != .closed

/-- The drum is free: no round open and the head HOME (R15). -/
def drumFree (s : State) : Bool := s.round.state == .closed && s.head.state == .home

/-- Whether no channel is a member (R26). -/
def noMembers (r : Round) : Bool := Chan.all.all fun c => (r.members.get c).isNone

/-- The order of the round, if the book holds it. -/
def roundOrder (s : State) : Option Order :=
  match s.round.order with
  | none => none
  | some n => findOrder s n

/-- Whether every member's channel is PHASED (R32). -/
def membersPhased (s : State) : Bool :=
  Chan.all.all fun c => (s.round.members.get c).isNone || (s.channels.get c).state == .phased

/-- The round becomes CLOSED (R37): the record is cleared, the idle timer of a turning drum starts (R55), and for a
WITHDRAWING order the unmount request is raised and the order goes to FILING or leaves. If the head is HOME the drum is
now free (R15). -/
def closeRound (s : State) : State :=
  let s1 := markSelection (startIdle { s with round := Round.none })
  match s.round.order with
  | none => s1
  | some n =>
    match findOrder s n with
    | none => s1
    | some o => if o.state = .withdrawing then finishOrder n (requestUnmount s1) else s1

/-- A DRAINING round without members is CLOSED once the head is HOME or in FAULT (R36). -/
def closeIfDone (s : State) : State :=
  if s.round.state == .draining && noMembers s.round && (s.head.state == .home || s.head.state == .fault) then
    closeRound s
  else s

/-- The round becomes SCANNING: the head leaves HOME (R57), the converter is prepared (R73), and the line store reads the
retake depth (R84). -/
def startScanning (s : State) : State :=
  { s with
    round := { s.round with state := .scanning },
    head := { s.head with state := .scanning },
    converter := { s.converter with
      pair := none, latest := none, invalidCount := 0, invalidTotal := 0,
      curve := (roundOrder s).map fun o => { index := o.curve, points := readCurvePoints s.store o.curve } },
    lineStore := { s.lineStore with depth := some (readSettings s.store).depth } }

/-- The start condition, tested in ASSEMBLING: the drum LOCKED at the round's class and every member PHASED (R32). -/
def testStart (s : State) : State :=
  if s.round.state == .assembling && s.drum.state == .locked && s.drum.target == s.round.drumClass && membersPhased s &&
      !noMembers s.round then
    startScanning s
  else s

/-- A SCANNING round becomes DRAINING, its store flushed and its head commanded home (R35, R39). -/
def cutScanShort (s : State) : State :=
  commandReturn { s with round := { s.round with state := .draining }, lineStore := flushLines s.lineStore }

/-- A DRAINING round whose membership is empty: the store flushed, and the head commanded home unless it has been (R36,
R39). -/
def drainOut (s : State) : State :=
  let s := { s with lineStore := flushLines s.lineStore }
  if s.head.state == .scanning then commandReturn s else s

/-- What the round does when a member has left it (R32, R35, R36). -/
def afterLeaving (s : State) : State :=
  match s.round.state with
  | .closed => s
  | .assembling => if noMembers s.round then closeRound s else testStart s
  | .scanning => if noMembers s.round then closeIfDone (cutScanShort s) else s
  | .draining => if noMembers s.round then closeIfDone (drainOut s) else s

/-- A member leaves the round: it is removed from the membership and its marks are released (R33, R92). -/
def leaveRound (c : Chan) (s : State) : State :=
  if (s.round.members.get c).isSome then
    afterLeaving
      { s with round := { s.round with members := s.round.members.set c none },
               lineStore := releaseAll c s.lineStore }
  else s

/-! ### The end of a call -/

/-- The states in which a channel runs a call (R98, R118). -/
def inCall : ChanState → Bool
  | .dialling => true
  | .awaitAnswer => true
  | .announce => true
  | .caption => true
  | .phasing => true
  | .phased => true
  | .picture => true
  | .stopping => true
  | .awaitReceipt => true
  | _ => false

/-- The states in which a channel reads its back channel: ANNOUNCE to AWAIT RECEIPT (R112). -/
def readsBack : ChanState → Bool
  | .announce => true
  | .caption => true
  | .phasing => true
  | .phased => true
  | .picture => true
  | .stopping => true
  | .awaitReceipt => true
  | _ => false

/-- The states whose ending owes ABORT and STOP: CAPTION to STOPPING (R116). -/
def owesClosing : ChanState → Bool
  | .caption => true
  | .phasing => true
  | .phased => true
  | .picture => true
  | .stopping => true
  | _ => false

/-- The closing frames of a call (R116): ABORT and STOP, with the order's line count. -/
def closingFrames (s : State) (ch : Channel) : List ForwardFrame :=
  match ch.call with
  | none => []
  | some k =>
    match findOrder s k.order with
    | none => []
    | some o => [.abort k.order, .stop k.order o.lines]

/-- What leaves with every ending and with the entry to AWAIT RECEIPT (R129). -/
def clearPicture (ch : Channel) : Channel := { ch with queue := [], hold := none, stopping := 0 }

/-- The frame in progress on a back channel is discarded, with what follows it up to the next idle of ten bit times (R112, R185). -/
def discardFrame (r : Reception) : Reception :=
  if r.run = some [] ∧ r.byte = none then r else { r with run := none }

/-- The channel's part of the end of a call, for all three endings (R115 steps 4 and 5, R116, R129): the timers stop, the
frame on the line is completed or cut off, the frames owed are set, a back-channel frame in progress is discarded (R112), and
the channel enters RELEASE. -/
def closeCall (c : Chan) (ending : CallEnding) (s : State) : State :=
  let ch := s.channels.get c
  let closing := if owesClosing ch.state then closingFrames s ch else []
  let running := if owesClosing ch.state then ch.onLine else none
  let ended : Channel :=
    { clearPicture ch with
      state := .release, ending := some ending, stateTimer := none, lineTimer := none, carrierTimer := none,
      dial := .silent, reception := discardFrame ch.reception }
  let ended : Channel :=
    match running with
    | some f => { ended with onLine := some f, owed := closing }
    | none => { ended with onLine := closing.head?, owed := closing.tail, runStart := s.now, runBytes := 0 }
  { s with channels := s.channels.set c ended }

/-- Retryable outcomes (R19). -/
def retryable : CallOutcome → Bool
  | .noAnswer => true
  | .lineLost => true
  | .dropped => true
  | .phasingFailed => true
  | .holdTimeout => true
  | _ => false

/-- The retry allowance of an entry as it now stands; an EMPTY or DAMAGED entry allows none (R19). -/
def allowance (s : State) (entry : Nat) : Nat :=
  match validEntry s.store entry with
  | some e => e.retries
  | none => 0

/-- The details a report brings into the destination record, the attempt counted and the channel removed (R18). -/
def reportedDest (s : State) (ch : Channel) (report : Option Report) (d : Destination) : Destination :=
  { d with
    station := ch.station, sent := ch.sent, resent := ch.resent, skipped := ch.skipped, report := report,
    endTime := timeOfDay s, attempts := d.attempts + 1, channel := none }

/-- An outcome reported to the scheduler (R18, R19): discarded unless the destination is SENDING on that channel;
otherwise the destination is DELAYED, or FINAL with a filing reference. -/
def reportOutcome (c : Chan) (o : CallOutcome) (report : Option Report) (s : State) : State :=
  let ch := s.channels.get c
  match ch.call with
  | none => s
  | some k =>
    match findDest s k.order k.dest with
    | none => s
    | some d =>
      if d.state = .sending ∧ d.channel = some c then
        let d := reportedDest s ch report d
        if retryable o = true ∧ d.attempts < allowance s d.entry + 1 then
          modDest k.order k.dest
            (fun _ => { d with
              state := .delayed,
              retryTimer := some { start := s.now, length := (readSettings s.store).retryDelay * 1000000 } }) s
        else
          settleOrder k.order
            (appendRef { order := k.order, dest := k.dest, channel := some c }
              (modDest k.order k.dest
                (fun _ => { d with state := .final, outcome := some o, exhausted := retryable o }) s))
      else s

/-- A call ends with an outcome (R115): report, leaving the round, RELEASE. -/
def endWithOutcome (c : Chan) (o : CallOutcome) (report : Option Report) (s : State) : State :=
  leaveRound c (closeCall c (.outcome o) (reportOutcome c o report s))

/-- The scheduler returns a destination in ASSIGNED or SENDING to READY, no attempt counted; an event of R15 (R21). -/
def returnDest (n i : Nat) (s : State) : State :=
  match findDest s n i with
  | none => s
  | some d =>
    if d.state = .assigned ∨ d.state = .sending then
      markSelection (modDest n i (fun d => { d with state := .ready, channel := none }) s)
    else s

/-! ### The abort procedure -/

/-- The destination a member serves returned to READY (R41 to R45). -/
def returnMember (c : Chan) (s : State) : State :=
  match s.round.members.get c, s.round.order with
  | some i, some n => returnDest n i s
  | _, _ => s

/-- The destinations of all members returned to READY (R41 to R45). -/
def returnMembers (s : State) : State :=
  returnMember .c4 (returnMember .c3 (returnMember .c2 (returnMember .c1 s)))

/-- A member released by the abort: its marks go, its call ends RELEASED and it enters RELEASE (R38, R92). -/
def releaseMember (c : Chan) (s : State) : State :=
  if (s.round.members.get c).isSome then
    closeCall c .released
      { s with round := { s.round with members := s.round.members.set c none },
               lineStore := releaseAll c s.lineStore }
  else s

/-- All members released at once (R38). -/
def releaseMembers (s : State) : State :=
  releaseMember .c4 (releaseMember .c3 (releaseMember .c2 (releaseMember .c1 s)))

/-- The abort procedure (R38, R39). -/
def abortRound (s : State) : State :=
  match s.round.state with
  | .closed => s
  | .assembling => closeRound (releaseMembers s)
  | .scanning => closeIfDone (cutScanShort (releaseMembers s))
  | .draining => closeIfDone (drainOut (releaseMembers s))

/-- An abort for a device fault: the members' destinations return to READY, the procedure runs, and DRUM FAULT is noticed to
both links with the round's order number (R42 to R45). -/
def abortForFault (cause : DrumCause) (s : State) : State :=
  noticeBoth (.drumFault cause s.round.order) (abortRound (returnMembers s))

/-! ### The trouble count (spec/07, 7.6) -/

/-- A rise of the trouble count, with the caution of R135 and the drop of R136. -/
def raiseTrouble (c : Chan) (n : Nat) (s : State) : State :=
  let ch := s.channels.get c
  let t := ch.trouble + n
  let s1 := modChan c (fun ch => { ch with trouble := t }) s
  let s2 :=
    if ch.trouble < 48 ∧ 48 ≤ t ∧ ch.caution = .armed then
      match ch.call with
      | none => s1
      | some k =>
        noticeBoth (.lineTrouble c t k.order k.dest) (modChan c (fun ch => { ch with caution := .disarmed }) s1)
    else s1
  if 128 ≤ t then endWithOutcome c .dropped none s2 else s2

/-- A fall of the trouble count by one, with the re-arming below 32 (R134, R135). -/
def lowerTrouble (ch : Channel) : Channel :=
  { ch with trouble := ch.trouble - 1, caution := if ch.trouble - 1 < 32 then .armed else ch.caution }

/-- The trouble count becomes 0, and the caution ARMED (R134, R135). -/
def clearTrouble (ch : Channel) : Channel := { ch with trouble := 0, caution := .armed }

/-- IDLE or OUT by the service flag (R116, R117, R118). -/
def restState (ch : Channel) : ChanState :=
  match ch.service with
  | .inService => .idle
  | .outOfService => .out

/-- After a channel came to rest: becoming IDLE is an event of R15. -/
def markIfIdle (c : Chan) (s : State) : State :=
  if (s.channels.get c).state = .idle then markSelection s else s

end Sys2Proof.Machine
end

