-- ==== Sys2Proof/Machine/Selection.lean ====
section
/-! DEFINITION. The choice of the order for the drum (spec/01 R15 to R17), round assembly (spec/02 R27 to R31) and the
beginning of a call (spec/06 R100). -/

namespace Sys2Proof.Machine

/-! ### Geometry and compatibility -/

/-- The derived geometry of an order (R6). -/
def iocOf (diameter resolution : Nat) : Nat := diameter * resolution / 100

def samplesOf (diameter resolution : Nat) : Nat := diameter * resolution * 355 / 11300

def linesOf (length resolution : Nat) : Nat := length * resolution / 100

/-- The fit check: the bits of a line against the budget of one receiver revolution (R7). -/
def fits (samples : Nat) (e : Entry) : Bool :=
  decide ((samples + 10 * ceilDiv samples e.segment.size) * 8 ≤ e.rate.bits * 60 / e.lpm.lpm)

/-- The tests of R7 against the fields of a VALID entry. -/
def compatible (ioc samples : Nat) (e : Entry) : Bool :=
  decide (e.iocLow ≤ ioc) && decide (ioc ≤ e.iocHigh) && fits samples e

/-! ### The beginning of a call -/

/-- The entry to ANNOUNCE (R104, R105): the state timer and the line timer start, and the carrier-loss timer where there is
no carrier (R114). -/
def enterAnnounce (c : Chan) (s : State) : State :=
  modChan c (fun ch =>
    { ch with
      state := .announce, stateTimer := some s.now, dial := .silent,
      lineTimer := some { start := s.now, begun := 0 },
      linePeriod := (match ch.call with
        | some k => k.entry.lpm.period
        | none => ch.linePeriod),
      carrierTimer := if s.pins.carrier.get c then none else some s.now }) s

/-- The call state a beginning call sets up (R100, R124). -/
def freshCall (call : Call) (ch : Channel) : Channel :=
  { ch with
    call := some call, station := none, ending := none, phaseCount := 0, captionSent := 0, onLine := none, owed := [],
    sendPosition := 0, queue := [], hold := none, stopping := 0, sent := 0, resent := 0, skipped := 0, refused := 0 }

/-- The destination becomes SENDING: its latest details go, and the start time is taken (R3, R5). -/
def sendingDest (s : State) (d : Destination) : Destination :=
  { d with
    state := .sending, station := none, endTime := none, report := none, sent := 0, resent := 0, skipped := 0,
    startTime := timeOfDay s }

/-- A call begins (R100): the call copy, and DIALLING off hook or ANNOUNCE; the destination becomes SENDING and the order is
attempted (R5). -/
def beginCall (c : Chan) (n i : Nat) (s : State) : State :=
  match findDest s n i with
  | none => s
  | some d =>
    match validEntry s.store d.entry with
    | none => s
    | some e =>
      let settings := readSettings s.store
      let call : Call :=
        { order := n, dest := i, entryIndex := d.entry, entry := e, config := settings.config.get c,
          bureau := settings.bureau }
      let s1 := modOrder n (fun o => { o with attempted := true }) (modDest n i (sendingDest s) s)
      let s2 := modChan c (freshCall call) s1
      match call.config with
      | .dialled =>
        modChan c (fun ch =>
          { ch with state := .dialling, hook := .offHook, stateTimer := some s.now, dial := .settle }) s2
      | .leased _ => enterAnnounce c s2

/-! ### Round assembly -/

/-- What assembly has found so far: the membership, the classes of the assigned entries, and the destinations that failed
the recheck. -/
structure Walk where
  members : PerChan (Option Nat)
  classes : List LpmClass
  failed : List Nat
  deriving DecidableEq, Repr

/-- What the walk decides for one destination (R28, R30). -/
inductive Verdict where
  | passOver
  | fail
  | assign (c : Chan) (lpm : LpmClass)
  deriving DecidableEq, Repr

/-- A channel that is IDLE and not yet taken in this assembly (R28). -/
def available (s : State) (w : Walk) (c : Chan) : Bool :=
  (s.channels.get c).state == .idle && (w.members.get c).isNone

/-- The recheck of a destination with an eligible channel (R30). -/
def recheck (o : Order) (e : Entry) (c : Chan) : Verdict :=
  if compatible o.ioc o.samples e then .assign c e.lpm else .fail

/-- The verdict on one READY destination (R28, R30). An entry that is EMPTY or DAMAGED fails the recheck (log entry 10). -/
def verdict (s : State) (o : Order) (w : Walk) (entry : Nat) : Verdict :=
  let config := (readSettings s.store).config
  match validEntry s.store entry with
  | none => .fail
  | some e =>
    match e.kind with
    | .leased c =>
      if available s w c then
        if config.get c = .leased entry then recheck o e c else .fail
      else .passOver
    | .dialled =>
      match Chan.all.find? (fun c => config.get c == .dialled && available s w c) with
      | none => .passOver
      | some c => recheck o e c

/-- One destination of the walk: only READY ones take part, and none once four are assigned (R28). -/
def walkStep (s : State) (o : Order) (i : Nat) (d : Destination) (w : Walk) : Walk :=
  if d.state = .ready ∧ w.classes.length < 4 then
    match verdict s o w d.entry with
    | .passOver => w
    | .fail => { w with failed := w.failed ++ [i] }
    | .assign c lpm => { w with members := w.members.set c (some i), classes := w.classes ++ [lpm] }
  else w

/-- The walk over the destinations in index order (R28). -/
def walkFrom (s : State) (o : Order) : Nat → List Destination → Walk → Walk
  | _, [], w => w
  | i, d :: rest, w => walkFrom s o (i + 1) rest (walkStep s o i d w)

/-- The walk of an order (R28 to R30). -/
def walkOrder (s : State) (o : Order) : Walk :=
  walkFrom s o 0 o.dests { members := PerChan.all none, classes := [], failed := [] }

/-- A destination that fails the recheck: FINAL, INCOMPATIBLE, its end time taken, a reference appended (R30, R144). -/
def failDest (n : Nat) (s : State) (i : Nat) : State :=
  appendRef { order := n, dest := i, channel := none }
    (modDest n i (fun d => { d with state := .final, outcome := some .incompatible, endTime := timeOfDay s }) s)

/-- The highest class of a list (R31). -/
def highestClass : List LpmClass → LpmClass
  | [] => .l30
  | [k] => k
  | k :: rest => if (highestClass rest).lpm ≤ k.lpm then k else highestClass rest

/-- A destination assigned to a channel (R29). -/
def assignMember (n : Nat) (c : Chan) (m : Option Nat) (s : State) : State :=
  match m with
  | none => s
  | some i => modDest n i (fun d => { d with state := .assigned, channel := some c }) s

/-- A member's call begun (R31 step 4). -/
def beginMember (n : Nat) (c : Chan) (m : Option Nat) (s : State) : State :=
  match m with
  | none => s
  | some i => beginCall c n i s

/-- Do something for each member in channel order. -/
def forMembers (f : Chan → Option Nat → State → State) (m : PerChan (Option Nat)) (s : State) : State :=
  f .c4 m.c4 (f .c3 m.c3 (f .c2 m.c2 (f .c1 m.c1 s)))

/-- The round forms (R31): ASSEMBLING with its order, S, class and members, the held-revolution count 0 (R57), the spin command,
and every member's call begun. -/
def formRound (n samples : Nat) (w : Walk) (s : State) : State :=
  let k := highestClass w.classes
  let s1 := forMembers (assignMember n) w.members s
  let s2 : State :=
    { s1 with
      round := { state := .assembling, order := some n, drumClass := some k, members := w.members,
                 scanComplete := false, samples := samples },
      head := { s1.head with held := 0 } }
  forMembers (beginMember n) w.members (spinCommand k s2)

/-- The conditions of round assembly (R27). -/
def assemblyAllowed (s : State) : Bool :=
  drumFree s && s.pins.cover && s.converter.lamp == .ok &&
    (match s.mount with
     | .mounted _ => true
     | _ => false)

/-- Round assembly for the order ON DRUM (R27 to R31): the state, and whether a fresh selection is to be made because the
walk made a destination FINAL and no round formed. -/
def assemble (n : Nat) (s : State) : State × Bool :=
  if assemblyAllowed s then
    match findOrder s n with
    | none => (s, false)
    | some o =>
      let w := walkOrder s o
      let s1 := w.failed.foldl (failDest n) s
      if w.classes = [] then
        if w.failed = [] then (s1, false) else (settleOrder n s1, true)
      else (settleOrder n (formRound n o.samples w s1), false)
  else (s, false)

/-! ### Selection -/

/-- A candidate (R16 step 1). -/
def isCandidate (o : Order) : Bool :=
  (o.state == .waiting || o.state == .mountRequested || o.state == .onDrum) && o.dests.any fun d => d.state == .ready

/-- The better of two orders by priority alone, then by submit sequence. -/
def ahead (a b : Order) : Bool :=
  decide (a.priority.rank < b.priority.rank) ||
    (decide (a.priority.rank = b.priority.rank) && decide (a.sequence ≤ b.sequence))

/-- The first order in selection order: highest priority, then lowest submit sequence (R16 step 4, 1.1). -/
def firstOrder : List Order → Option Order
  | [] => none
  | o :: rest =>
    match firstOrder rest with
    | none => some o
    | some b => if ahead o b then some o else some b

/-- The tag of a print in MOUNTED. -/
def mountedTag (m : Mount) : Option Nat :=
  match m with
  | .mounted t => some t
  | _ => none

/-- The choice of R16. -/
def chooseOrder (s : State) : Option Order :=
  let cands := s.book.orders.filter isCandidate
  match firstOrder cands with
  | none => none
  | some best =>
    match cands.find? (fun o => o.state == .onDrum && decide (o.priority.rank ≤ best.priority.rank)) with
    | some o => some o
    | none =>
      match mountedTag s.mount with
      | none => some best
      | some t =>
        match firstOrder (cands.filter fun o => o.priority == best.priority && o.tag == t) with
        | some o => some o
        | none => some best

/-- The scheduler acts on the choice (R17): the state, and whether round assembly follows. -/
def actOnChoice (o : Order) (s : State) : State × Bool :=
  if o.state = .onDrum then (s, true)
  else if mountedTag s.mount = some o.tag then
    (setOrderState o.number .onDrum (moveOrders .onDrum .waiting s), true)
  else if o.state = .mountRequested then (s, false)
  else
    (requestMount o.tag o.number
      (setOrderState o.number .mountRequested (moveOrders .mountRequested .waiting (moveOrders .onDrum .waiting s))),
     false)

/-- A selection, and the fresh selections that walks without a round call for (R31); `fuel` bounds them, since each takes at
least one READY destination away. -/
def selectOrder : Nat → State → State
  | 0, s => s
  | fuel + 1, s =>
    match chooseOrder s with
    | none => s
    | some o =>
      let (s1, onDrum) := actOnChoice o s
      if onDrum then
        let (s2, again) := assemble o.number s1
        if again then selectOrder fuel s2 else s2
      else s1

/-- The number of READY destinations in the book. -/
def readyCount (s : State) : Nat :=
  (s.book.orders.map fun o => (o.dests.filter fun d => d.state == .ready).length).foldl (· + ·) 0

/-- The end of a step: if an event of R15 or R27 was met in it and the drum is free, a selection is made (log entry 17). -/
def finishStep (s : State) : State :=
  let s' := if s.selectDue && drumFree s then selectOrder (readyCount s + 1) s else s
  { s' with selectDue := false }

end Sys2Proof.Machine
end

