-- ==== Sys2Proof/Machine/Calls.lean ====
section
/-! DEFINITION. The meanings of the events of a call that no frame brings: the carrier (spec/06 R103, R114), the dialling
(R102), the limits (R103, R105, R111, R114, R117; spec/07 R131) and the end of RELEASE (R116). -/

namespace Sys2Proof.Machine

/-! ### Lengths, in µs -/

/-- The line settle before the first digit, 2.0 s (R102). -/
def settleLength : Nat := 2000000

/-- A digit's tone, and the silence after it: 80 ms each (R102). -/
def toneLength : Nat := 80000

/-- The end of the tone of digit `k`, counted from the entry to DIALLING (R102). -/
def toneEnd (k : Nat) : Nat := settleLength + 2 * toneLength * k + toneLength

/-- The end of the silence after digit `k`, counted from the entry to DIALLING (R102). -/
def silenceEnd (k : Nat) : Nat := settleLength + 2 * toneLength * (k + 1)

def answerLimitLength : Nat := 40000000
def announceLimitLength : Nat := 10000000
def carrierLossLength : Nat := 6000000
def receiptLimitLength : Nat := 20000000
def cooldownLength : Nat := 30000000
def holdLimitLength : Nat := 90000000

/-! ### Carrier -/

/-- CARRIER_PRESENT (R103, R114): the answer in AWAIT ANSWER; in the states that read the back channel the carrier-loss timer
stops. -/
def execCarrierPresent (c : Chan) (s : State) : Host.Outcome State Fault Refusal :=
  let s1 : State := { s with pins := { s.pins with carrier := s.pins.carrier.set c true } }
  let st := (s.channels.get c).state
  if st = .awaitAnswer then .next (enterAnnounce c s1)
  else if readsBack st then .next (modChan c (fun ch => { ch with carrierTimer := none }) s1)
  else .next s1

/-- CARRIER_ABSENT (R114): a change from carrier to none starts the carrier-loss timer in the states that watch it. -/
def execCarrierAbsent (c : Chan) (s : State) : Host.Outcome State Fault Refusal :=
  let s1 : State := { s with pins := { s.pins with carrier := s.pins.carrier.set c false } }
  if s.pins.carrier.get c = true ∧ readsBack (s.channels.get c).state = true then
    .next (modChan c (fun ch => { ch with carrierTimer := some s.now }) s1)
  else .next s1

/-! ### Dialling -/

/-- The number of digits of a channel's call (R100). -/
def digitCount (ch : Channel) : Nat :=
  match ch.call with
  | none => 0
  | some k => k.entry.digits.length

/-- The tone pair the output carries: that of digit `k` of the dial number while its tone sounds (R101, R102). -/
def dialTone (ch : Channel) : Option Nat :=
  match ch.dial, ch.call with
  | .tone k, some call => call.entry.digits[k]?
  | _, _ => none

/-- The entry to AWAIT ANSWER (R103): the state timer from zero; carrier already present is the answer. -/
def enterAwaitAnswer (c : Chan) (s : State) : State :=
  let s1 := modChan c (fun ch => { ch with state := .awaitAnswer, stateTimer := some s.now, dial := .silent }) s
  if s.pins.carrier.get c then enterAnnounce c s1 else s1

/-- DIAL_SETTLE_END (R102): the first digit's tone begins. -/
def execDialSettleEnd (c : Chan) (s : State) : Host.Outcome State Fault Refusal :=
  let ch := s.channels.get c
  if ch.state = .dialling ∧ ch.dial = .settle then
    .next (modChan c (fun ch => { ch with dial := .tone 0 }) (jumpPast ch.stateTimer settleLength s))
  else .next s

/-- DIGIT_TONE_END (R102): the silence after the digit begins. -/
def execDigitToneEnd (c : Chan) (s : State) : Host.Outcome State Fault Refusal :=
  let ch := s.channels.get c
  match ch.state, ch.dial with
  | .dialling, .tone k =>
    .next (modChan c (fun ch => { ch with dial := .gap k }) (jumpPast ch.stateTimer (toneEnd k) s))
  | _, _ => .next s

/-- DIGIT_SILENCE_END (R102): the next digit's tone begins, or AWAIT ANSWER. -/
def execDigitSilenceEnd (c : Chan) (s : State) : Host.Outcome State Fault Refusal :=
  let ch := s.channels.get c
  match ch.state, ch.dial with
  | .dialling, .gap k =>
    let s1 := jumpPast ch.stateTimer (silenceEnd k) s
    if k + 1 < digitCount ch then .next (modChan c (fun ch => { ch with dial := .tone (k + 1) }) s1)
    else .next (enterAwaitAnswer c s1)
  | _, _ => .next s

/-! ### Limits -/

/-- ANSWER_LIMIT (R103): 40 s in AWAIT ANSWER end the call with NO ANSWER. -/
def execAnswerLimit (c : Chan) (s : State) : Host.Outcome State Fault Refusal :=
  let ch := s.channels.get c
  if ch.state = .awaitAnswer ∧ ch.stateTimer.isSome = true then
    .next (finishStep (endWithOutcome c .noAnswer none (jumpPast ch.stateTimer answerLimitLength s)))
  else .next s

/-- ANNOUNCE_LIMIT (R105): 10 s in ANNOUNCE end the call with NO ANSWER. -/
def execAnnounceLimit (c : Chan) (s : State) : Host.Outcome State Fault Refusal :=
  let ch := s.channels.get c
  if ch.state = .announce ∧ ch.stateTimer.isSome = true then
    .next (finishStep (endWithOutcome c .noAnswer none (jumpPast ch.stateTimer announceLimitLength s)))
  else .next s

/-- CARRIER_LOSS_LIMIT (R114): 6 s without carrier end the call with LINE LOST. -/
def execCarrierLossLimit (c : Chan) (s : State) : Host.Outcome State Fault Refusal :=
  let ch := s.channels.get c
  if readsBack ch.state = true ∧ ch.carrierTimer.isSome = true then
    .next (finishStep (endWithOutcome c .lineLost none (jumpPast ch.carrierTimer carrierLossLength s)))
  else .next s

/-- RECEIPT_LIMIT (R111): 20 s in AWAIT RECEIPT end the call with SENT UNCONFIRMED. -/
def execReceiptLimit (c : Chan) (s : State) : Host.Outcome State Fault Refusal :=
  let ch := s.channels.get c
  if ch.state = .awaitReceipt ∧ ch.stateTimer.isSome = true then
    .next (finishStep (endWithOutcome c .sentUnconfirmed none (jumpPast ch.stateTimer receiptLimitLength s)))
  else .next s

/-- HOLD_TIMEOUT (R131): 90 s of HOLDING in PHASED or PICTURE end the call. -/
def execHoldTimeout (c : Chan) (s : State) : Host.Outcome State Fault Refusal :=
  let ch := s.channels.get c
  if (ch.state = .phased ∨ ch.state = .picture) ∧ ch.hold.isSome = true then
    .next (finishStep (endWithOutcome c .holdTimeout none (jumpPast ch.hold holdLimitLength s)))
  else .next s

/-- The departure from COOLDOWN (R117): IDLE or OUT, the trouble count 0. -/
def leaveCooldown (ch : Channel) : Channel := { clearTrouble ch with state := restState ch, stateTimer := none }

/-- COOLDOWN_EXPIRY (R117): after 30 s. -/
def execCooldownExpiry (c : Chan) (s : State) : Host.Outcome State Fault Refusal :=
  let ch := s.channels.get c
  if ch.state = .cooldown ∧ ch.stateTimer.isSome = true then
    .next (finishStep (markIfIdle c (modChan c leaveCooldown (jumpPast ch.stateTimer cooldownLength s))))
  else .next s

/-! ### The end of RELEASE -/

/-- The frames on the line and behind it. -/
def framesOut (ch : Channel) : List ForwardFrame := ch.onLine.toList ++ ch.owed

/-- The line signalling rate of the call copy (R100). -/
def callRate (ch : Channel) : LineRate :=
  match ch.call with
  | none => .r4800
  | some k => k.entry.rate

/-- The instant at which some frames have left the line, sent back to back behind the bytes of their run that have gone (R120). -/
def framesEnd (ch : Channel) (fs : List ForwardFrame) : Nat :=
  ch.runStart + lineTime (callRate ch) (ch.runBytes + bytesOnLine fs)

/-- The bit that a channel's forward data output carries now (R120): the frame on the line, from its first byte on, each byte most
significant bit first, at the rate of the call copy; `none` is idle. -/
def forwardOutput (s : State) (c : Chan) : Option Bool :=
  let ch := s.channels.get c
  match ch.onLine with
  | none => none
  | some f => (frameBits f)[(s.now - ch.runStart) * (callRate ch).bits / 1000000 - 8 * ch.runBytes]?

/-- The endings that R115 sends to COOLDOWN. -/
def restsLine : Option CallEnding → Bool
  | some (.outcome .wrongStation) => true
  | some (.outcome .phasingFailed) => true
  | some (.outcome .holdTimeout) => true
  | some (.outcome .lineLost) => true
  | some (.outcome .dropped) => true
  | _ => false

/-- The line put down (R116): on hook, the call absent, then COOLDOWN, OUT or IDLE. -/
def putDown (now : Nat) (ch : Channel) : Channel :=
  let ch := { ch with hook := .onHook, call := none, onLine := none, owed := [] }
  if restsLine ch.ending then { ch with state := .cooldown, stateTimer := some now } else { ch with state := restState ch }

/-- RELEASE_COMPLETE (R116): every frame owed has left the line, or none was owed. -/
def execReleaseComplete (c : Chan) (s : State) : Host.Outcome State Fault Refusal :=
  let ch := s.channels.get c
  if ch.state = .release then
    let s1 := if framesOut ch = [] then s else jumpTo (framesEnd ch (framesOut ch)) s
    .next (finishStep (markIfIdle c (modChan c (putDown s1.now) s1)))
  else .next s

end Sys2Proof.Machine
end

