-- ==== Sys2Proof/Machine/BackChannel.lean ====
section
/-! DEFINITION. The meanings of the back-channel frames (spec/06 R105, R106, R112, R113; spec/07 R130 to R132; spec/08
R140). -/

namespace Sys2Proof.Machine

/-- Whether a station code agrees with a code in every position where the mask holds a one (R106, R113). -/
def codeMatches (code : Word) (e : Entry) : Bool := (code ^^^ e.code) &&& e.mask == 0#16

/-- The kinds expected in each state (R113). -/
def expects : ChanState → BackKind → Bool
  | .announce, .station => true
  | .phasing, .phased => true
  | .phased, .hold => true
  | .phased, .go => true
  | .picture, .retake => true
  | .picture, .hold => true
  | .picture, .go => true
  | .stopping, .retake => true
  | .awaitReceipt, .receipt => true
  | _, _ => false

/-- What the tests of R112 and R113 make of a frame with a good check. -/
inductive FrameTest where
  | unread
  | stranger
  | unexpected
  | taken
  deriving DecidableEq, Repr

/-- The tests of R112 and R113, in their order. -/
def testFrame (ch : Channel) (code : Word) (kind : BackKind) : FrameTest :=
  if readsBack ch.state = false then .unread
  else if ch.state = .announce ∧ kind = .station then .taken
  else
    match ch.call with
    | none => .unread
    | some k =>
      if codeMatches code k.entry = false then .stranger
      else if expects ch.state kind then .taken
      else .unexpected

/-- The last fault code of a channel replaced (R138). -/
def setFault (c : Chan) (f : FaultCode) (s : State) : State := modChan c (fun ch => { ch with fault := f }) s

/-- A frame with a good check through the tests; `act` is what a frame taken does (R113). -/
def receiveFrame (c : Chan) (code : Word) (kind : BackKind) (act : State → State) (s : State) : State :=
  match testFrame (s.channels.get c) code kind with
  | .unread => s
  | .stranger => setFault c .stranger s
  | .unexpected => setFault c .unexpected s
  | .taken => act s

/-- The first entry in index order that is VALID and matches a code (R106). -/
def identify (st : Store) (code : Word) : Option Nat :=
  (List.range 24).find? fun i =>
    match validEntry st i with
    | none => false
    | some e => codeMatches code e

/-- A STATION frame taken in ANNOUNCE (R106). -/
def takeStation (c : Chan) (code : Word) (s : State) : State :=
  let s1 := modChan c (fun ch => { ch with station := some code }) s
  let ch := s.channels.get c
  if (identify s.store code).isSome ∧ identify s.store code = ch.call.map Call.entryIndex then
    modChan c (fun ch => { ch with state := .caption, stateTimer := none }) s1
  else endWithOutcome c .wrongStation none s1

/-- STATION (R105, R106, R113). -/
def execStation (c : Chan) (code : Word) (s : State) : Host.Outcome State Fault Refusal :=
  .next (finishStep (receiveFrame c code .station (takeStation c code) s))

/-- A PHASED frame taken in PHASING (R108): PHASED, reported to the scheduler, which tests the start condition (R32). -/
def takePhased (c : Chan) (s : State) : State := testStart (modChan c (fun ch => { ch with state := .phased }) s)

/-- PHASED (R108, R113). -/
def execPhased (c : Chan) (code : Word) (s : State) : Host.Outcome State Fault Refusal :=
  .next (receiveFrame c code .phased (takePhased c) s)

/-- Whether a retake queue holds an entry for a line, of either kind (R132). -/
def queueHolds (q : List RetakeEntry) (line : Nat) : Bool := q.contains (.resend line) || q.contains (.skip line)

/-- The number of places in a retake queue (R133). -/
def queuePlaces : Nat := 6

/-- Step 3 of R132: the entry for a line, made by the line store's answer. -/
def enqueueRetake (c : Chan) (line : Nat) (s : State) : State :=
  let ch := s.channels.get c
  if queueHolds ch.queue line then s
  else if queuePlaces ≤ ch.queue.length then modChan c (fun ch => { ch with refused := satSucc ch.refused }) s
  else
    let entry := if (askLine c line s.lineStore).isSome then RetakeEntry.resend line else RetakeEntry.skip line
    modChan c (fun ch => { ch with queue := ch.queue ++ [entry] }) s

/-- A RETAKE taken in PICTURE or STOPPING (R132). -/
def takeRetake (c : Chan) (line : Nat) (s : State) : State :=
  let ch := s.channels.get c
  if ch.sendPosition ≤ line then setFault c .badRetake s
  else
    let s1 := raiseTrouble c 8 s
    if 128 ≤ ch.trouble + 8 then s1 else enqueueRetake c line s1

/-- RETAKE (R132, R113). -/
def execRetake (c : Chan) (code : Word) (line : Word) (s : State) : Host.Outcome State Fault Refusal :=
  .next (finishStep (receiveFrame c code .retake (takeRetake c line.toNat) s))

/-- A HOLD taken (R130): HOLDING, its timer from the first start. -/
def takeHold (c : Chan) (s : State) : State :=
  modChan c (fun ch => { ch with hold := match ch.hold with
    | none => some s.now
    | some t => some t }) s

/-- HOLD (R130, R113). -/
def execHold (c : Chan) (code : Word) (s : State) : Host.Outcome State Fault Refusal :=
  .next (receiveFrame c code .hold (takeHold c) s)

/-- A GO taken (R131). -/
def takeGo (c : Chan) (s : State) : State := modChan c (fun ch => { ch with hold := none }) s

/-- GO (R131, R113). -/
def execGo (c : Chan) (code : Word) (s : State) : Host.Outcome State Fault Refusal :=
  .next (receiveFrame c code .go (takeGo c) s)

/-- The receiver report as taken, grade and picture number clamped (R140). -/
def reportOf (received unrecovered : Word) (grade : Byte) (picture : Word) : Report :=
  { received := received.toNat, unrecovered := unrecovered.toNat, grade := min 9 grade.toNat,
    picture := min 9999 picture.toNat }

/-- The outcome of a report (R140). -/
def outcomeOf (r : Report) : CallOutcome := if r.unrecovered = 0 then .delivered else .deliveredWithGaps

/-- A RECEIPT taken in AWAIT RECEIPT (R140, R111). -/
def takeReceipt (c : Chan) (r : Report) (s : State) : State := endWithOutcome c (outcomeOf r) (some r) s

/-- RECEIPT (R140, R113). -/
def execReceipt (c : Chan) (code received unrecovered : Word) (grade : Byte) (picture : Word) (s : State) :
    Host.Outcome State Fault Refusal :=
  .next (finishStep (receiveFrame c code .receipt (takeReceipt c (reportOf received unrecovered grade picture)) s))

/-- A frame whose check fails, in a state that reads the back channel (R112): BAD CHECK, and the trouble count up by 4. -/
def failedCheck (c : Chan) (s : State) : State :=
  if readsBack (s.channels.get c).state then raiseTrouble c 4 (setFault c .badCheck s) else s

/-- BAD_CHECK (R112). -/
def execBadCheck (c : Chan) (s : State) : Host.Outcome State Fault Refusal := .next (finishStep (failedCheck c s))

/-- FRAMING_FAILURE (R185): as one frame whose check fails. -/
def execFramingFailure (c : Chan) (s : State) : Host.Outcome State Fault Refusal := .next (finishStep (failedCheck c s))

/-- FRAME_IGNORED (R113): a frame that the sender test or the kind test ignores; one that R113 would take is no such event and
changes nothing (log entry 24). -/
def execFrameIgnored (c : Chan) (code : Word) (kind : BackKind) (s : State) : Host.Outcome State Fault Refusal :=
  .next (receiveFrame c code kind id s)

end Sys2Proof.Machine
end

