-- ==== Sys2Proof/Machine/Drum.lean ====
section
/-! DEFINITION. The meanings of the drum controller's events: the index pulse (spec/03 R50 to R53, R58) with the scan
converter's offer (spec/04 R69 to R76) and the filing of a line (spec/05 R85 to R87), the photocell reading (R68), the
cover, clamp and home switch (R59, R64, R65), and the limits of R54 to R56 and R60. -/

namespace Sys2Proof.Machine

/-! ### The offer of a revolution -/

/-- The samples per line S of the order in the round, 0 while no round is open (R69); the round record keeps it when the order
leaves the book before the round closes (R26). -/
def roundSamples (s : State) : Nat := s.round.samples

/-- The line count N of the order in the round, 0 where there is none. -/
def roundLines (s : State) : Nat :=
  match roundOrder s with
  | none => 0
  | some o => o.lines

/-- Whether a revolution may file a line: the round SCANNING, the head SCANNING and below N (R58). -/
def mayFile (s : State) : Bool :=
  s.round.state == .scanning && s.head.state == .scanning && decide (s.head.position < roundLines s)

/-- A held revolution (R58). -/
def holdRevolution (s : State) : State := { s with head := { s.head with held := satSucc s.head.held } }

/-- The mark set of a newly filed line: the members whose channel is PHASED or in PICTURE (R87). -/
def filingMarks (s : State) : PerChan Bool :=
  let marked := fun c =>
    (s.round.members.get c).isSome && ((s.channels.get c).state == .phased || (s.channels.get c).state == .picture)
  { c1 := marked .c1, c2 := marked .c2, c3 := marked .c3, c4 := marked .c4 }

/-- The filing of line L reported: the head steps, leaving the home switch (log entry 13), and line N − 1 completes the
scan (R34, R58). -/
def lineFiled (s : State) : State :=
  let l := s.head.position
  let s1 : State := { s with head := { s.head with position := l + 1 }, pins := { s.pins with home := false } }
  if l + 1 = roundLines s then { s1 with round := { s1.round with scanComplete := true, state := .draining } } else s1

/-- The filing request for the line at the head position (R85, R86). -/
def requestFiling (levels : List Nat) (s : State) : State :=
  match fileLine s.head.position levels (filingMarks s) s.lineStore with
  | (ls, true) => lineFiled { s with lineStore := ls }
  | (_, false) => holdRevolution s

/-- The points of the working curve (R67, R73); it is present in every round that scans. -/
def workingPoints (c : Converter) : Curve :=
  match c.curve with
  | none => unityCurve
  | some w => w.points

/-- A valid offered revolution (R70, R72, R75, R80). -/
def validRevolution (r : LatestReference) (readings : List Nat) (s : State) : State :=
  let pair := foldReference s.converter.pair r
  requestFiling (convertLine pair (workingPoints s.converter) readings)
    { s with converter := { s.converter with latest := some r, pair := some pair, invalidCount := 0 } }

/-- An invalid offered revolution: counted, held, and the eighth makes the lamp FAULT (R75, R76, R43). -/
def invalidRevolution (r : LatestReference) (s : State) : State :=
  let n := s.converter.invalidCount + 1
  let s1 := holdRevolution
    { s with converter := { s.converter with
      latest := some r, invalidCount := n, invalidTotal := satSucc s.converter.invalidTotal } }
  if n = 8 then abortForFault .lamp { s1 with converter := { s1.converter with lamp := .fault } } else s1

/-- The offer of a complete gathering to the scan converter (R70). -/
def offer (readings : List Nat) (s : State) : State :=
  let r := referenceOf readings
  if r.valid then validRevolution r readings s else invalidRevolution r s

/-- A scanning revolution has ended (R58). A gathering that is not complete cannot be offered and counts as held (log entry
12). -/
def scanningRevolution (g : Option Gathering) (s : State) : State :=
  if mayFile s then
    match g with
    | none => holdRevolution s
    | some g =>
      if g.readings.length = referenceReadings + roundSamples s then offer g.readings s else holdRevolution s
  else s

/-! ### The index pulse -/

/-- The largest measured period (R47, R50). -/
def periodLimit : Nat := 16777215

/-- The measured period of a revolution that ends at `t` (R50). -/
def measuredPeriod (last t : Nat) : Nat := min periodLimit (t - last)

/-- The end of a revolution in SPINNING (R52): the eighth within the tight tolerance makes the drum LOCKED. -/
def spinningRevolution (period tt : Nat) (s : State) : State :=
  let count := if withinTight period tt then s.drum.lockCount + 1 else 0
  if count = 8 then
    testStart
      { s with drum := { s.drum with state := .locked, lockCount := 8, looseMiss := 0, lockTimer := none } }
  else { s with drum := { s.drum with lockCount := count } }

/-- A revolution in LOCKED outside the loose tolerance (R53): held where a line might have been filed, and the second in a
row loses lock. -/
def looseMissed (s : State) : State :=
  let misses := s.drum.looseMiss + 1
  let s1 := if mayFile s then holdRevolution s else s
  if misses = 2 then
    { s1 with drum := { s1.drum with looseMiss := misses, state := .spinning, lockCount := 0, lockTimer := some s1.now } }
  else { s1 with drum := { s1.drum with looseMiss := misses } }

/-- The end of a revolution in LOCKED (R53). -/
def lockedRevolution (period tt : Nat) (g : Option Gathering) (s : State) : State :=
  if withinLoose period tt then scanningRevolution g { s with drum := { s.drum with looseMiss := 0 } } else looseMissed s

/-- The end of a revolution of a turning drum: regulated (R51) and judged (R52, R53). -/
def endRevolution (period : Nat) (g : Option Gathering) (s : State) : State :=
  match s.drum.target with
  | none => s
  | some k =>
    let s1 : State := { s with drum := { s.drum with drive := correctedDrive s.drum.drive period k.period } }
    if s.drum.state = .locked then lockedRevolution period k.period g s1 else spinningRevolution period k.period s1

/-- What a pulse does by the drum state (R50); `g` is the gathering that the pulse ends. -/
def pulseByState (g : Option Gathering) (s : State) : State :=
  let measured := s.drum.lastPulse.map fun last => measuredPeriod last s.now
  match s.drum.state with
  | .stopped => s
  | .coasting =>
    { s with drum := { s.drum with
      lastPulse := some s.now,
      period := (match measured with
        | none => s.drum.period
        | some p => some p),
      coastTimer := some s.now } }
  | _ =>
    match measured with
    | none => { s with drum := { s.drum with lastPulse := some s.now } }
    | some p => endRevolution p g { s with drum := { s.drum with lastPulse := some s.now, period := some p } }

/-- The gathering a pulse begins: one where the drum is LOCKED after the pulse was handled, none otherwise (R69, R82). -/
def beginGathering (pulse : Nat) (s : State) : State :=
  { s with converter := { s.converter with
    gathering :=
      match s.drum.state, s.drum.target with
      | .locked, some k => some { pulse := pulse, target := k.period, readings := [] }
      | _, _ => none } }

/-- INDEX_PULSE (R50). -/
def execIndexPulse (time : Nat) (s : State) : Host.Outcome State Fault Refusal :=
  let s1 := jumpTo time s
  .next (finishStep (beginGathering s1.now (pulseByState s1.converter.gathering s1)))

/-- PHOTOCELL_READING (R68, R69): the next reading of the gathering in progress, at its instant. DESIGN CHOICE, unsafe (log entry
32): S is read afresh at each reading, and again at the offer, so a round that opens or closes inside the revolution changes which
line readings are still taken. -/
def execPhotocellReading (value : BitVec 12) (s : State) : Host.Outcome State Fault Refusal :=
  match s.converter.gathering with
  | none => .next s
  | some g =>
    let i := g.readings.length
    if i < referenceReadings + roundSamples s then
      let s1 := jumpTo (g.pulse + readingInstant g.target (roundSamples s) i) s
      .next { s1 with converter := { s1.converter with
        gathering := some { g with readings := g.readings ++ [value.toNat] } } }
    else .next s

/-! ### Cover, clamp and home switch -/

/-- COVER_OPEN (R65, R44). -/
def execCoverOpen (s : State) : Host.Outcome State Fault Refusal :=
  let s1 := cutDrive { s with pins := { s.pins with cover := false } }
  .next (finishStep (if roundOpen s1 then abortForFault .cover s1 else s1))

/-- COVER_CLOSE (R65): an event of R27. -/
def execCoverClose (s : State) : Host.Outcome State Fault Refusal :=
  .next (finishStep (markSelection { s with pins := { s.pins with cover := true } }))

/-- The clamp opens by the mount state (R45, R64), the drive already cut. -/
def clampOpened (s : State) : State :=
  match s.mount with
  | .mounted _ =>
    let s1 := markSelection (moveOrders .onDrum .waiting { s with mount := .empty })
    if roundOpen s1 then abortForFault .clamp s1 else s1
  | .unmountRequested _ => markSelection { s with mount := .empty }
  | .empty => s
  | .requested _ => s

/-- CLAMP_OPEN (R64, R45). -/
def execClampOpen (s : State) : Host.Outcome State Fault Refusal :=
  .next (finishStep (clampOpened (cutDrive { s with pins := { s.pins with clamp := false } })))

/-- CLAMP_CLOSE (R64). -/
def execClampClose (s : State) : Host.Outcome State Fault Refusal :=
  .next { s with pins := { s.pins with clamp := true } }

/-- HOME_SWITCH_CLOSE (R59): a return completes, and a round without members is CLOSED (R36). -/
def execHomeSwitchClose (s : State) : Host.Outcome State Fault Refusal :=
  let s1 : State := { s with pins := { s.pins with home := true } }
  if s.head.state = .returning then .next (finishStep (closeIfDone (headHome s1))) else .next s1

/-! ### The limits -/

/-- The drum-lock limit, 20 s (R54). -/
def lockLimitLength : Nat := 20000000

/-- LOCK_LIMIT (R54, R42). -/
def execLockLimit (s : State) : Host.Outcome State Fault Refusal :=
  if s.drum.state = .spinning ∧ s.drum.lockTimer.isSome = true then
    let s1 := jumpPast s.drum.lockTimer lockLimitLength s
    if s.round.state = .assembling ∨ s.round.state = .scanning then
      .next (finishStep (abortForFault .lock (cutDrive s1)))
    else .next { s1 with drum := { s1.drum with lockTimer := none } }
  else .next s

/-- The idle stop, 60 s (R55). -/
def idleStopLength : Nat := 60000000

/-- IDLE_STOP (R55). -/
def execIdleStop (s : State) : Host.Outcome State Fault Refusal :=
  if s.drum.idleTimer.isSome then .next (cutDrive (jumpPast s.drum.idleTimer idleStopLength s)) else .next s

/-- The coast limit, 3 s (R56). -/
def coastStopLength : Nat := 3000000

/-- COAST_STOP (R56): STOPPED; a gathering left over is discarded (R82). -/
def execCoastStop (s : State) : Host.Outcome State Fault Refusal :=
  if s.drum.state = .coasting ∧ s.drum.coastTimer.isSome = true then
    let s1 := jumpPast s.drum.coastTimer coastStopLength s
    .next { s1 with
      drum := { s1.drum with state := .stopped, coastTimer := none, lastPulse := none, period := none },
      converter := { s1.converter with gathering := none } }
  else .next s

/-- The return limit, 30 s (R60). -/
def returnLimitLength : Nat := 30000000

/-- RETURN_LIMIT (R60): the head becomes FAULT, DRUM FAULT is noticed, and a round without members is CLOSED (R36). -/
def execReturnLimit (s : State) : Host.Outcome State Fault Refusal :=
  if s.head.state = .returning ∧ s.head.returnTimer.isSome = true then
    let s1 := jumpPast s.head.returnTimer returnLimitLength s
    let s2 : State := { s1 with head := { s1.head with state := .fault, returnTimer := none } }
    .next (finishStep (closeIfDone (noticeBoth (.drumFault .head s2.round.order) s2)))
  else .next s

end Sys2Proof.Machine
end

