-- ==== Sys2Proof/Machine/LineCommands.lean ====
section
/-! DEFINITION. The meanings of the line commands (spec/06 R98, R99, R118; spec/07 R138). -/

namespace Sys2Proof.Machine

/-- What LINE OUT does to a channel (R98). -/
def takeOut (ch : Channel) : Channel :=
  match ch.state with
  | .idle => { ch with service := .outOfService, state := .out }
  | .cooldown => { clearTrouble ch with service := .outOfService, state := .out, stateTimer := none }
  | _ => { ch with service := .outOfService }

/-- LINE_OUT (R98). -/
def execLineOut (l : Link) (channel : Byte) (s : State) : Host.Outcome State Fault Refusal :=
  match chanOfByte channel with
  | none => .next (postResult l 0x17#8 .noSuchChannel 0 s)
  | some c => .next (modChan c takeOut (postResult l 0x17#8 .ok 0 s))

/-- What LINE IN does to a channel (R99). -/
def takeIn (ch : Channel) : Channel :=
  match ch.state with
  | .out => { ch with service := .inService, state := .idle }
  | _ => { ch with service := .inService }

/-- LINE_IN (R99): an OUT channel becomes IDLE, an event of R15. -/
def execLineIn (l : Link) (channel : Byte) (s : State) : Host.Outcome State Fault Refusal :=
  match chanOfByte channel with
  | none => .next (postResult l 0x18#8 .noSuchChannel 0 s)
  | some c =>
    let s1 := modChan c takeIn (postResult l 0x18#8 .ok 0 s)
    if (s.channels.get c).state = .out then .next (finishStep (markSelection s1)) else .next s1

/-- LINE RESET of a channel in a call (R118): ending RESET, the destination back to READY, the round left, RELEASE. -/
def resetCall (c : Chan) (s : State) : State :=
  let s1 :=
    match (s.channels.get c).call with
    | none => s
    | some k => returnDest k.order k.dest s
  leaveRound c (closeCall c .reset s1)

/-- LINE RESET of a channel in RELEASE (R118): the frames owed are cut off and the line is put down at once. -/
def cutRelease (ch : Channel) : Channel :=
  { ch with state := restState ch, hook := .onHook, onLine := none, owed := [], call := none }

/-- LINE RESET of a channel in COOLDOWN (R118). -/
def endCooldown (ch : Channel) : Channel := { ch with state := restState ch, stateTimer := none }

/-- What LINE RESET does by the channel's state (R118). -/
def resetByState (c : Chan) (s : State) : State :=
  let st := (s.channels.get c).state
  if inCall st then resetCall c s
  else
    match st with
    | .release => markIfIdle c (modChan c cutRelease s)
    | .cooldown => markIfIdle c (modChan c endCooldown s)
    | _ => s

/-- LINE_RESET (R118): in every case the trouble count becomes 0. -/
def execLineReset (l : Link) (channel : Byte) (s : State) : Host.Outcome State Fault Refusal :=
  match chanOfByte channel with
  | none => .next (postResult l 0x19#8 .noSuchChannel 0 s)
  | some c => .next (finishStep (modChan c clearTrouble (resetByState c (postResult l 0x19#8 .ok 0 s))))

/-- MARK_FAULT_CODE (R138). -/
def execMarkFaultCode (l : Link) (channel : Byte) (s : State) : Host.Outcome State Fault Refusal :=
  match chanOfByte channel with
  | none => .next (postResult l 0x1A#8 .noSuchChannel 0 s)
  | some c => .next (modChan c (fun ch => { ch with fault := .mark }) (postResult l 0x1A#8 .ok 0 s))

end Sys2Proof.Machine
end

