-- ==== Sys2Proof/Machine/LinePeriods.lean ====
section
/-! DEFINITION. The meanings of the line timer's periods and of the forward frames (spec/06 R104, R105, R107 to R110; spec/07
R120, R123, R125 to R128; spec/05 R88 to R91). -/

namespace Sys2Proof.Machine

/-! ### Sending -/

/-- The frames of a period begin at once, back to back (R104, R123). -/
def sendFrames (c : Chan) (fs : List ForwardFrame) (s : State) : State :=
  modChan c (fun ch => { ch with onLine := fs.head?, owed := fs.tail, runStart := s.now, runBytes := 0 }) s

/-- The segment size of the call copy (R122). -/
def callSegment (ch : Channel) : Nat :=
  match ch.call with
  | none => 128
  | some k => k.entry.segment.size

/-- The order a channel's call serves, if the book holds it. -/
def callOrder (s : State) (c : Chan) : Option Order :=
  match (s.channels.get c).call with
  | none => none
  | some k => findOrder s k.order

/-! ### The retake queue -/

/-- What the service of a retake queue sends: SKIP frames, then at most one resend with its levels; and the queue left. -/
structure Served where
  skips : List Nat
  resend : Option (Nat × List Nat)
  left : List RetakeEntry
  deriving DecidableEq, Repr

/-- The service of a queue (steps 2 and 3 of R125, with the NO case of R127): SKIP entries at the head are sent, a RESEND
entry whose line is not held is sent as a SKIP and the service goes on, and the first held one ends it. -/
def serveQueue (ask : Nat → Option (List Nat)) : List RetakeEntry → Served
  | [] => { skips := [], resend := none, left := [] }
  | .skip l :: rest => { serveQueue ask rest with skips := l :: (serveQueue ask rest).skips }
  | .resend l :: rest =>
    match ask l with
    | some levels => { skips := [], resend := some (l, levels), left := rest }
    | none => { serveQueue ask rest with skips := l :: (serveQueue ask rest).skips }

/-- A counter of 16 bits raised by `n`, staying at 65535 (R137). -/
def satAdd (n k : Nat) : Nat := min 65535 (n + k)

/-- The channel after its queue was served (R125, R127, R137). DESIGN CHOICE, unsafe (log entry 33): every SKIP entry of the period
leaves the queue and is counted at the period start, as the choice of R125 removes and counts it, and not when its own SKIP frame
begins (R133, R137). -/
def afterService (sv : Served) (ch : Channel) : Channel :=
  { ch with queue := sv.left, skipped := satAdd ch.skipped sv.skips.length,
            resent := if sv.resend.isSome then satSucc ch.resent else ch.resent }

/-- The frames of a resend (R127). -/
def resendFrames (g : Nat) (sv : Served) : List ForwardFrame :=
  match sv.resend with
  | none => []
  | some (l, levels) => lineSegments g true l levels

/-- The FILL frame of a channel: its send position (R120). -/
def fillFrame (ch : Channel) : ForwardFrame := .fill ch.sendPosition

/-! ### A new line -/

/-- The release by depth when new line `k` starts (R89): the mark on line k − D, unless a RESEND entry is owed for it. -/
def depthRelease (c : Chan) (k : Nat) (s : State) : State :=
  let d := retakeDepth s.lineStore
  if d ≤ k ∧ (s.channels.get c).queue.contains (.resend (k - d)) = false then
    { s with lineStore := releaseMark c (k - d) s.lineStore }
  else s

/-- New line `k` starts (R126): `lead` are the SKIP frames before it. Line N − 1 makes the channel STOPPING (R110). -/
def startLine (c : Chan) (lead : List ForwardFrame) (levels : List Nat) (s : State) : State :=
  let ch := s.channels.get c
  let k := ch.sendPosition
  let last := (callOrder s c).any fun o => o.lines == k + 1
  let s1 := sendFrames c (lead ++ lineSegments (callSegment ch) false k levels) s
  let s2 := modChan c (fun ch =>
    { lowerTrouble ch with
      state := if last then .stopping else .picture, stopping := if last then 0 else ch.stopping,
      sendPosition := k + 1, sent := satSucc ch.sent }) s1
  depthRelease c k s2

/-! ### The content of a period, state by state -/

/-- ANNOUNCE (R105): one IDENT. -/
def announcePeriod (c : Chan) (s : State) : State :=
  match (s.channels.get c).call, callOrder s c with
  | some k, some o => sendFrames c [.ident k.bureau k.order o.tag] s
  | _, _ => s

/-- PHASING (R108): the next PHASE frame, or PHASING FAILED after 32. -/
def phasingPeriod (c : Chan) (s : State) : State :=
  let n := (s.channels.get c).phaseCount
  if 32 ≤ n then endWithOutcome c .phasingFailed none s
  else sendFrames c [.phase (n + 1)] (modChan c (fun ch => { ch with phaseCount := n + 1 }) s)

/-- CAPTION (R107): the next CAPTION frame; after the last, PHASING begins with this period. -/
def captionPeriod (c : Chan) (s : State) : State :=
  match callOrder s c with
  | none => s
  | some o =>
    let k := (s.channels.get c).captionSent
    if k < captionFrames o.caption then
      sendFrames c [captionFrame o.caption k] (modChan c (fun ch => { ch with captionSent := k + 1 }) s)
    else phasingPeriod c (modChan c (fun ch => { ch with state := .phasing }) s)

/-- PHASED (R109): FILL while held or until line 0 is there; then PICTURE with new line 0. -/
def phasedPeriod (c : Chan) (s : State) : State :=
  let ch := s.channels.get c
  if ch.hold.isSome then sendFrames c [fillFrame ch] s
  else
    match askLine c 0 s.lineStore with
    | none => sendFrames c [fillFrame ch] s
    | some levels => startLine c [] levels s

/-- PICTURE (R125): hold, skips, resend, new line. -/
def picturePeriod (c : Chan) (s : State) : State :=
  let ch := s.channels.get c
  if ch.hold.isSome then sendFrames c [fillFrame ch] s
  else
    let sv := serveQueue (fun l => askLine c l s.lineStore) ch.queue
    let s1 := modChan c (afterService sv) s
    let skips := sv.skips.map ForwardFrame.skip
    if sv.resend.isSome then sendFrames c (skips ++ resendFrames (callSegment ch) sv) s1
    else
      match askLine c ch.sendPosition s.lineStore with
      | none => sendFrames c (skips ++ [fillFrame ch]) s1
      | some levels => startLine c skips levels s1

/-- STOP begins (R91, R128): every mark the channel holds is released. -/
def beginStop (c : Chan) (s : State) : State :=
  match (s.channels.get c).call, callOrder s c with
  | some k, some o => sendFrames c [.stop k.order o.lines] { s with lineStore := releaseAll c s.lineStore }
  | _, _ => s

/-- STOPPING (R128). -/
def stoppingPeriod (c : Chan) (s : State) : State :=
  let ch := s.channels.get c
  if ch.queue = [] then
    if ch.stopping < retakeDepth s.lineStore then
      sendFrames c [fillFrame ch] (modChan c (fun ch => { ch with stopping := ch.stopping + 1 }) s)
    else beginStop c s
  else
    let sv := serveQueue (fun l => askLine c l s.lineStore) ch.queue
    let s1 := modChan c (fun ch => { afterService sv ch with stopping := 0 }) s
    let skips := sv.skips.map ForwardFrame.skip
    if sv.resend.isSome then sendFrames c (skips ++ resendFrames (callSegment ch) sv) s1
    else sendFrames c (skips ++ [fillFrame ch]) s1

/-- The content of a period by the channel's state. -/
def periodContent (c : Chan) (s : State) : State :=
  match (s.channels.get c).state with
  | .announce => announcePeriod c s
  | .caption => captionPeriod c s
  | .phasing => phasingPeriod c s
  | .phased => phasedPeriod c s
  | .picture => picturePeriod c s
  | .stopping => stoppingPeriod c s
  | _ => s

/-- Whether a period start finds frames of the period before on the line: a passed period (R123). -/
def lineBusy (ch : Channel) : Bool := ch.onLine.isSome || !ch.owed.isEmpty

/-- LINE_PERIOD_START (R104, R123, R125): at its instant, counted from the line timer's start. -/
def execLinePeriodStart (c : Chan) (s : State) : Host.Outcome State Fault Refusal :=
  let ch := s.channels.get c
  match ch.lineTimer with
  | none => .next s
  | some t =>
    let s1 := modChan c (fun ch => { ch with lineTimer := some { t with begun := t.begun + 1 } })
      (jumpTo (t.start + t.begun * ch.linePeriod) s)
    if lineBusy ch then .next s1 else .next (finishStep (periodContent c s1))

/-! ### Frames that have left the line -/

/-- The end of a resend of line `l` (R90): the mark goes if new line l + D has been started. A fresh RESEND entry for the line then
stays in the queue without it, and its service finds NO (R127; log entry 11). -/
def endResend (c : Chan) (l : Nat) (s : State) : State :=
  if l + retakeDepth s.lineStore < (s.channels.get c).sendPosition then { s with lineStore := releaseMark c l s.lineStore }
  else s

/-- The STOP of STOPPING has been sent (R110, R129, R111): AWAIT RECEIPT. -/
def enterAwaitReceipt (c : Chan) (s : State) : State :=
  modChan c (fun ch =>
    { clearPicture ch with state := .awaitReceipt, stateTimer := some s.now, lineTimer := none }) s

/-- What a frame's leaving brings about (R90, R110): nothing once the call has ended. -/
def frameGone (c : Chan) (f : ForwardFrame) (s : State) : State :=
  let st := (s.channels.get c).state
  if st = .picture ∨ st = .stopping then
    match resendLast f with
    | some l => endResend c l s
    | none => if isStop f && st == .stopping then enterAwaitReceipt c s else s
  else s

/-- The frames up to one have left the line: the next owed one begins at once (R120). -/
def framesGone (c : Chan) (gone left : List ForwardFrame) (s : State) : State :=
  let ch := s.channels.get c
  modChan c (fun ch => { ch with
    onLine := left.head?, owed := left.tail, runBytes := ch.runBytes + bytesOnLine gone }) (jumpTo (framesEnd ch gone) s)

/-- FORWARD_FRAME_SENT (R120): the last bit of the frame on the line has left. -/
def execForwardFrameSent (c : Chan) (s : State) : Host.Outcome State Fault Refusal :=
  match (s.channels.get c).onLine with
  | none => .next s
  | some f => .next (frameGone c f (framesGone c [f] (s.channels.get c).owed s))

/-- STOP_SENT (R110): the STOP of STOPPING has left the line. -/
def execStopSent (c : Chan) (s : State) : Host.Outcome State Fault Refusal :=
  let ch := s.channels.get c
  match ch.onLine with
  | none => .next s
  | some f =>
    if ch.state = .stopping ∧ isStop f = true then .next (enterAwaitReceipt c (framesGone c [f] ch.owed s)) else .next s

/-- RESEND_END (R90): the last segment of the resend has left the line, and with it the frames before it (log entry 24). -/
def execResendEnd (c : Chan) (s : State) : Host.Outcome State Fault Refusal :=
  let ch := s.channels.get c
  let before := (framesOut ch).takeWhile fun f => (resendLast f).isNone
  match (framesOut ch).drop before.length with
  | [] => .next s
  | f :: left =>
    if ch.state = .picture ∨ ch.state = .stopping then
      .next (frameGone c f (framesGone c (before ++ [f]) left s))
    else .next s

end Sys2Proof.Machine
end

