-- ==== Sys2Proof/Machine/LinkFrames.lean ====
section
/-! DEFINITION. The meanings of the link events that execute no command (spec/11 R175). -/

namespace Sys2Proof.Machine

/-- LINK_SELECT_FALL (R175): the frame assembly becomes RECEIVING, with no bytes. -/
def execLinkSelectFall (l : Link) (s : State) : Host.Outcome State Fault Refusal :=
  .next (setAssembly l (.receiving [] [] none 0) s)

/-- UNKNOWN_COMMAND (R175): the command byte is both command code and value. -/
def execUnknownCommand (l : Link) (code : Byte) (s : State) : Host.Outcome State Fault Refusal :=
  .next (postResult l code .unknownCommand code.toNat s)

/-- FRAME_ERROR (R175): the command byte, or 0x00 if no whole byte arrived, and the number of whole bytes. -/
def execFrameError (l : Link) (bytes : List Byte) (_partialBits : Nat) (s : State) : Host.Outcome State Fault Refusal :=
  .next (postResult l (bytes.headD 0x00#8) .frameError bytes.length s)

end Sys2Proof.Machine
end

