-- ==== Sys2Proof/Machine/Mounting.lean ====
section
/-! DEFINITION. The meanings of MOUNT CONFIRM (spec/03 R63) and HALT ROUND (spec/02 R41). -/

namespace Sys2Proof.Machine

/-- The print confirmed: MOUNTED, its order ON DRUM, and a selection to follow (R63, R17). -/
def confirmMount (tag : Nat) (s : State) : State :=
  markSelection (moveOrders .mountRequested .onDrum { s with mount := .mounted tag })

/-- MOUNT_CONFIRM (R63). -/
def execMountConfirm (l : Link) (tag : BitVec 24) (s : State) : Host.Outcome State Fault Refusal :=
  match s.mount with
  | .requested t =>
    if tag.toNat ≠ t then .next (postResult l 0x15#8 .wrongTag 0 s)
    else if s.pins.clamp = false then .next (postResult l 0x15#8 .clampOpen 0 s)
    else if s.drum.state ≠ .stopped then .next (postResult l 0x15#8 .drumTurning 0 s)
    else .next (finishStep (confirmMount t (postResult l 0x15#8 .ok 0 s)))
  | .empty => .next (postResult l 0x15#8 .notRequested 0 s)
  | .mounted _ => .next (postResult l 0x15#8 .notRequested 0 s)
  | .unmountRequested _ => .next (postResult l 0x15#8 .notRequested 0 s)

/-- HALT ROUND on an open round: the members' destinations return to READY and the abort procedure runs (R41). -/
def haltOpenRound (s : State) : State := if roundOpen s then abortRound (returnMembers s) else s

/-- HALT ROUND on a lamp FAULT: OK with the count 0 (R41, R76); a condition of R27 clears. -/
def haltLamp (s : State) : State :=
  match s.converter.lamp with
  | .ok => s
  | .fault => markSelection { s with converter := { s.converter with lamp := .ok, invalidCount := 0 } }

/-- HALT ROUND on a head in FAULT: the return again, with a fresh timer (R41, R60). -/
def haltHead (s : State) : State :=
  match s.head.state with
  | .fault => startReturn s
  | .home => s
  | .scanning => s
  | .returning => s

/-- HALT_ROUND (R41). -/
def execHaltRound (l : Link) (s : State) : Host.Outcome State Fault Refusal :=
  .next (finishStep (haltHead (haltLamp (haltOpenRound (postResult l 0x16#8 .ok 0 s)))))

end Sys2Proof.Machine
end

