-- ==== Sys2Proof/Machine/Notices.lean ====
section
/-! DEFINITION. The meanings of the notice commands (spec/11 R179, R180) and of the clock's (R182). -/

namespace Sys2Proof.Machine

/-- Change the state of one link. -/
def modLink (l : Link) (f : LinkState → LinkState) (s : State) : State :=
  { s with links := s.links.set l (f (s.links.get l)) }

/-- ACK_NOTICE (R180). -/
def execAckNotice (l : Link) (kind : Byte) (s : State) : Host.Outcome State Fault Refusal :=
  match noticeKindOfByte kind with
  | none => .next (postResult l 0x1D#8 .badField 0 s)
  | some k => .next (modLink l (removeNotice k) (postResult l 0x1D#8 .ok 0 s))

/-- SET_NOTICE_MASK (R179). -/
def execSetNoticeMask (l : Link) (mask : Byte) (s : State) : Host.Outcome State Fault Refusal :=
  if mask.getLsbD 7 then .next (postResult l 0x1E#8 .badField 0 s)
  else .next (modLink l (replaceMask (maskOfByte mask)) (postResult l 0x1E#8 .ok 0 s))

/-- SET_CLOCK (R182). -/
def execSetClock (l : Link) (minute day : Word) (s : State) : Host.Outcome State Fault Refusal :=
  if 1439 < minute.toNat then .next (postResult l 0x1F#8 .badField 0 s)
  else
    .next { postResult l 0x1F#8 .ok 0 s with
      clock := some { minute := minute.toNat, day := day.toNat, second := 0, since := s.now } }

/-- One second of the clock, with its carries (R182). -/
def advanceClock (c : Clock) : Clock :=
  if c.second < 59 then { c with second := c.second + 1 }
  else if c.minute < 1439 then { c with second := 0, minute := c.minute + 1 }
  else { c with second := 0, minute := 0, day := if c.day < 65535 then c.day + 1 else 0 }

/-- A second of the timebase, in µs (R182). -/
def clockSecondLength : Nat := 1000000

/-- CLOCK_SECOND (R182): 1,000,000 µs after the clock's latest second. -/
def execClockSecond (s : State) : Host.Outcome State Fault Refusal :=
  match s.clock with
  | none => .next s
  | some c =>
    .next { jumpTo (c.since + clockSecondLength) s with
      clock := some { advanceClock c with since := c.since + clockSecondLength } }

end Sys2Proof.Machine
end

