-- ==== Sys2Proof/Machine/Orders.lean ====
section
/-! DEFINITION. The meanings of the order commands (spec/01 R6 to R14) and of the retry-delay expiry (R20). -/

namespace Sys2Proof.Machine

/-- The number of places in the order book (1.1). -/
def bookPlaces : Nat := 16

/-- The last submit sequence (R2). -/
def lastSequence : Nat := 4294967295

/-- The geometry test of R6 with the curve index of R8 check 4. -/
def goodGeometry (diameter resolution length curve : Nat) : Bool :=
  decide (50 ≤ resolution) && decide (resolution ≤ 200) && decide (100 ≤ length) && decide (length ≤ 1200) &&
    decide (200 ≤ samplesOf diameter resolution) && decide (samplesOf diameter resolution ≤ 2400) &&
    decide (1 ≤ linesOf length resolution) && decide (linesOf length resolution ≤ 2400) && decide (curve ≤ 3)

/-- The destination list test of R8 check 5. -/
def goodDestinations (st : Store) (entries : List Byte) : Bool :=
  decide (1 ≤ entries.length) && decide (entries.length ≤ 12) && entries.all (fun e => decide (e.toNat ≤ 23)) &&
    entries.all (fun e => (validEntry st e.toNat).isSome) && decide entries.Nodup

/-- Whether a listed entry is compatible with a geometry (R7); an EMPTY or DAMAGED entry is not. -/
def entryCompatible (st : Store) (ioc samples entry : Nat) : Bool :=
  match validEntry st entry with
  | none => false
  | some e => compatible ioc samples e

/-- The list position of the first destination that fails R7, if one does (R8 check 6). -/
def firstIncompatible (st : Store) (ioc samples : Nat) (entries : List Byte) : Option Nat :=
  entries.findIdx? fun e => !entryCompatible st ioc samples e.toNat

/-- A destination as admission sets it up (R3). -/
def freshDest (entry : Nat) : Destination :=
  { entry := entry, state := .ready, attempts := 0, retryTimer := none, outcome := none, exhausted := false,
    channel := none, filed := false, station := none, startTime := none, endTime := none, sent := 0, resent := 0,
    skipped := 0, report := none }

/-- The number the next admitted order takes (R2). -/
def orderNumber (b : Book) : Nat := freeNumber 9999 (b.orders.map Order.number) (b.orders.length + 1) b.nextNumber

/-- The order that SUBMIT ORDER admits (R9). -/
def freshOrder (l : Link) (b : Book) (diameter : Nat) (p : Priority) (tag resolution length curve : Nat)
    (entries : List Byte) : Order :=
  { number := orderNumber b, origin := l, sequence := b.sequence, priority := p, tag := tag, resolution := resolution,
    length := length, ioc := iocOf diameter resolution, samples := samplesOf diameter resolution,
    lines := linesOf length resolution, curve := curve, caption := [], state := .waiting,
    dests := entries.map (fun e => freshDest e.toNat), attempted := false }

/-- An order takes a free place in the book (R2, R9); an event of R15. -/
def admitOrder (o : Order) (s : State) : State :=
  { s with
    book := { orders := s.book.orders ++ [o], nextNumber := numberAfter 9999 o.number, sequence := s.book.sequence + 1 },
    selectDue := true }

/-- SUBMIT_ORDER (R8, R9). -/
def execSubmitOrder (l : Link) (priority : Byte) (tag : BitVec 24) (resolution : Byte) (length : Word) (curve : Byte)
    (entries : List Byte) (s : State) : Host.Outcome State Fault Refusal :=
  let refuse := fun (code : ResultCode) (v : Nat) => Host.Outcome.next (postResult l 0x11#8 code v s)
  let diameter := (readSettings s.store).diameter
  let r := resolution.toNat
  if bookPlaces ≤ s.book.orders.length ∨ lastSequence < s.book.sequence then refuse .bookFull 0
  else
    match priorityOfByte priority with
    | none => refuse .badPriority 0
    | some p =>
      if tag.toNat = 0 ∨ 999999 < tag.toNat then refuse .badTag 0
      else if goodGeometry diameter r length.toNat curve.toNat = false then refuse .badGeometry 0
      else if goodDestinations s.store entries = false then refuse .badDestination 0
      else
        match firstIncompatible s.store (iocOf diameter r) (samplesOf diameter r) entries with
        | some i => refuse .incompatible i
        | none =>
          let o := freshOrder l s.book diameter p tag.toNat r length.toNat curve.toNat entries
          .next (finishStep (admitOrder o (postResult l 0x11#8 .accepted o.number s)))

/-- The number of characters a caption holds at most (R10). -/
def captionLimit : Nat := 240

/-- A caption character as appended: a code outside 0x20 to 0x7E becomes 0x20 (R10). -/
def captionChar (b : Byte) : Byte := if 0x20 ≤ b.toNat ∧ b.toNat ≤ 0x7E then b else 0x20#8

/-- A caption with a piece appended, as far as there is room (R10). -/
def captionWith (caption chars : List Byte) : List Byte :=
  caption ++ (chars.map captionChar).take (captionLimit - caption.length)

/-- ADD_CAPTION (R10). A count byte above 48 has no correct length, so such a frame is a FRAME ERROR (R175). -/
def execAddCaption (l : Link) (order : Word) (chars : List Byte) (s : State) : Host.Outcome State Fault Refusal :=
  if 48 < chars.length then .next (postResult l 0x12#8 .frameError (4 + chars.length) s)
  else
    match findOrder s order.toNat with
    | none => .next (postResult l 0x12#8 .noSuchOrder 0 s)
    | some o =>
      if o.origin ≠ l then .next (postResult l 0x12#8 .otherLink 0 s)
      else if o.attempted then .next (postResult l 0x12#8 .captionClosed 0 s)
      else
        let caption := captionWith o.caption chars
        let s1 := modOrder order.toNat (fun o => { o with caption := caption }) s
        if caption.length = o.caption.length + chars.length then .next (postResult l 0x12#8 .ok caption.length s1)
        else .next (postResult l 0x12#8 .captionClipped captionLimit s1)

/-- AMEND_PRIORITY (R11); an amendment to the priority the order has changes nothing (log entry 20). -/
def execAmendPriority (l : Link) (order : Word) (priority : Byte) (s : State) : Host.Outcome State Fault Refusal :=
  match findOrder s order.toNat with
  | none => .next (postResult l 0x13#8 .noSuchOrder 0 s)
  | some o =>
    match priorityOfByte priority with
    | none => .next (postResult l 0x13#8 .badPriority 0 s)
    | some p =>
      if o.state = .withdrawing ∨ o.state = .filing then .next (postResult l 0x13#8 .busy 0 s)
      else if p = o.priority then .next (postResult l 0x13#8 .ok 0 s)
      else
        .next (finishStep (markSelection
          (modOrder order.toNat (fun o => { o with priority := p }) (postResult l 0x13#8 .ok 0 s))))

/-- A destination that a withdraw makes FINAL: WITHDRAWN, its end time from the clock (R12). -/
def withdrawnDest (s : State) (d : Destination) : Destination :=
  { d with state := .final, outcome := some .withdrawn, endTime := timeOfDay s, channel := none, retryTimer := none }

/-- What a withdraw makes of a destination (R12). -/
def withdrawDest (s : State) (d : Destination) : Destination :=
  match d.state with
  | .final => d
  | .ready => withdrawnDest s d
  | .assigned => withdrawnDest s d
  | .delayed => withdrawnDest s d
  | .sending => withdrawnDest s { d with attempts := d.attempts + 1 }

/-- The filing reference that a withdraw appends for a destination, if any (R12, R144). -/
def withdrawRef (n i : Nat) (d : Destination) : Option FilingRef :=
  match d.state with
  | .final => none
  | .ready => if d.attempts = 0 then none else some { order := n, dest := i, channel := none }
  | .assigned => if d.attempts = 0 then none else some { order := n, dest := i, channel := none }
  | .delayed => some { order := n, dest := i, channel := none }
  | .sending => some { order := n, dest := i, channel := d.channel }

/-- The references of a withdraw, in destination-index order (R12). -/
def withdrawRefs (n : Nat) : Nat → List Destination → List FilingRef
  | _, [] => []
  | i, d :: rest =>
    match withdrawRef n i d with
    | none => withdrawRefs n (i + 1) rest
    | some r => r :: withdrawRefs n (i + 1) rest

/-- Every destination of an order withdrawn (R12). -/
def withdrawDests (o : Order) (s : State) : State :=
  let s1 := modOrder o.number (fun o => { o with dests := o.dests.map (withdrawDest s) }) s
  { s1 with filing := s1.filing ++ withdrawRefs o.number 0 o.dests }

/-- What a withdraw does by the state of the order (R13, R40). -/
def withdrawByState (o : Order) (s : State) : State :=
  match o.state with
  | .waiting => finishOrder o.number s
  | .mountRequested => finishOrder o.number (withdrawMountRequest s)
  | .onDrum =>
    if roundOpen s && s.round.order == some o.number then abortRound (setOrderState o.number .withdrawing s)
    else finishOrder o.number (requestUnmount s)
  | .withdrawing => s
  | .filing => s

/-- WITHDRAW_ORDER (R12, R13). -/
def execWithdrawOrder (l : Link) (order : Word) (s : State) : Host.Outcome State Fault Refusal :=
  match findOrder s order.toNat with
  | none => .next (postResult l 0x14#8 .noSuchOrder 0 s)
  | some o =>
    if o.state = .filing then .next (postResult l 0x14#8 .notWithdrawable 0 s)
    else if o.state = .withdrawing then .next (postResult l 0x14#8 .alreadyWithdrawing 0 s)
    else
      .next (finishStep (markSelection (withdrawByState o (withdrawDests o (postResult l 0x14#8 .ok 0 s)))))

/-- RETRY_DELAY_EXPIRY (R20): a DELAYED destination becomes READY, its timer stopped; an event of R15. -/
def execRetryDelayExpiry (order dest : Nat) (s : State) : Host.Outcome State Fault Refusal :=
  match findDest s order dest with
  | none => .next s
  | some d =>
    match d.retryTimer with
    | none => .next s
    | some t =>
      if d.state = .delayed then
        .next (finishStep (markSelection
          (modDest order dest (fun d => { d with state := .ready, retryTimer := none }) (jumpTo (t.start + t.length) s))))
      else .next s

end Sys2Proof.Machine
end

