-- ==== Sys2Proof/Config.lean ====
section
/-! DEFINITION. What the manual does not fix: the free values. Each is an opaque constant, so no proof can
use a value of it. -/

namespace Sys2Proof

/-- FREE VALUE (log entry 15): the byte that READ ORDER shows in one of its twelve entry-index places beyond
the destination count, of which spec/11 R184 states no contents. The argument is the model's own counter
`State.free`, advanced past every place so filled. -/
opaque Config.unlistedIndexByte : Nat → Byte

/-- FREE VALUE (log entry 8): the level of PRRDY that READ STATUS shows when the latest row that read it found it ready. The
table has no row for PRRDY becoming not ready, so spec/09 R154's level may have fallen since. The argument is the model's own
counter `State.free`, advanced past every level so shown. -/
opaque Config.unreportedReadyLevel : Nat → Bool

end Sys2Proof
end

