-- ==== Sys2Proof/Machine/Operands.lean ====
section
/-! DEFINITION. The operands of the commands as the wires carry them: the command table of R184 with the frame rules of
R175 and R176 (which row of the table a link frame is), and the division of the back channel into frames (R185) with
their check (R112, R121), down to the levels of its line, and the transfer of a photocell reading (R68). -/

namespace Sys2Proof.Machine

/-- Two bytes as a 16-bit number, high byte first (R184). -/
def word2 (a b : Byte) : Word := a ++ b

/-- Three bytes as a 24-bit number, high byte first (R184). -/
def word3 (a b c : Byte) : BitVec 24 := a ++ b ++ c

/-- How many argument bytes follow a command byte (R175): a fixed number, or a header whose byte `countAt` gives the number
of bytes after it, up to `limit`. -/
inductive ArgSize where
  | fixed (n : Nat)
  | counted (header countAt limit : Nat)
  deriving DecidableEq, Repr

/-- A row of R184's command table. -/
structure CommandShape where
  read : Bool
  size : ArgSize
  deriving DecidableEq, Repr

/-- The command table of R184; `none` for a byte that is no listed code. -/
def shapeOf (code : Byte) : Option CommandShape :=
  match code.toNat with
  | 0x11 => some { read := false, size := .counted 9 8 255 }
  | 0x12 => some { read := false, size := .counted 3 2 48 }
  | 0x13 => some { read := false, size := .fixed 3 }
  | 0x14 => some { read := false, size := .fixed 2 }
  | 0x15 => some { read := false, size := .fixed 3 }
  | 0x16 => some { read := false, size := .fixed 0 }
  | 0x17 => some { read := false, size := .fixed 1 }
  | 0x18 => some { read := false, size := .fixed 1 }
  | 0x19 => some { read := false, size := .fixed 1 }
  | 0x1A => some { read := false, size := .fixed 1 }
  | 0x1B => some { read := false, size := .fixed 2 }
  | 0x1C => some { read := false, size := .fixed 2 }
  | 0x1D => some { read := false, size := .fixed 1 }
  | 0x1E => some { read := false, size := .fixed 1 }
  | 0x1F => some { read := false, size := .fixed 4 }
  | 0x20 => some { read := false, size := .fixed 52 }
  | 0x21 => some { read := false, size := .fixed 1 }
  | 0x22 => some { read := false, size := .fixed 18 }
  | 0x23 => some { read := false, size := .fixed 13 }
  | 0x24 => some { read := false, size := .fixed 0 }
  | 0x25 => some { read := false, size := .fixed 0 }
  | 0x40 => some { read := true, size := .fixed 0 }
  | 0x41 => some { read := true, size := .fixed 0 }
  | 0x42 => some { read := true, size := .fixed 0 }
  | 0x43 => some { read := true, size := .fixed 2 }
  | 0x44 => some { read := true, size := .fixed 3 }
  | 0x45 => some { read := true, size := .fixed 1 }
  | 0x46 => some { read := true, size := .fixed 2 }
  | 0x47 => some { read := true, size := .fixed 0 }
  | 0x48 => some { read := true, size := .fixed 1 }
  | 0x49 => some { read := true, size := .fixed 1 }
  | 0x4A => some { read := true, size := .fixed 0 }
  | 0x4B => some { read := true, size := .fixed 0 }
  | 0x4C => some { read := true, size := .fixed 0 }
  | _ => none

/-- The argument bytes a frame needs, once its count byte (if it has one) is there; `none` while it is not there, or where
no length is correct (R175). -/
def argsNeeded (size : ArgSize) (args : List Byte) : Option Nat :=
  match size with
  | .fixed n => some n
  | .counted header countAt limit =>
    match args[countAt]? with
    | some c => if c.toNat ≤ limit then some (header + c.toNat) else none
    | none => none

/-- Whether the frame is executed (R175, R176): a write needs exactly its bytes and no partial byte, a read needs at least
its argument bytes, when its copy was taken. -/
def frameFits (code : Byte) (args : List Byte) (partialBits : Nat) : Bool :=
  match shapeOf code with
  | none => false
  | some sh =>
    match argsNeeded sh.size args with
    | none => false
    | some n => if sh.read then decide (n ≤ args.length) else decide (args.length = n) && decide (partialBits = 0)

/-- The arguments of WRITE DIRECTORY after the index, in the order of R184. -/
def entryArgsOf (bs : List Byte) : EntryArgs :=
  { code := word2 (bs.getD 0 0#8) (bs.getD 1 0#8), mask := word2 (bs.getD 2 0#8) (bs.getD 3 0#8),
    nameCount := bs.getD 4 0#8, name := (bs.drop 5).take 16, kind := bs.getD 21 0#8, digitCount := bs.getD 22 0#8,
    digits := (bs.drop 23).take 20, lpm := bs.getD 43 0#8, rate := bs.getD 44 0#8, segment := bs.getD 45 0#8,
    iocLow := word2 (bs.getD 46 0#8) (bs.getD 47 0#8), iocHigh := word2 (bs.getD 48 0#8) (bs.getD 49 0#8),
    retries := bs.getD 50 0#8 }

/-- The command of a frame of the right size (R184): command byte and argument bytes. -/
def commandOf (l : Link) (code : Byte) (args : List Byte) : Option Instr :=
  match code.toNat, args with
  | 0x11, pr :: t0 :: t1 :: t2 :: r :: p0 :: p1 :: cu :: _ :: entries =>
    some (.submitOrder l pr (word3 t0 t1 t2) r (word2 p0 p1) cu entries)
  | 0x12, o0 :: o1 :: _ :: chars => some (.addCaption l (word2 o0 o1) chars)
  | 0x13, [o0, o1, p] => some (.amendPriority l (word2 o0 o1) p)
  | 0x14, [o0, o1] => some (.withdrawOrder l (word2 o0 o1))
  | 0x15, [t0, t1, t2] => some (.mountConfirm l (word3 t0 t1 t2))
  | 0x16, [] => some (.haltRound l)
  | 0x17, [c] => some (.lineOut l c)
  | 0x18, [c] => some (.lineIn l c)
  | 0x19, [c] => some (.lineReset l c)
  | 0x1A, [c] => some (.markFaultCode l c)
  | 0x1B, [f0, f1] => some (.releaseReceipt l (word2 f0 f1))
  | 0x1C, [f0, f1] => some (.reprintSlip l (word2 f0 f1))
  | 0x1D, [k] => some (.ackNotice l k)
  | 0x1E, [m] => some (.setNoticeMask l m)
  | 0x1F, [m0, m1, d0, d1] => some (.setClock l (word2 m0 m1) (word2 d0 d1))
  | 0x20, i :: rest => some (.writeDirectory l i (entryArgsOf rest))
  | 0x21, [i] => some (.eraseDirectory l i)
  | 0x22, i :: points => some (.writeCurve l i points)
  | 0x23, [a0, a1, d, r0, r1, b0, b1, p, rt, c1, c2, c3, c4] =>
    some (.writeSettings l
      { diameter := word2 a0 a1, depth := d, retryDelay := word2 r0 r1, bureau := word2 b0 b1, printer := p, rate := rt,
        channels := { c1 := c1, c2 := c2, c3 := c3, c4 := c4 } })
  | 0x24, [] => some (.setLock l)
  | 0x25, [] => some (.clearLock l)
  | 0x40, _ => some (.readResult l)
  | 0x41, _ => some (.readStatus l)
  | 0x42, _ => some (.readQueue l)
  | 0x43, o0 :: o1 :: _ => some (.readOrder l (word2 o0 o1))
  | 0x44, o0 :: o1 :: i :: _ => some (.readDestination l (word2 o0 o1) i)
  | 0x45, c :: _ => some (.readChannel l c)
  | 0x46, f0 :: f1 :: _ => some (.readReceipt l (word2 f0 f1))
  | 0x47, _ => some (.readNextReceipt l)
  | 0x48, i :: _ => some (.readDirectory l i)
  | 0x49, i :: _ => some (.readCurve l i)
  | 0x4A, _ => some (.readSettings l)
  | 0x4B, _ => some (.readNotice l)
  | 0x4C, _ => some (.readClock l)
  | _, _ => none

/-- The row of the table that a whole link frame is (R175, R176): `bytes` are its whole bytes, `partialBits` the bits left
over. A frame in which no bit was shifted is no command. -/
def frameRow (l : Link) (bytes : List Byte) (partialBits : Nat) : Option Instr :=
  match bytes with
  | [] => if partialBits = 0 then none else some (.frameError l [] partialBits)
  | code :: args =>
    match shapeOf code with
    | none => some (.unknownCommand l code)
    | some _ =>
      if frameFits code args partialBits then commandOf l code args
      else some (.frameError l (code :: args) partialBits)

/-- The two bytes of a 16-bit argument. -/
def wordBytes (w : Word) : List Byte := [w.extractLsb' 8 8, w.extractLsb' 0 8]

/-- The three bytes of a print tag. -/
def tagBytes (w : BitVec 24) : List Byte := [w.extractLsb' 16 8, w.extractLsb' 8 8, w.extractLsb' 0 8]

/-- The argument bytes of WRITE DIRECTORY after the index (R184). -/
def entryArgBytes (a : EntryArgs) : List Byte :=
  wordBytes a.code ++ wordBytes a.mask ++ [a.nameCount] ++ a.name ++ [a.kind, a.digitCount] ++ a.digits ++
    [a.lpm, a.rate, a.segment] ++ wordBytes a.iocLow ++ wordBytes a.iocHigh ++ [a.retries]

/-- The argument bytes of WRITE SETTINGS (R184). -/
def settingsArgBytes (a : SettingsArgs) : List Byte :=
  wordBytes a.diameter ++ [a.depth] ++ wordBytes a.retryDelay ++ wordBytes a.bureau ++ [a.printer, a.rate] ++
    [a.channels.c1, a.channels.c2, a.channels.c3, a.channels.c4]

/-- The link a command comes on and the bytes of its frame (R184), for the rows that a link frame executes. -/
def commandFrame (i : Instr) : Option (Link × List Byte) :=
  match i with
  | .submitOrder l pr tag r p cu entries =>
    some (l, [0x11#8, pr] ++ tagBytes tag ++ [r] ++ wordBytes p ++ [cu, BitVec.ofNat 8 entries.length] ++ entries)
  | .addCaption l o chars => some (l, [0x12#8] ++ wordBytes o ++ [BitVec.ofNat 8 chars.length] ++ chars)
  | .amendPriority l o p => some (l, [0x13#8] ++ wordBytes o ++ [p])
  | .withdrawOrder l o => some (l, [0x14#8] ++ wordBytes o)
  | .mountConfirm l tag => some (l, [0x15#8] ++ tagBytes tag)
  | .haltRound l => some (l, [0x16#8])
  | .lineOut l c => some (l, [0x17#8, c])
  | .lineIn l c => some (l, [0x18#8, c])
  | .lineReset l c => some (l, [0x19#8, c])
  | .markFaultCode l c => some (l, [0x1A#8, c])
  | .releaseReceipt l f => some (l, [0x1B#8] ++ wordBytes f)
  | .reprintSlip l f => some (l, [0x1C#8] ++ wordBytes f)
  | .ackNotice l k => some (l, [0x1D#8, k])
  | .setNoticeMask l m => some (l, [0x1E#8, m])
  | .setClock l m d => some (l, [0x1F#8] ++ wordBytes m ++ wordBytes d)
  | .writeDirectory l i a => some (l, [0x20#8, i] ++ entryArgBytes a)
  | .eraseDirectory l i => some (l, [0x21#8, i])
  | .writeCurve l i points => some (l, [0x22#8, i] ++ points)
  | .writeSettings l a => some (l, [0x23#8] ++ settingsArgBytes a)
  | .setLock l => some (l, [0x24#8])
  | .clearLock l => some (l, [0x25#8])
  | .readResult l => some (l, [0x40#8])
  | .readStatus l => some (l, [0x41#8])
  | .readQueue l => some (l, [0x42#8])
  | .readOrder l o => some (l, [0x43#8] ++ wordBytes o)
  | .readDestination l o i => some (l, [0x44#8] ++ wordBytes o ++ [i])
  | .readChannel l c => some (l, [0x45#8, c])
  | .readReceipt l f => some (l, [0x46#8] ++ wordBytes f)
  | .readNextReceipt l => some (l, [0x47#8])
  | .readDirectory l i => some (l, [0x48#8, i])
  | .readCurve l i => some (l, [0x49#8, i])
  | .readSettings l => some (l, [0x4A#8])
  | .readNotice l => some (l, [0x4B#8])
  | .readClock l => some (l, [0x4C#8])
  | _ => none

/-- The kind a back-channel kind byte names (R184). -/
def backKindOfByte (b : Byte) : Option BackKind :=
  match b.toNat with
  | 0x81 => some .station
  | 0x82 => some .phased
  | 0x83 => some .retake
  | 0x84 => some .hold
  | 0x85 => some .go
  | 0x86 => some .receipt
  | _ => none

/-- Total bytes of a back-channel frame (R184). -/
def backFrameSize : BackKind → Nat
  | .retake => 7
  | .receipt => 12
  | _ => 5

/-- The row a back-channel frame with a good check is: kind, station code and body (R184). -/
def backRow (c : Chan) (kind : BackKind) (body : List Byte) : Option Instr :=
  match kind, body with
  | .station, [a, b] => some (.station c (word2 a b))
  | .phased, [a, b] => some (.phased c (word2 a b))
  | .retake, [a, b, l0, l1] => some (.retake c (word2 a b) (word2 l0 l1))
  | .hold, [a, b] => some (.hold c (word2 a b))
  | .go, [a, b] => some (.go c (word2 a b))
  | .receipt, [a, b, r0, r1, u0, u1, q, p0, p1] =>
    some (.receipt c (word2 a b) (word2 r0 r1) (word2 u0 u1) q (word2 p0 p1))
  | _, _ => none

/-- Whether the last two bytes of a frame are the check code of those before them (R121). -/
def checkPasses (frame : List Byte) : Bool :=
  decide (withCheck (frame.take (frame.length - 2)) = frame)

/-- The rows that one run of back-channel bytes between two idles of ten bit times is (R185): a frame, a failed check, a
framing failure for an unknown kind or a short frame, and a further one for bytes that follow a frame without an idle. -/
def backChannelRows (c : Chan) (bytes : List Byte) : List Instr :=
  match bytes with
  | [] => []
  | k :: _ =>
    match backKindOfByte k with
    | none => [.framingFailure c]
    | some kind =>
      if bytes.length < backFrameSize kind then [.framingFailure c]
      else
        let frame := bytes.take (backFrameSize kind)
        let row :=
          if checkPasses frame then (backRow c kind ((frame.drop 1).take (backFrameSize kind - 3))).getD (.badCheck c)
          else .badCheck c
        if bytes.length = backFrameSize kind then [row] else [row, .framingFailure c]

/-! ### The levels of a back channel (R185) -/

/-- The levels of a byte on a back channel, one for each bit time of 300 bit/s (R185): a start bit, low, eight bits most significant
first, a stop bit, high. -/
def backByteLevels (b : Byte) : List Bool := false :: (msbFirst b ++ [true])

/-- The bit times of idle that a frame begins after (R185). -/
def idleBits : Nat := 10

/-- An idle line on which the next byte begins a frame (R185). -/
def Reception.ready : Reception := { idle := idleBits, byte := none, run := some [] }

/-- One bit time of a back channel (R185): idle, of which ten in a row end the bytes before them, a start bit, one of a byte's eight
bits, or its stop bit, which is not judged (log entry 36). -/
def receiveLevel (high : Bool) (r : Reception) : Reception :=
  match r.byte with
  | none =>
    if high then
      { r with idle := min idleBits (r.idle + 1), run := if idleBits ≤ r.idle + 1 then some [] else r.run }
    else { r with byte := some [] }
  | some bits =>
    if bits.length < 8 then { r with byte := some (bits ++ [high]) }
    else { idle := 0, byte := none, run := r.run.map (· ++ [ofMsbFirst 8 bits]) }

/-- The rows that a run of bytes is while no idle has ended it (R185): a frame is received when its bytes have arrived, and too few
bytes are no row yet. -/
def openRunRows (c : Chan) (run : List Byte) : List Instr :=
  match run with
  | [] => []
  | k :: _ =>
    match backKindOfByte k with
    | none => backChannelRows c run
    | some kind => if run.length < backFrameSize kind then [] else backChannelRows c run

/-- The rows that one bit time completes (R112, R185): with a byte's stop bit a frame or a framing failure, with the tenth bit time of
idle a short frame; none while bytes are discarded. -/
def levelRows (c : Chan) (high : Bool) (r : Reception) : List Instr :=
  match r.run with
  | none => []
  | some run =>
    match r.byte with
    | none => if high ∧ idleBits ≤ r.idle + 1 then (backChannelRows c run).drop (openRunRows c run).length else []
    | some bits =>
      if bits.length < 8 then []
      else (openRunRows c (run ++ [ofMsbFirst 8 bits])).drop (openRunRows c run).length

/-- The rows that some levels complete, one after the other (R185). -/
def receiveRows (c : Chan) : List Bool → Reception → List Instr
  | [], _ => []
  | high :: rest, r => levelRows c high r ++ receiveRows c rest (receiveLevel high r)

/-- The reception that some levels leave (R185). -/
def receiveLevels (levels : List Bool) (r : Reception) : Reception := levels.foldl (fun r high => receiveLevel high r) r

/-- The rows that the levels of a back channel are, from an idle line on (R185). -/
def backLineRows (c : Chan) (levels : List Bool) : List Instr := receiveRows c levels Reception.ready

/-! ### The photocell lines (R68) -/

/-- The transfer of a reading (R68): the converter select is lowered, twelve bits are clocked in, most significant first, and the
select is raised again. -/
def photocellTransfer (value : BitVec 12) : List PhotocellEvent :=
  .select false :: ((msbFirst value).map .clock ++ [.select true])

/-- The bits clocked in before the select rises. -/
def clockedBits : List PhotocellEvent → Option (List Bool)
  | [.select true] => some []
  | .clock b :: rest => (clockedBits rest).map (b :: ·)
  | _ => none

/-- The row that a transfer on the photocell lines is (R68); only twelve bits between a fall and a rise of the select are one (log
entry 35). -/
def photocellRow (events : List PhotocellEvent) : Option Instr :=
  match events with
  | .select false :: rest =>
    match clockedBits rest with
    | some bits => if bits.length = 12 then some (.photocellReading (ofMsbFirst 12 bits)) else none
    | none => none
  | _ => none

end Sys2Proof.Machine
end

