-- ==== Sys2Proof/Machine/Answers.lean ====
section
/-! DEFINITION. The answers of the read-type commands, byte by byte (spec/11 R184): each is a function of the state at the
moment its copy is taken (R176). What R184 leaves open in them is in log entries 15 and 16. -/

namespace Sys2Proof.Machine

/-! ### Pieces of answers -/

/-- `n` bytes of zeros. -/
def zeros (n : Nat) : List Byte := List.replicate n 0#8

/-- A number as one byte. -/
def byteOf (n : Nat) : Byte := BitVec.ofNat 8 n

/-- An optional field of `width` bytes: presence, then the field or zeros (R184). -/
def optional (width : Nat) (v : Option (List Byte)) : List Byte :=
  match v with
  | none => 0#8 :: zeros width
  | some bs => 1#8 :: bs

/-- An optional number. -/
def optionalNumber (width : Nat) (v : Option Nat) : List Byte := optional width (v.map (be width))

/-- A timer: running, then its whole milliseconds (R184). -/
def timerBytes (now : Nat) (t : Timer) : List Byte :=
  match t with
  | none => zeros 5
  | some t0 => 1#8 :: be 4 (elapsedMs now (some t0))

/-- An optional time: minute of day and day count (R184). -/
def timeBytes (t : Option TimeOfDay) : List Byte := optional 4 (t.map fun x => be 2 x.minute ++ be 2 x.day)

/-- An optional receiver report (R184). -/
def reportBytes (r : Option Report) : List Byte :=
  optional 7 (r.map fun x => be 2 x.received ++ be 2 x.unrecovered ++ [byteOf x.grade] ++ be 2 x.picture)

/-- The class of a drum or round, optional. -/
def classBytes (k : Option LpmClass) : List Byte := optional 1 (k.map fun x => [byteOf x.lpm])

/-- A not-found answer: zeros, the found byte among them, over the full length (R184). -/
def notFound (length : Nat) : List Byte := zeros length

/-! ### READ RESULT and READ STATUS -/

def resultAnswer (r : ResultRecord) : List Byte := [r.command, byteOf r.code.number] ++ be 4 r.value

/-- The membership: the destination index of each channel, or 0xFF (R184). -/
def membershipBytes (m : PerChan (Option Nat)) : List Byte :=
  Chan.all.map fun c =>
    match m.get c with
    | none => 0xFF#8
    | some i => byteOf i

/-- The round's part of READ STATUS; for a CLOSED round the state alone, then zeros. -/
def roundStatus (r : Round) : List Byte :=
  match r.state with
  | .closed => byteOf r.state.number :: zeros 10
  | _ =>
    byteOf r.state.number :: (optionalNumber 2 r.order ++ classBytes r.drumClass ++ membershipBytes r.members ++
      [boolByte r.scanComplete])

def drumStatus (d : Drum) (p : Pins) : List Byte :=
  [byteOf d.state.number] ++ classBytes d.target ++ be 2 d.drive ++ optionalNumber 3 d.period ++
    [byteOf d.lockCount, boolByte p.cover, boolByte p.clamp, boolByte p.home]

def mountStatus : Mount → List Byte
  | .empty => 0#8 :: zeros 3
  | .requested t => 1#8 :: be 3 t
  | .mounted t => 2#8 :: be 3 t
  | .unmountRequested t => 3#8 :: be 3 t

def headStatus (h : Head) : List Byte := be 2 h.position ++ [byteOf h.state.number] ++ be 2 h.held

/-- The scan converter's part of READ STATUS. The validity byte of the latest reference is 1 for valid and 0 for invalid, of which R184
gives no code (DEDUCED, unsafe: log entry 16). -/
def converterStatus (c : Converter) : List Byte :=
  [byteOf c.lamp.number, byteOf c.invalidCount] ++
    optional 4 (c.pair.map fun p => be 2 p.white ++ be 2 p.black) ++
    optional 5 (c.latest.map fun r => be 2 r.white ++ be 2 r.black ++ [boolByte r.valid]) ++
    optionalNumber 1 (c.curve.map fun w => w.index) ++ be 2 c.invalidTotal

/-- The line numbers held lie in rising order, so the lowest is the first and the highest the last (R83). -/
def storeStatus (ls : LineStore) : List Byte :=
  [byteOf ls.held.length] ++ optionalNumber 2 (ls.held.head?.map HeldLine.number) ++
    optionalNumber 2 (ls.held.getLast?.map HeldLine.number) ++ optionalNumber 1 ls.depth

/-- The PRRDY level that READ STATUS shows (R154). No row reports PRRDY becoming not ready, so after a row has shown it ready the level
is a free value until a row reads it again; one that was found low stays low until PRRDY_READY (log entry 8). -/
def readyLevel (s : State) : Bool := s.pins.printerReady && Config.unreportedReadyLevel s.free

/-- How many free values the answer of READ STATUS uses. -/
def statusFreeUsed (s : State) : Nat := if s.pins.printerReady then 1 else 0

def printerStatus (p : Printer) (ready paper : Bool) (log : List Receipt) : List Byte :=
  [byteOf p.state.number] ++ optionalNumber 2 (p.slip.map Slip.filing) ++ be 2 p.position ++
    be 2 (match p.slip with
      | none => 0
      | some x => x.text.length) ++
    [boolByte p.disablePending, boolByte ready, boolByte paper,
      byteOf (log.filter fun r => r.slip == .pending).length]

def statusAnswer (s : State) : List Byte :=
  roundStatus s.round ++ drumStatus s.drum s.pins ++ mountStatus s.mount ++ headStatus s.head ++
    converterStatus s.converter ++ storeStatus s.lineStore ++ printerStatus s.printer (readyLevel s) s.pins.paper s.log

/-! ### The book -/

/-- Put an order at its place in selection order (1.1). -/
def insertOrder (o : Order) : List Order → List Order
  | [] => [o]
  | x :: rest => if ahead o x then o :: x :: rest else x :: insertOrder o rest

/-- The orders in selection order: highest priority first, then lowest submit sequence (1.1). -/
def selectionOrder (os : List Order) : List Order := os.foldr insertOrder []

def queuePlace (o : Order) : List Byte :=
  be 2 o.number ++ [byteOf o.priority.rank, byteOf o.state.number] ++ be 3 o.tag ++
    [byteOf (o.dests.filter fun d => d.state == .ready).length]

def queueAnswer (s : State) : List Byte :=
  byteOf s.book.orders.length :: ((selectionOrder s.book.orders).flatMap queuePlace ++
    zeros (8 * (16 - s.book.orders.length)))

/-- The twelve entry-index bytes of READ ORDER: those listed, and free values beyond the count (log entry 15). -/
def indexBytes (free : Nat) (ds : List Destination) : List Byte :=
  ds.map (fun d => byteOf d.entry) ++
    (List.range (12 - ds.length)).map fun k => Config.unlistedIndexByte (free + k)

/-- The answer of READ ORDER for an order in the book, in the order of R1's table. -/
def orderBytes (free : Nat) (o : Order) : List Byte :=
  [1#8] ++ be 2 o.number ++ [byteOf (linkNumber o.origin)] ++ be 4 o.sequence ++ [byteOf o.priority.rank] ++ be 3 o.tag ++
    [byteOf o.resolution] ++ be 2 o.length ++ be 2 o.ioc ++ be 2 o.samples ++ be 2 o.lines ++ [byteOf o.curve] ++
    charField 240 o.caption ++ [byteOf o.state.number, byteOf o.dests.length] ++ indexBytes free o.dests ++
    [boolByte o.attempted]

/-- The length of READ ORDER's answer. -/
def orderAnswerLength : Nat := 278

def orderAnswer (s : State) (n : Nat) : List Byte :=
  match findOrder s n with
  | none => notFound orderAnswerLength
  | some o => orderBytes s.free o

/-- How many free values the answer of READ ORDER uses. -/
def orderFreeUsed (s : State) (n : Nat) : Nat :=
  match findOrder s n with
  | none => 0
  | some o => 12 - o.dests.length

/-- The retry-delay timer as a timer (R20). -/
def retryTimerBytes (now : Nat) (t : Option RetryTimer) : List Byte := timerBytes now (t.map RetryTimer.start)

/-- The answer of READ DESTINATION for a destination, in the order of R3's table. -/
def destinationBytes (now : Nat) (d : Destination) : List Byte :=
  [1#8, byteOf d.entry, byteOf d.state.number, byteOf d.attempts] ++ retryTimerBytes now d.retryTimer ++
    optionalNumber 1 (d.outcome.map CallOutcome.number) ++ [boolByte d.exhausted] ++
    optionalNumber 1 (d.channel.map Chan.number) ++ [boolByte d.filed] ++ optionalNumber 2 (d.station.map BitVec.toNat) ++
    timeBytes d.startTime ++ timeBytes d.endTime ++ be 2 d.sent ++ be 2 d.resent ++ be 2 d.skipped ++
    reportBytes d.report

/-- The length of READ DESTINATION's answer. -/
def destinationAnswerLength : Nat := 42

def destinationAnswer (s : State) (n i : Nat) : List Byte :=
  match findDest s n i with
  | none => notFound destinationAnswerLength
  | some d => destinationBytes s.now d

/-! ### The channels -/

def lineTimerBytes (now : Nat) (ch : Channel) : List Byte :=
  timerBytes now (ch.lineTimer.map LineTimer.start) ++ be 3 ch.linePeriod

def retakeBytes : RetakeEntry → List Byte
  | .resend l => 0#8 :: be 2 l
  | .skip l => 1#8 :: be 2 l

/-- The hold: HOLDING 0 or NOT HOLDING 1, with its timer (R124). -/
def holdBytes (now : Nat) (t : Timer) : List Byte := (if t.isSome then 0#8 else 1#8) :: timerBytes now t

/-- The answer of READ CHANNEL for a channel: R96 down to the hook, the carrier, the occupancy, then R124. -/
def channelBytes (s : State) (c : Chan) : List Byte :=
  let ch := s.channels.get c
  let marked := markedLines c s.lineStore
  [1#8, byteOf ch.state.number, byteOf ch.service.number] ++
    optional 4 (ch.call.map fun k => be 2 k.order ++ [byteOf k.dest, byteOf k.entryIndex]) ++
    optionalNumber 2 (ch.station.map BitVec.toNat) ++ optionalNumber 1 (ch.ending.map CallEnding.number) ++
    timerBytes s.now ch.stateTimer ++ [byteOf ch.phaseCount] ++ lineTimerBytes s.now ch ++
    timerBytes s.now ch.carrierTimer ++ [byteOf ch.hook.number] ++
    [boolByte (s.pins.carrier.get c), byteOf marked.length] ++ optionalNumber 2 marked.head? ++
    be 2 ch.sendPosition ++
    (byteOf ch.queue.length :: (ch.queue.flatMap retakeBytes ++ zeros (3 * (6 - ch.queue.length)))) ++
    holdBytes s.now ch.hold ++
    [byteOf ch.stopping, byteOf ch.trouble, byteOf ch.caution.number, byteOf ch.fault.number] ++
    be 2 ch.sent ++ be 2 ch.resent ++ be 2 ch.skipped ++ be 2 ch.refused

/-- The length of READ CHANNEL's answer. -/
def channelAnswerLength : Nat := 77

def channelAnswer (s : State) (b : Byte) : List Byte :=
  match chanOfByte b with
  | none => notFound channelAnswerLength
  | some c => channelBytes s c

/-! ### The log -/

/-- A receipt record in the order of R142's table. -/
def recordBytes (r : Receipt) : List Byte :=
  be 2 r.filing ++ be 2 r.order ++ be 3 r.tag ++ [byteOf r.priority.rank, byteOf r.entry] ++ charField 16 r.name ++
    optionalNumber 2 (r.station.map BitVec.toNat) ++ optionalNumber 1 (r.channel.map Chan.number) ++
    [byteOf r.outcome.number, byteOf r.attempts, boolByte r.exhausted] ++ timeBytes r.startTime ++ timeBytes r.endTime ++
    be 2 r.sent ++ be 2 r.resent ++ be 2 r.skipped ++ reportBytes r.report ++ charField 32 r.caption ++
    [boolByte r.released.desk, boolByte r.released.dispatch, byteOf r.slip.number, boolByte r.reprint]

/-- The length of a record in an answer. -/
def recordLength : Nat := 95

/-- The record of a filing number, if the log holds it. -/
def findReceipt (s : State) (f : Nat) : Option Receipt := s.log.find? fun r => r.filing == f

def receiptAnswer (s : State) (f : Nat) : List Byte :=
  match findReceipt s f with
  | none => notFound (1 + recordLength)
  | some r => 1#8 :: recordBytes r

/-- The records a link has not released, in filing order (R149). -/
def unreleased (l : Link) (s : State) : List Receipt := s.log.filter fun r => !r.released.get l

def nextReceiptAnswer (s : State) (l : Link) : List Byte :=
  match unreleased l s with
  | [] => notFound (2 + recordLength)
  | r :: rest => [1#8, byteOf (rest.length + 1)] ++ recordBytes r

/-! ### The setting store -/

/-- The state and fields of an entry; EMPTY and DAMAGED entries carry no field, shown as zeros (log entry 16). -/
def entryReadingBytes : EntryReading → List Byte
  | .empty => 0#8 :: zeros 51
  | .valid e => 1#8 :: entryBytes e
  | .damaged => 2#8 :: zeros 51

def directoryAnswer (s : State) (i : Nat) : List Byte :=
  if i ≤ 23 then 1#8 :: entryReadingBytes (readEntry s.store i) else notFound 53

/-- A condition, INTACT 0 or REPLACED 1 (R164). -/
def conditionByte (replaced : Bool) : Byte := boolByte replaced

def curveAnswer (s : State) (i : Nat) : List Byte :=
  if i ≤ 3 then 1#8 :: (curveBytes (readCurvePoints s.store i) ++ [conditionByte (curveReplaced s.store i)])
  else notFound 19

/-- The settings, their condition, the lock flag (SET 0, CLEAR 1), its condition, the guard level, whether the store is
locked, the cycle state and the item being written. -/
def settingsAnswer (s : State) : List Byte :=
  settingsBytes (readSettings s.store) ++
    [conditionByte s.store.settings.damaged, boolByte (!readLockFlag s.store), conditionByte s.store.lock.damaged,
      boolByte s.pins.guard, boolByte (storeLocked s)] ++
    (match s.store.cycle with
     | none => 0#8 :: zeros 2
     | some c => 1#8 :: be 2 c.item.name.code)

/-! ### Notices and the clock -/

/-- The detail of a notice in eight bytes (R178, R184). R184 lays out a tag for kind 1 as for kind 2, and R178 gives a DRUM FAULT none:
that its three bytes are zeros is the model's choice (DESIGN CHOICE, log entry 38, unsafe). -/
def noticeDetail : Notice → List Byte
  | .drumFault cause order => [byteOf cause.number] ++ zeros 3 ++ optionalNumber 2 order ++ [0#8]
  | .mountRequest kind tag order => [byteOf kind.number] ++ be 3 tag ++ optionalNumber 2 order ++ [0#8]
  | .lineTrouble c t o d => [byteOf c.number, byteOf t] ++ be 2 o ++ [byteOf d] ++ zeros 3
  | .printerAttention f => [0#8] ++ optionalNumber 2 f ++ zeros 4
  | .receiptFiled f o d oc => be 2 f ++ be 2 o ++ [byteOf d, byteOf oc.number] ++ zeros 2
  | .orderDone o => be 2 o ++ zeros 6
  | .storeDone i => be 2 i.code ++ zeros 6

/-- The present kinds as a mask byte (R180). -/
def presentSet (ls : LinkState) : Byte :=
  byteOf ((NoticeKind.all.map fun k => if (ls.notices.get k).isSome then 2 ^ (k.code - 1) else 0).foldl (· + ·) 0)

/-- The notice of the highest-priority present kind (R180). -/
def highestNotice (ls : LinkState) : Option Notice := NoticeKind.all.findSome? fun k => ls.notices.get k

def noticeAnswer (ls : LinkState) : List Byte :=
  presentSet ls ::
    (match highestNotice ls with
     | none => zeros 9
     | some n => byteOf n.kind.code :: noticeDetail n)

def clockAnswer (s : State) : List Byte :=
  match s.clock with
  | none => zeros 6
  | some c => [1#8] ++ be 2 c.minute ++ be 2 c.day ++ [byteOf c.second]

end Sys2Proof.Machine
end

