-- ==== Sys2Proof/Machine/LogOps.lean ====
section
/-! DEFINITION. The receipt log and the slip printer controller (spec/08, spec/09): the removal test, the filing of a
reference and of those that a freed place lets through, the end of a slip, the effect of the printer setting, and the level of PRTX. -/

namespace Sys2Proof.Machine

/-! ### The receipt log -/

/-- The number of records the log holds at most (R145). -/
def logPlaces : Nat := 32

/-- Whether a link counts as having released a record: its flag is set, or the link is absent (R146, R148). -/
def releasedBy (s : State) (l : Link) (r : Receipt) : Bool := r.released.get l || !s.pins.presence.get l

/-- Whether a record's slip is printed or not wanted (R146). -/
def slipDone (r : Receipt) : Bool := r.slip == .printed || r.slip == .notRequired

/-- The removal test (R146). -/
def removable (s : State) (r : Receipt) : Bool := releasedBy s .desk r && releasedBy s .dispatch r && slipDone r

/-- The removal test made for every record that `p` names (R146). -/
def testRemoval (p : Receipt → Bool) (s : State) : State :=
  { s with log := s.log.filter fun r => !(p r && removable s r) }

/-- The removal test made for the record of a filing number. -/
def testRecord (f : Nat) (s : State) : State := testRemoval (fun r => r.filing == f) s

/-- Change the record of a filing number. -/
def modRecord (f : Nat) (g : Receipt → Receipt) (s : State) : State :=
  { s with log := s.log.map fun r => if r.filing = f then g r else r }

/-- The station name copied at filing: that of a VALID entry, and 0 characters otherwise (R143). -/
def filedName (s : State) (entry : Nat) : List Byte :=
  match validEntry s.store entry with
  | some e => e.name
  | none => []

/-- The record a reference turns into (R143). -/
def makeRecord (s : State) (number : Nat) (ref : FilingRef) (o : Order) (d : Destination) (oc : CallOutcome) : Receipt :=
  { filing := number, order := o.number, tag := o.tag, priority := o.priority, entry := d.entry,
    name := filedName s d.entry, station := d.station, channel := ref.channel, outcome := oc, attempts := d.attempts,
    exhausted := d.exhausted, startTime := d.startTime, endTime := d.endTime, sent := d.sent, resent := d.resent,
    skipped := d.skipped, report := d.report, caption := o.caption.take 32,
    released := { desk := false, dispatch := false },
    slip := if s.printer.state = .disabled then .notRequired else .pending, reprint := false }

/-- The next filing number (R23). -/
def filingNumber (s : State) : Nat :=
  freeNumber 65535 (s.log.map Receipt.filing) (s.log.length + 1) s.nextFiling

/-- Whether the head reference can be transferred now: there is one, and the log has room (R23). -/
def canTransfer (s : State) : Bool := !s.filing.isEmpty && decide (s.log.length < logPlaces)

/-- The transfer of the head reference (R23, R143, R145, R146): the record is appended, the filed flag set, RECEIPT FILED
noticed, the order tested for leaving the book, and the new record tested for removal. -/
def transferRef (ref : FilingRef) (rest : List FilingRef) (s : State) : State :=
  match findOrder s ref.order, findDest s ref.order ref.dest with
  | some o, some d =>
    match d.outcome with
    | none => s
    | some oc =>
      let number := filingNumber s
      let s1 : State :=
        { s with filing := rest, log := s.log ++ [makeRecord s number ref o d oc],
                 nextFiling := numberAfter 65535 number }
      let s2 := modDest ref.order ref.dest (fun d => { d with filed := true }) s1
      let s3 := noticeBoth (.receiptFiled number ref.order ref.dest oc) s2
      testRecord number (settleOrder ref.order s3)
  | _, _ => s

/-- References transferred one by one, oldest first, until none is left or the log is full (R23). -/
def fileRefs : List FilingRef → State → State
  | [], s => s
  | ref :: rest, s => if s.log.length < logPlaces then fileRefs rest (transferRef ref rest s) else s

/-- The transfer of the head reference as a step of its own (R23): a record removed as it is filed frees its place, which lets the
references behind it through (R146). -/
def fileHead (ref : FilingRef) (rest : List FilingRef) (s : State) : State :=
  let s1 := transferRef ref rest s
  finishStep (if s1.log.length ≤ s.log.length then fileRefs rest s1 else s1)

/-- The end of a step that began with `places` records in the log: if a record has left, the place it freed lets the waiting references
through at once (R23, R146, R148), and the selection that follows an order that leaves with them is made (R15). DESIGN CHOICE, unsafe
(log entry 37): where R161 removes several records, all of them leave before the first reference is transferred. -/
def letThrough (places : Nat) (s : State) : State :=
  if s.log.length < places ∧ s.filing ≠ [] then finishStep (fileRefs s.filing s) else s

/-! ### The slip printer controller -/

/-- The PENDING record that comes next: the earliest in filing order (R156). -/
def nextPending (s : State) : Option Receipt := s.log.find? fun r => r.slip == .pending

/-- Every PENDING record becomes NOT REQUIRED, in filing order, each with its removal test (R161). -/
def dropPending (s : State) : State :=
  { s with
    log := s.log.filterMap fun r =>
      if r.slip = .pending then
        let r' : Receipt := { r with slip := .notRequired }
        if removable s r' then none else some r'
      else some r }

/-- Change the printer controller. -/
def modPrinter (f : Printer → Printer) (s : State) : State := { s with printer := f s.printer }

/-- No slip in progress, at character position 0 (R157, R158). -/
def withoutSlip (st : PrinterState) (p : Printer) : Printer :=
  { p with state := st, slip := none, position := 0, abandonDue := false }

/-- A slip in progress has ended with disable pending set: DISABLED, and every PENDING record NOT REQUIRED (R161). -/
def disableAtEnd (s : State) : State := dropPending (modPrinter (fun p => { p with state := .disabled, disablePending := false }) s)

/-- PAPER OUT from READY (R158): PRINTER ATTENTION with no filing number. -/
def paperOutFromReady (s : State) : State :=
  noticeBoth (.printerAttention none) (modPrinter (fun p => { p with state := .paperOut }) s)

/-- The slip in progress is complete (R157): PRINTED, the removal test, then DISABLED or READY; a paper absence reported
while the last character was on the line finds the controller READY (R162), and one that is over by then finds nothing (log
entry 9). -/
def completeSlip (f : Nat) (s : State) : State :=
  let s1 := testRecord f (modRecord f (fun r => { r with slip := .printed, reprint := false }) s)
  let s2 := modPrinter (withoutSlip .ready) s1
  if s2.printer.disablePending then disableAtEnd s2
  else if s2.pins.paper then s2
  else paperOutFromReady s2

/-- The slip in progress is abandoned after `sent` characters (R158). Paper that is back by then makes the controller READY
again (log entry 9). -/
def abandonSlip (f sent : Nat) (s : State) : State :=
  let s1 := modRecord f (fun r => { r with slip := .pending, reprint := r.reprint || decide (1 ≤ sent) }) s
  let s2 := noticeBoth (.printerAttention (some f)) (modPrinter (withoutSlip .paperOut) s1)
  if s2.printer.disablePending then disableAtEnd s2
  else if s2.pins.paper then modPrinter (fun p => { p with state := .ready }) s2
  else s2

/-- The printer setting turns disabled (R161). -/
def turnDisabled (s : State) : State :=
  match s.printer.state with
  | .ready => dropPending (modPrinter (fun p => { p with state := .disabled }) s)
  | .paperOut => dropPending (modPrinter (fun p => { p with state := .disabled }) s)
  | .printing => dropPending (modPrinter (fun p => { p with disablePending := true }) s)
  | .waiting => dropPending (modPrinter (fun p => { p with disablePending := true }) s)
  | .disabled => s

/-- The printer setting turns enabled (R161). -/
def turnEnabled (s : State) : State :=
  match s.printer.state with
  | .disabled => modPrinter (fun p => { p with state := if s.pins.paper then .ready else .paperOut }) s
  | .printing => modPrinter (fun p => { p with disablePending := false }) s
  | .waiting => modPrinter (fun p => { p with disablePending := false }) s
  | .ready => s
  | .paperOut => s

/-- The printer setting after a store cycle acts where it differs from the one before (R161). -/
def applyPrinterSetting (before after : Bool) (s : State) : State :=
  if before = after then s else if after then turnEnabled s else turnDisabled s

/-- A character that begins a run of characters at `now` (R155). -/
def freshRun (now : Nat) (p : Printer) : Printer := { p with runStart := now, runSent := 0 }

/-- A character that begins directly after the stop bits of the one before (R157). -/
def sameRun (p : Printer) : Printer := { p with runSent := p.runSent + 1 }

/-- The next character, before which PRRDY is read (R157): it begins as `run` says, or the controller waits. -/
def nextCharacter (ready : Bool) (run : Printer → Printer) (s : State) : State :=
  let s1 : State := { s with pins := { s.pins with printerReady := ready } }
  if ready then modPrinter (fun p => { run p with state := .printing }) s1
  else modPrinter (fun p => { p with state := .waiting }) s1

/-- The instant at which the character on the line has been sent (R155). -/
def characterEnd (p : Printer) (rate : PrintRate) : Nat := p.runStart + charactersTime rate (p.runSent + 1)

/-- The level of PRTX (R155, R157): in PRINTING the eleven bits of the character at the character position, in the order of the
slip text; high between characters, in WAITING, with no slip in progress and after reset (R154). -/
def printerLine (s : State) : Bool :=
  match s.printer.state, s.printer.slip with
  | .printing, some slip =>
    ((characterBits (slip.text.getD s.printer.position 0#8))[
      (s.now - s.printer.runStart) * slip.rate.baud / 1000000 - 11 * s.printer.runSent]?).getD true
  | _, _ => true

end Sys2Proof.Machine
end

