-- ==== Sys2Proof/Machine/Printing.lean ====
section
/-! DEFINITION. The meanings of the slip printer's events (spec/09 R155 to R158, R162). -/

namespace Sys2Proof.Machine

/-- SLIP_BEGIN (R156): in READY, the oldest PENDING record's slip begins; PRRDY is read before its first character (R157). -/
def execSlipBegin (ready : Bool) (s : State) : Host.Outcome State Fault Refusal :=
  match s.printer.state, nextPending s with
  | .ready, some r =>
    let settings := readSettings s.store
    let slip : Slip := { filing := r.filing, text := slipText settings.bureau r, rate := settings.rate }
    let s1 := modRecord r.filing (fun r => { r with slip := .printing }) s
    .next (nextCharacter ready (freshRun s.now)
      (modPrinter (fun p => { p with state := .printing, slip := some slip, position := 0, abandonDue := false }) s1))
  | _, _ => .next s

/-- SLIP_CHARACTER_SENT (R157, R158): the character position rises; the slip is complete, abandoned, or goes on. A place that its end
frees in the log lets the waiting references through (R146). -/
def execSlipCharacterSent (ready : Bool) (s : State) : Host.Outcome State Fault Refusal :=
  match s.printer.state, s.printer.slip with
  | .printing, some slip =>
    let sent := s.printer.position + 1
    let s1 := jumpTo (characterEnd s.printer slip.rate) s
    if slip.text.length ≤ sent then .next (letThrough s.log.length (completeSlip slip.filing s1))
    else if s.printer.abandonDue then .next (letThrough s.log.length (abandonSlip slip.filing sent s1))
    else .next (nextCharacter ready sameRun (modPrinter (fun p => { p with position := sent }) s1))
  | _, _ => .next s

/-- PRRDY_READY (R157): in WAITING the waiting character begins. -/
def execPrrdyReady (s : State) : Host.Outcome State Fault Refusal :=
  match s.printer.state with
  | .waiting => .next (nextCharacter true (freshRun s.now) s)
  | _ => .next { s with pins := { s.pins with printerReady := true } }

/-- PAPER_ABSENT (R158): PAPER OUT from READY; a slip is abandoned at once in WAITING, and in PRINTING when the character on
the line has been sent (log entry 9); a place that the end of a slip frees in the log lets the waiting references through (R146). -/
def execPaperAbsent (s : State) : Host.Outcome State Fault Refusal :=
  let s1 : State := { s with pins := { s.pins with paper := false } }
  match s.printer.state, s.printer.slip with
  | .ready, _ => .next (paperOutFromReady s1)
  | .printing, _ => .next (modPrinter (fun p => { p with abandonDue := true }) s1)
  | .waiting, some slip => .next (letThrough s.log.length (abandonSlip slip.filing s.printer.position s1))
  | _, _ => .next s1

/-- PAPER_PRESENT (R158): READY from PAPER OUT. -/
def execPaperPresent (s : State) : Host.Outcome State Fault Refusal :=
  let s1 : State := { s with pins := { s.pins with paper := true } }
  match s.printer.state with
  | .paperOut => .next (modPrinter (fun p => { p with state := .ready }) s1)
  | _ => .next s1

end Sys2Proof.Machine
end

