-- ==== Sys2Proof/Machine/Reads.lean ====
section
/-! DEFINITION. The meanings of the read-type commands (spec/11 R176): the answer copy is taken, and nothing else of the part
changes (READ ORDER and READ STATUS use up the free values they show: log entries 15 and 8). -/

namespace Sys2Proof.Machine

/-- READ_RESULT (R177). -/
def execReadResult (l : Link) (s : State) : Host.Outcome State Fault Refusal :=
  .next (takeAnswer l [0x40#8] (resultAnswer (s.links.get l).result) s)

/-- READ_STATUS (R184). -/
def execReadStatus (l : Link) (s : State) : Host.Outcome State Fault Refusal :=
  .next { takeAnswer l [0x41#8] (statusAnswer s) s with free := s.free + statusFreeUsed s }

/-- READ_QUEUE (R184). -/
def execReadQueue (l : Link) (s : State) : Host.Outcome State Fault Refusal :=
  .next (takeAnswer l [0x42#8] (queueAnswer s) s)

/-- READ_ORDER (R184). -/
def execReadOrder (l : Link) (order : Word) (s : State) : Host.Outcome State Fault Refusal :=
  .next { takeAnswer l (0x43#8 :: wordBytes order) (orderAnswer s order.toNat) s with
    free := s.free + orderFreeUsed s order.toNat }

/-- READ_DESTINATION (R184). -/
def execReadDestination (l : Link) (order : Word) (index : Byte) (s : State) : Host.Outcome State Fault Refusal :=
  .next (takeAnswer l (0x44#8 :: (wordBytes order ++ [index])) (destinationAnswer s order.toNat index.toNat) s)

/-- READ_CHANNEL (R96). -/
def execReadChannel (l : Link) (channel : Byte) (s : State) : Host.Outcome State Fault Refusal :=
  .next (takeAnswer l [0x45#8, channel] (channelAnswer s channel) s)

/-- READ_RECEIPT (R149). -/
def execReadReceipt (l : Link) (filing : Word) (s : State) : Host.Outcome State Fault Refusal :=
  .next (takeAnswer l (0x46#8 :: wordBytes filing) (receiptAnswer s filing.toNat) s)

/-- READ_NEXT_RECEIPT (R149). -/
def execReadNextReceipt (l : Link) (s : State) : Host.Outcome State Fault Refusal :=
  .next (takeAnswer l [0x47#8] (nextReceiptAnswer s l) s)

/-- READ_DIRECTORY (R163). -/
def execReadDirectory (l : Link) (index : Byte) (s : State) : Host.Outcome State Fault Refusal :=
  .next (takeAnswer l [0x48#8, index] (directoryAnswer s index.toNat) s)

/-- READ_CURVE (R164). -/
def execReadCurve (l : Link) (index : Byte) (s : State) : Host.Outcome State Fault Refusal :=
  .next (takeAnswer l [0x49#8, index] (curveAnswer s index.toNat) s)

/-- READ_SETTINGS (R164). -/
def execReadSettings (l : Link) (s : State) : Host.Outcome State Fault Refusal :=
  .next (takeAnswer l [0x4A#8] (settingsAnswer s) s)

/-- READ_NOTICE (R180). -/
def execReadNotice (l : Link) (s : State) : Host.Outcome State Fault Refusal :=
  .next (takeAnswer l [0x4B#8] (noticeAnswer (s.links.get l)) s)

/-- READ_CLOCK (R182). -/
def execReadClock (l : Link) (s : State) : Host.Outcome State Fault Refusal :=
  .next (takeAnswer l [0x4C#8] (clockAnswer s) s)

end Sys2Proof.Machine
end

