-- ==== Sys2Proof/Machine/Receipts.lean ====
section
/-! DEFINITION. The meanings of the receipt log's commands and events (spec/08 R147, R148; spec/09 R160; spec/01 R23). -/

namespace Sys2Proof.Machine

/-- RELEASE_RECEIPT (R147); a place freed lets the waiting references through (R146). -/
def execReleaseReceipt (l : Link) (filing : Word) (s : State) : Host.Outcome State Fault Refusal :=
  match findReceipt s filing.toNat with
  | none => .next (postResult l 0x1B#8 .noSuchReceipt 0 s)
  | some _ =>
    .next (letThrough s.log.length (testRecord filing.toNat
      (modRecord filing.toNat (fun r => { r with released := r.released.set l true }) (postResult l 0x1B#8 .ok 0 s))))

/-- REPRINT_SLIP (R160). -/
def execReprintSlip (l : Link) (filing : Word) (s : State) : Host.Outcome State Fault Refusal :=
  match findReceipt s filing.toNat with
  | none => .next (postResult l 0x1C#8 .noSuchReceipt 0 s)
  | some r =>
    if s.printer.state = .disabled ∨ s.printer.disablePending = true then
      .next (postResult l 0x1C#8 .printerDisabled 0 s)
    else if r.slip ≠ .printed then .next (postResult l 0x1C#8 .notPrinted 0 s)
    else
      .next (modRecord filing.toNat (fun r => { r with slip := .pending, reprint := true })
        (postResult l 0x1C#8 .ok 0 s))

/-- PRESENCE_FALL (R148): the link is absent, the removal test is made for every record, and the places freed let the waiting
references through. -/
def execPresenceFall (l : Link) (s : State) : Host.Outcome State Fault Refusal :=
  .next (letThrough s.log.length
    (testRemoval (fun _ => true) { s with pins := { s.pins with presence := s.pins.presence.set l false } }))

/-- PRESENCE_RISE (R148): nothing in the log changes. -/
def execPresenceRise (l : Link) (s : State) : Host.Outcome State Fault Refusal :=
  .next { s with pins := { s.pins with presence := s.pins.presence.set l true } }

/-- FILING_TRANSFER (R23): the head reference becomes a record while the log has room. -/
def execFilingTransfer (s : State) : Host.Outcome State Fault Refusal :=
  match s.filing with
  | [] => .next s
  | ref :: rest =>
    if s.log.length < logPlaces then .next (fileHead ref rest s) else .next s

end Sys2Proof.Machine
end

