-- ==== Sys2Proof/Machine/Reset.lean ====
section
/-! DEFINITION. The meaning of RESET (spec/01 R25, spec/08 R152, spec/10 R165 and R172, and the reset column of every state
table). -/

namespace Sys2Proof.Machine

/-- The head after reset: HOME if the home switch shows closed, otherwise RETURNING with its timer from zero (R57). -/
def headAfterReset (homeClosed : Bool) : Head :=
  if homeClosed then { position := 0, state := .home, returnTimer := none, held := 0 }
  else { position := 0, state := .returning, returnTimer := some 0, held := 0 }

/-- The printer state after reset (R154). -/
def printerAfterReset (enabled paper : Bool) : PrinterState :=
  if enabled then (if paper then .ready else .paperOut) else .disabled

/-- RESET (R25): every volatile field as at `State.reset`; the setting store is tested (R165), an interrupted write found
damaged (R172); the input levels stay as they are, and so does the host's queue (log entries 23 and 30). -/
def execReset (s : State) : Host.Outcome State Fault Refusal :=
  let store := storeAfterReset s.store
  .next { State.reset with
    store := store,
    head := headAfterReset s.pins.home,
    printer := { State.reset.printer with
      state := printerAfterReset (readSettings store).printerEnabled s.pins.paper },
    pins := s.pins,
    free := s.free,
    pending := s.pending }

end Sys2Proof.Machine
end

