-- ==== Sys2Proof/Machine/StoreCommands.lean ====
section
/-! DEFINITION. The meanings of the store writes (spec/10 R166 to R171), of the end of a store cycle (R166) and of the guard
input (R170). -/

namespace Sys2Proof.Machine

/-- Whether some destination of the book that names an entry is in a state `p` names (R167). -/
def entryNamed (s : State) (entry : Nat) (p : DestState → Bool) : Bool :=
  s.book.orders.any fun o => o.dests.any fun d => decide (d.entry = entry) && p d.state

/-- IN USE: named by a destination that is ASSIGNED or SENDING (R167). -/
def entryInUse (s : State) (entry : Nat) : Bool := entryNamed s entry fun st => st == .assigned || st == .sending

/-- REFERENCED: named by a destination that is READY or DELAYED (R167). -/
def entryReferenced (s : State) (entry : Nat) : Bool := entryNamed s entry fun st => st == .ready || st == .delayed

/-- CHANNEL BUSY: the configuration of a channel changes while it is neither OUT nor IDLE (R167, R169). -/
def channelBusy (s : State) (new : PerChan ChanConfig) : Bool :=
  Chan.all.any fun c =>
    new.get c != (readSettings s.store).config.get c && (s.channels.get c).state != .out &&
      (s.channels.get c).state != .idle

/-- A store write taken: OK with the item code, and the cycle started (R166). -/
def takeWrite (l : Link) (command : Byte) (w : StoreWrite) (s : State) : State :=
  startCycle l w (postResult l command .ok w.name.code s)

/-- WRITE_DIRECTORY (R167, R168). -/
def execWriteDirectory (l : Link) (index : Byte) (args : EntryArgs) (s : State) : Host.Outcome State Fault Refusal :=
  if s.store.cycle.isSome then .next (postResult l 0x20#8 .storeBusy 0 s)
  else if storeLocked s then .next (postResult l 0x20#8 .locked 0 s)
  else if 23 < index.toNat then .next (postResult l 0x20#8 .badField 0 s)
  else
    match entryOfArgs args with
    | none => .next (postResult l 0x20#8 .badField 0 s)
    | some e =>
      if entryInUse s index.toNat then .next (postResult l 0x20#8 .inUse 0 s)
      else .next (takeWrite l 0x20#8 (.entry index.toNat (some e)) s)

/-- ERASE_DIRECTORY (R167, R168). -/
def execEraseDirectory (l : Link) (index : Byte) (s : State) : Host.Outcome State Fault Refusal :=
  if s.store.cycle.isSome then .next (postResult l 0x21#8 .storeBusy 0 s)
  else if storeLocked s then .next (postResult l 0x21#8 .locked 0 s)
  else if 23 < index.toNat then .next (postResult l 0x21#8 .badField 0 s)
  else if entryInUse s index.toNat then .next (postResult l 0x21#8 .inUse 0 s)
  else if entryReferenced s index.toNat then .next (postResult l 0x21#8 .referenced 0 s)
  else .next (takeWrite l 0x21#8 (.entry index.toNat none) s)

/-- WRITE_CURVE (R167, R169). DESIGN CHOICE, unsafe (log entry 34): an index above 3 with points that fall gives BAD FIELD, where check 3
of R167 names BAD FIELD and BAD CURVE without an order between them. -/
def execWriteCurve (l : Link) (index : Byte) (points : List Byte) (s : State) : Host.Outcome State Fault Refusal :=
  if s.store.cycle.isSome then .next (postResult l 0x22#8 .storeBusy 0 s)
  else if storeLocked s then .next (postResult l 0x22#8 .locked 0 s)
  else if 3 < index.toNat then .next (postResult l 0x22#8 .badField 0 s)
  else
    match curveOfPoints points with
    | none => .next (postResult l 0x22#8 .badField 0 s)
    | some t =>
      if nonDecreasing t.toList = false then .next (postResult l 0x22#8 .badCurve 0 s)
      else .next (takeWrite l 0x22#8 (.curve index.toNat t) s)

/-- WRITE_SETTINGS (R167, R169). -/
def execWriteSettings (l : Link) (args : SettingsArgs) (s : State) : Host.Outcome State Fault Refusal :=
  if s.store.cycle.isSome then .next (postResult l 0x23#8 .storeBusy 0 s)
  else if storeLocked s then .next (postResult l 0x23#8 .locked 0 s)
  else
    match settingsOfArgs args with
    | none => .next (postResult l 0x23#8 .badField 0 s)
    | some v =>
      if channelBusy s v.config then .next (postResult l 0x23#8 .channelBusy 0 s)
      else .next (takeWrite l 0x23#8 (.settings v) s)

/-- SET_LOCK (R171): taken, locked or not, unless a cycle runs. -/
def execSetLock (l : Link) (s : State) : Host.Outcome State Fault Refusal :=
  if s.store.cycle.isSome then .next (postResult l 0x24#8 .storeBusy 0 s)
  else .next (takeWrite l 0x24#8 (.lock true) s)

/-- CLEAR_LOCK (R171). -/
def execClearLock (l : Link) (s : State) : Host.Outcome State Fault Refusal :=
  if s.store.cycle.isSome then .next (postResult l 0x25#8 .storeBusy 0 s)
  else if s.pins.guard = false then .next (postResult l 0x25#8 .guardLow 0 s)
  else .next (takeWrite l 0x25#8 (.lock false) s)

/-- STORE_CYCLE_END (R166): the item takes its new contents, the store is IDLE, STORE DONE goes to the link that asked, and a
change of the printer setting acts at once (R161); the places it frees in the log let the waiting references through (R146). -/
def execStoreCycleEnd (s : State) : Host.Outcome State Fault Refusal :=
  match s.store.cycle with
  | none => .next s
  | some c =>
    let before := (readSettings s.store).printerEnabled
    let s1 := jumpTo (c.start + cycleLength) s
    let s2 : State := { s1 with store := { writeItem c.item s.store with cycle := none } }
    let s3 := noticeTo c.link (.storeDone c.item.name) s2
    .next (letThrough s.log.length (applyPrinterSetting before (readSettings s3.store).printerEnabled s3))

/-- GUARD_FALL (R170): a fall inside a running cycle locks the store only when the cycle ends. -/
def execGuardFall (s : State) : Host.Outcome State Fault Refusal :=
  .next { s with
    pins := { s.pins with guard := false },
    store := { s.store with
      cycle := s.store.cycle.map fun c => { c with guardFell := c.guardFell || s.pins.guard } } }

/-- GUARD_RISE (R170): the lock ends. -/
def execGuardRise (s : State) : Host.Outcome State Fault Refusal :=
  .next { s with pins := { s.pins with guard := true } }

end Sys2Proof.Machine
end

