-- ==== Sys2Proof/Machine/Dispatch.lean ====
section
/-! DEFINITION. The dispatch of the commands: one arm per constructor of `Instr`, one direct call of its meaning each. -/

namespace Sys2Proof.Machine

/-- The effect of a command on everything but the queue. -/
def exec (i : Instr) (s : State) : Host.Outcome State Fault Refusal :=
  match i with
  | .reset => Sys2Proof.Machine.execReset s
  | .linkSelectFall l => Sys2Proof.Machine.execLinkSelectFall l s
  | .unknownCommand l code => Sys2Proof.Machine.execUnknownCommand l code s
  | .frameError l bytes partialBits => Sys2Proof.Machine.execFrameError l bytes partialBits s
  | .submitOrder l priority tag resolution length curve entries => Sys2Proof.Machine.execSubmitOrder l priority tag resolution length curve entries s
  | .addCaption l order chars => Sys2Proof.Machine.execAddCaption l order chars s
  | .amendPriority l order priority => Sys2Proof.Machine.execAmendPriority l order priority s
  | .withdrawOrder l order => Sys2Proof.Machine.execWithdrawOrder l order s
  | .mountConfirm l tag => Sys2Proof.Machine.execMountConfirm l tag s
  | .haltRound l => Sys2Proof.Machine.execHaltRound l s
  | .lineOut l channel => Sys2Proof.Machine.execLineOut l channel s
  | .lineIn l channel => Sys2Proof.Machine.execLineIn l channel s
  | .lineReset l channel => Sys2Proof.Machine.execLineReset l channel s
  | .markFaultCode l channel => Sys2Proof.Machine.execMarkFaultCode l channel s
  | .releaseReceipt l filing => Sys2Proof.Machine.execReleaseReceipt l filing s
  | .reprintSlip l filing => Sys2Proof.Machine.execReprintSlip l filing s
  | .ackNotice l kind => Sys2Proof.Machine.execAckNotice l kind s
  | .setNoticeMask l mask => Sys2Proof.Machine.execSetNoticeMask l mask s
  | .setClock l minute day => Sys2Proof.Machine.execSetClock l minute day s
  | .writeDirectory l index args => Sys2Proof.Machine.execWriteDirectory l index args s
  | .eraseDirectory l index => Sys2Proof.Machine.execEraseDirectory l index s
  | .writeCurve l index points => Sys2Proof.Machine.execWriteCurve l index points s
  | .writeSettings l args => Sys2Proof.Machine.execWriteSettings l args s
  | .setLock l => Sys2Proof.Machine.execSetLock l s
  | .clearLock l => Sys2Proof.Machine.execClearLock l s
  | .readResult l => Sys2Proof.Machine.execReadResult l s
  | .readStatus l => Sys2Proof.Machine.execReadStatus l s
  | .readQueue l => Sys2Proof.Machine.execReadQueue l s
  | .readOrder l order => Sys2Proof.Machine.execReadOrder l order s
  | .readDestination l order index => Sys2Proof.Machine.execReadDestination l order index s
  | .readChannel l channel => Sys2Proof.Machine.execReadChannel l channel s
  | .readReceipt l filing => Sys2Proof.Machine.execReadReceipt l filing s
  | .readNextReceipt l => Sys2Proof.Machine.execReadNextReceipt l s
  | .readDirectory l index => Sys2Proof.Machine.execReadDirectory l index s
  | .readCurve l index => Sys2Proof.Machine.execReadCurve l index s
  | .readSettings l => Sys2Proof.Machine.execReadSettings l s
  | .readNotice l => Sys2Proof.Machine.execReadNotice l s
  | .readClock l => Sys2Proof.Machine.execReadClock l s
  | .presenceFall l => Sys2Proof.Machine.execPresenceFall l s
  | .presenceRise l => Sys2Proof.Machine.execPresenceRise l s
  | .indexPulse time => Sys2Proof.Machine.execIndexPulse time s
  | .photocellReading value => Sys2Proof.Machine.execPhotocellReading value s
  | .coverOpen => Sys2Proof.Machine.execCoverOpen s
  | .coverClose => Sys2Proof.Machine.execCoverClose s
  | .clampOpen => Sys2Proof.Machine.execClampOpen s
  | .clampClose => Sys2Proof.Machine.execClampClose s
  | .homeSwitchClose => Sys2Proof.Machine.execHomeSwitchClose s
  | .guardFall => Sys2Proof.Machine.execGuardFall s
  | .guardRise => Sys2Proof.Machine.execGuardRise s
  | .carrierPresent c => Sys2Proof.Machine.execCarrierPresent c s
  | .carrierAbsent c => Sys2Proof.Machine.execCarrierAbsent c s
  | .prrdyReady => Sys2Proof.Machine.execPrrdyReady s
  | .paperAbsent => Sys2Proof.Machine.execPaperAbsent s
  | .paperPresent => Sys2Proof.Machine.execPaperPresent s
  | .station c code => Sys2Proof.Machine.execStation c code s
  | .phased c code => Sys2Proof.Machine.execPhased c code s
  | .retake c code line => Sys2Proof.Machine.execRetake c code line s
  | .hold c code => Sys2Proof.Machine.execHold c code s
  | .go c code => Sys2Proof.Machine.execGo c code s
  | .receipt c code received unrecovered grade picture => Sys2Proof.Machine.execReceipt c code received unrecovered grade picture s
  | .badCheck c => Sys2Proof.Machine.execBadCheck c s
  | .framingFailure c => Sys2Proof.Machine.execFramingFailure c s
  | .retryDelayExpiry order dest => Sys2Proof.Machine.execRetryDelayExpiry order dest s
  | .lockLimit => Sys2Proof.Machine.execLockLimit s
  | .idleStop => Sys2Proof.Machine.execIdleStop s
  | .coastStop => Sys2Proof.Machine.execCoastStop s
  | .returnLimit => Sys2Proof.Machine.execReturnLimit s
  | .dialSettleEnd c => Sys2Proof.Machine.execDialSettleEnd c s
  | .digitToneEnd c => Sys2Proof.Machine.execDigitToneEnd c s
  | .digitSilenceEnd c => Sys2Proof.Machine.execDigitSilenceEnd c s
  | .answerLimit c => Sys2Proof.Machine.execAnswerLimit c s
  | .announceLimit c => Sys2Proof.Machine.execAnnounceLimit c s
  | .carrierLossLimit c => Sys2Proof.Machine.execCarrierLossLimit c s
  | .receiptLimit c => Sys2Proof.Machine.execReceiptLimit c s
  | .cooldownExpiry c => Sys2Proof.Machine.execCooldownExpiry c s
  | .holdTimeout c => Sys2Proof.Machine.execHoldTimeout c s
  | .linePeriodStart c => Sys2Proof.Machine.execLinePeriodStart c s
  | .forwardFrameSent c => Sys2Proof.Machine.execForwardFrameSent c s
  | .stopSent c => Sys2Proof.Machine.execStopSent c s
  | .resendEnd c => Sys2Proof.Machine.execResendEnd c s
  | .releaseComplete c => Sys2Proof.Machine.execReleaseComplete c s
  | .storeCycleEnd => Sys2Proof.Machine.execStoreCycleEnd s
  | .clockSecond => Sys2Proof.Machine.execClockSecond s
  | .slipCharacterSent ready => Sys2Proof.Machine.execSlipCharacterSent ready s
  | .slipBegin ready => Sys2Proof.Machine.execSlipBegin ready s
  | .filingTransfer => Sys2Proof.Machine.execFilingTransfer s
  | .frameIgnored c code kind => Sys2Proof.Machine.execFrameIgnored c code kind s

end Sys2Proof.Machine
end

