-- ==== Sys2Proof/Machine/Tick.lean ====
section
/-! DEFINITION. What the part does of its own accord (log entry 2): which event of its own is due at a timebase count, and
how the timebase counts on while none is. The table has no row for a tick; `Step.lean` takes one where the queue is empty. -/

namespace Sys2Proof.Machine

/-- Whether a timer that has to count `length` µs has done so. -/
def timerDue (now : Nat) (t : Timer) (length : Nat) : Bool :=
  match t with
  | none => false
  | some t0 => decide (t0 + length ≤ now)

/-- A command if a condition holds. -/
def whenDue (b : Bool) (i : Instr) : Option Instr := if b then some i else none

/-- The event of a channel that is due: a frame that has left the line first, since a period start judges the line after it
(R123), then the line period, then the timers. -/
def dueOnChannel (s : State) (c : Chan) : Option Instr :=
  let ch := s.channels.get c
  let now := s.now
  let dialDue := fun (length : Nat) => timerDue now ch.stateTimer length
  (whenDue (match ch.onLine with
    | none => false
    | some f => decide (framesEnd ch [f] ≤ now)) (.forwardFrameSent c)) <|>
  (whenDue (ch.state == .release && framesOut ch == []) (.releaseComplete c)) <|>
  (whenDue (match ch.lineTimer with
    | none => false
    | some t => decide (t.start + t.begun * ch.linePeriod ≤ now)) (.linePeriodStart c)) <|>
  (match ch.state, ch.dial with
   | .dialling, .settle => whenDue (dialDue settleLength) (.dialSettleEnd c)
   | .dialling, .tone k => whenDue (dialDue (toneEnd k)) (.digitToneEnd c)
   | .dialling, .gap k => whenDue (dialDue (silenceEnd k)) (.digitSilenceEnd c)
   | .awaitAnswer, _ => whenDue (timerDue now ch.stateTimer answerLimitLength) (.answerLimit c)
   | .announce, _ => whenDue (timerDue now ch.stateTimer announceLimitLength) (.announceLimit c)
   | .awaitReceipt, _ => whenDue (timerDue now ch.stateTimer receiptLimitLength) (.receiptLimit c)
   | .cooldown, _ => whenDue (timerDue now ch.stateTimer cooldownLength) (.cooldownExpiry c)
   | .phased, _ => whenDue (timerDue now ch.hold holdLimitLength) (.holdTimeout c)
   | .picture, _ => whenDue (timerDue now ch.hold holdLimitLength) (.holdTimeout c)
   | _, _ => none) <|>
  (whenDue (readsBack ch.state && timerDue now ch.carrierTimer carrierLossLength) (.carrierLossLimit c))

/-- The event of the drum controller that is due. -/
def dueOnDrum (s : State) : Option Instr :=
  (whenDue (s.drum.state == .spinning && timerDue s.now s.drum.lockTimer lockLimitLength) .lockLimit) <|>
  (whenDue (timerDue s.now s.drum.idleTimer idleStopLength) .idleStop) <|>
  (whenDue (s.drum.state == .coasting && timerDue s.now s.drum.coastTimer coastStopLength) .coastStop) <|>
  (whenDue (s.head.state == .returning && timerDue s.now s.head.returnTimer returnLimitLength) .returnLimit)

/-- The event of the slip printer controller that is due. -/
def dueOnPrinter (s : State) : Option Instr :=
  match s.printer.state, s.printer.slip with
  | .ready, _ => whenDue (nextPending s).isSome (.slipBegin s.pins.printerReady)
  | .printing, some slip =>
    whenDue (decide (characterEnd s.printer slip.rate ≤ s.now)) (.slipCharacterSent s.pins.printerReady)
  | _, _ => none

/-- Whether a destination's retry delay has run out. -/
def retryDue (now : Nat) (d : Destination) : Bool :=
  match d.state, d.retryTimer with
  | .delayed, some t => decide (t.start + t.length ≤ now)
  | _, _ => false

/-- The first retry delay of the book that has run out. -/
def dueRetry (s : State) : Option Instr :=
  s.book.orders.findSome? fun o => (o.dests.findIdx? (retryDue s.now)).map fun i => .retryDelayExpiry o.number i

/-- The event of the store or the clock that is due. -/
def dueOnStore (s : State) : Option Instr :=
  (match s.store.cycle with
   | none => none
   | some c => whenDue (decide (c.start + cycleLength ≤ s.now)) .storeCycleEnd) <|>
  (match s.clock with
   | none => none
   | some c => whenDue (decide (c.since + clockSecondLength ≤ s.now)) .clockSecond)

/-- The event of its own that the part takes next, if one is due at this timebase count. -/
def dueCommand (s : State) : Option Instr :=
  (whenDue (canTransfer s) .filingTransfer) <|> dueOnPrinter s <|>
    (Chan.all.findSome? (dueOnChannel s)) <|> dueOnDrum s <|> dueRetry s <|> dueOnStore s

/-- The part left to itself for one step: the event that is due is taken into the queue, or the timebase counts one µs. -/
def tick (s : State) : State :=
  match dueCommand s with
  | some i => { s with pending := [i] }
  | none => { s with now := s.now + 1 }

/-- A command put at the front of the queue. -/
def pushFront (i : Instr) (s : State) : State := { s with pending := i :: s.pending }

end Sys2Proof.Machine
end

