-- ==== Sys2Proof/Machine/BackLine.lean ====
section
/-! DEFINITION. The data input of a back channel (spec/06 R112, spec/11 R185): each bit time moves the reception in progress, and in
the states that read the back channel it executes the rows it completes. The table has no row for a bit of it, so `step` meets
those rows only (log entry 36). -/

namespace Sys2Proof.Machine

/-- The reception of a channel replaced. -/
def setReception (c : Chan) (r : Reception) (s : State) : State := modChan c (fun ch => { ch with reception := r }) s

/-- Rows executed one after the other. -/
def execRows : List Instr → State → Host.Outcome State Fault Refusal
  | [], s => .next s
  | i :: rest, s =>
    match exec i s with
    | .next t => execRows rest t
    | .fault r => .fault r
    | .refused r => .refused r

/-- One bit time on a channel's back-channel data input (R112, R185): where the channel reads it, the rows it completes are executed,
and elsewhere every frame on it is discarded without effect. -/
def backLevel (c : Chan) (high : Bool) (s : State) : Host.Outcome State Fault Refusal :=
  let r := (s.channels.get c).reception
  if readsBack (s.channels.get c).state then execRows (levelRows c high r) (setReception c (receiveLevel high r) s)
  else .next (setReception c (discardFrame (receiveLevel high r)) s)

/-- Bit times on a back-channel data input, one after the other. -/
def backLevels (c : Chan) : List Bool → State → Host.Outcome State Fault Refusal
  | [], s => .next s
  | high :: rest, s =>
    match backLevel c high s with
    | .next t => backLevels c rest t
    | .fault r => .fault r
    | .refused r => .refused r

end Sys2Proof.Machine
end

