-- ==== Sys2Proof/Machine/LinkLines.lean ====
section
/-! DEFINITION. The lines of a link (spec/11 R174 to R176): how the bits that a master clocks in become a frame, at which of them
or at which rise of select the frame's row of the table is executed, and the bits of an answer on data out. The table has no row
for a bit or for the rise of select, so `step` meets their rows only (log entry 14). -/

namespace Sys2Proof.Machine

/-- A bit of data in sampled (R174, R175): an assembly that is IDLE takes none; otherwise it joins the partial byte, most significant
bit first, and the eighth completes the byte. A copy that has been taken is shifted out by one bit (R176). -/
def sampleBit (bit : Bool) : Assembly → Assembly
  | .idle => .idle
  | .receiving bytes bits answer position =>
    let next := if answer.isSome then position + 1 else position
    if bits.length < 7 then .receiving bytes (bits ++ [bit]) answer next
    else .receiving (bytes ++ [ofMsbFirst 8 (bits ++ [bit])]) [] answer next

/-- The read whose last argument byte, or command byte where it has no arguments, has just been sampled: its copy is taken now
(R176). -/
def copyDue (l : Link) : Assembly → Option Instr
  | .receiving (code :: args) [] none _ =>
    match shapeOf code with
    | none => none
    | some sh => if sh.read ∧ argsNeeded sh.size args = some args.length then commandOf l code args else none
  | _ => none

/-- The row that the rise of select executes (R175): none for a frame without a bit, and none once a copy has been taken (R176). -/
def frameEnded (l : Link) : Assembly → Option Instr
  | .receiving bytes bits none _ => frameRow l bytes bits.length
  | .receiving _ _ (some _) _ => none
  | .idle => none

/-- A row executed, if there is one. -/
def execRow (row : Option Instr) (s : State) : Host.Outcome State Fault Refusal :=
  match row with
  | none => .next s
  | some i => exec i s

/-- One event on the lines of a link (R175): the fall of select begins a frame, a clocked bit joins it and may complete a read's
arguments, and the rise of select returns the assembly to IDLE and executes the write-type frame. -/
def linkEvent (l : Link) (e : LinkEvent) (s : State) : Host.Outcome State Fault Refusal :=
  let a := (s.links.get l).assembly
  match e with
  | .selectFall => exec (.linkSelectFall l) s
  | .clock bit => execRow (copyDue l (sampleBit bit a)) (setAssembly l (sampleBit bit a) s)
  | .selectRise => execRow (frameEnded l a) (setAssembly l .idle s)

/-- Events on the lines of a link, one after the other. -/
def linkEvents (l : Link) : List LinkEvent → State → Host.Outcome State Fault Refusal
  | [], s => .next s
  | e :: rest, s =>
    match linkEvent l e s with
    | .next t => linkEvents l rest t
    | .fault r => .fault r
    | .refused r => .refused r

/-- The clocked bits of some whole bytes and of a partial byte after them (R175). -/
def clocked (bytes : List Byte) (bits : List Bool) : List LinkEvent := (bytes.flatMap msbFirst ++ bits).map .clock

/-- The level of data out at the next rising edge of the shift clock (R176): the bit of the copy at the answer position, each byte
most significant bit first; zero while no copy is taken and once the copy has been shifted out. -/
def dataOutBit : Assembly → Bool
  | .receiving bytes bits answer position =>
    (dataOutByte (.receiving bytes bits answer position) (position / 8)).getLsbD (7 - position % 8)
  | .idle => false

end Sys2Proof.Machine
end

