-- ==== Sys2Proof/Safety.lean ====
section
/-! DEFINITION. What a safe state of the part is: the statements of spec/ that hold of the part as a whole, in the terms the
claims use. -/

namespace Sys2Proof.Machine

/-- The attention output of each link follows its notice set and mask (R179). -/
def AttentionAgrees (s : State) : Prop := ∀ l : Link, (s.links.get l).attention = attentionOf (s.links.get l)

/-- The line store holds at most 64 lines, no two of one number, each marked by some channel (R83, R93). -/
def StoreCanonical (s : State) : Prop := s.lineStore.wf = true

/-- The order book holds at most 16 orders and the receipt log at most 32 records (1.1, R145). -/
def TablesBounded (s : State) : Prop := s.book.orders.length ≤ 16 ∧ s.log.length ≤ 32

/-- No two orders of the book share a number (R2). -/
def OrdersDistinct (s : State) : Prop := (s.book.orders.map Order.number).Nodup

/-- No two records of the log share a filing number (R145). -/
def RecordsDistinct (s : State) : Prop := (s.log.map Receipt.filing).Nodup

/-- The target class is present in SPINNING and LOCKED and absent in STOPPED and COASTING; the drive value is 0 to 1023; in
STOPPED the last-pulse time and the measured period are absent (R47, R50). -/
def DrumCoherent (s : State) : Prop :=
  s.drum.target.isSome = turning s.drum ∧ s.drum.drive ≤ 1023 ∧
    (s.drum.state = .stopped → s.drum.lastPulse = none ∧ s.drum.period = none)

/-- A slip is in progress exactly while the printer state is PRINTING or WAITING (R154). -/
def SlipCoherent (s : State) : Prop :=
  s.printer.slip.isSome = (s.printer.state == .printing || s.printer.state == .waiting)

/-- A channel is off hook only from the start of DIALLING to the end of RELEASE (R101). -/
def HookCoherent (s : State) : Prop :=
  ∀ c : Chan, (s.channels.get c).hook = .offHook →
    inCall (s.channels.get c).state = true ∨ (s.channels.get c).state = .release

/-- The line of a retake entry. -/
def RetakeEntry.line : RetakeEntry → Nat
  | .resend l => l
  | .skip l => l

/-- A retake queue holds at most 6 entries, at most one for any line number (R133). -/
def QueuesBounded (s : State) : Prop :=
  ∀ c : Chan, (s.channels.get c).queue.length ≤ 6 ∧ ((s.channels.get c).queue.map RetakeEntry.line).Nodup

/-- The model's scratch flag is clear between steps (log entry 17). -/
def StepDone (s : State) : Prop := s.selectDue = false

/-! ### Frames -/

/-- The parts of the state, one for each field of `State`. -/
inductive Part where
  | now
  | links
  | book
  | filing
  | nextFiling
  | round
  | drum
  | head
  | mount
  | converter
  | lineStore
  | channels
  | log
  | printer
  | store
  | clock
  | pins
  | selectDue
  | free
  | pending
  deriving DecidableEq, Repr

/-- Whether two states agree in a part. -/
def Part.same (p : Part) (s t : State) : Prop :=
  match p with
  | .now => t.now = s.now
  | .links => t.links = s.links
  | .book => t.book = s.book
  | .filing => t.filing = s.filing
  | .nextFiling => t.nextFiling = s.nextFiling
  | .round => t.round = s.round
  | .drum => t.drum = s.drum
  | .head => t.head = s.head
  | .mount => t.mount = s.mount
  | .converter => t.converter = s.converter
  | .lineStore => t.lineStore = s.lineStore
  | .channels => t.channels = s.channels
  | .log => t.log = s.log
  | .printer => t.printer = s.printer
  | .store => t.store = s.store
  | .clock => t.clock = s.clock
  | .pins => t.pins = s.pins
  | .selectDue => t.selectDue = s.selectDue
  | .free => t.free = s.free
  | .pending => t.pending = s.pending

/-- From `s` to `t` nothing changes but the parts listed: every other field is as it was. -/
def Moves (ps : List Part) (s t : State) : Prop := ∀ p : Part, p ∉ ps → p.same s t

/-- From `s` to `t` no channel changes but `c`. -/
def OnlyChannel (c : Chan) (s t : State) : Prop := ∀ d : Chan, d ≠ c → t.channels.get d = s.channels.get d

/-- From `s` to `t` no link changes but `l`. -/
def OnlyLink (l : Link) (s t : State) : Prop := ∀ k : Link, k ≠ l → t.links.get k = s.links.get k

/-- Link `l` after a write-type frame (R175, R177): the assembly IDLE and the result record replaced, its notices, mask and
attention as they were, and the other link as it was. -/
def Posted (l : Link) (command : Byte) (code : ResultCode) (value : Nat) (s t : State) : Prop :=
  t.links.get l =
      { s.links.get l with assembly := .idle, result := { command := command, code := code, value := value } } ∧
    OnlyLink l s t

/-- A read-type command takes `answer` as its copy (R176): the assembly holds the frame's bytes and the copy, the result record,
notices, mask and attention stay, the other link stays, and no part but those listed changes. -/
def AnswersWith (ps : List Part) (i : Instr) (l : Link) (bytes answer : List Byte) (s : State) : Prop :=
  ∃ t, exec i s = .next t ∧
    t.links.get l = { s.links.get l with assembly := .receiving bytes [] (some answer) 0 } ∧ OnlyLink l s t ∧
      Moves ps s t

/-- A write-type command refused (R177): the result record is all that changes. -/
def RefusedWith (i : Instr) (l : Link) (command : Byte) (code : ResultCode) (s : State) : Prop :=
  ∃ t, exec i s = .next t ∧ Posted l command code 0 s t ∧ Moves [.links] s t

/-- The forward line of a channel whose call ended at `now` in the state `ch` (R116): from CAPTION to STOPPING the frame on the line is
completed and ABORT and STOP follow it back to back; in every other state no frame is left. -/
def ClosingFramesFollow (s : State) (now : Nat) (ch u : Channel) : Prop :=
  (owesClosing ch.state = false → u.onLine = none ∧ u.owed = []) ∧
  (owesClosing ch.state = true → ∀ k o, ch.call = some k → findOrder s k.order = some o →
    match ch.onLine with
    | some f => u.onLine = some f ∧ u.owed = [.abort k.order, .stop k.order o.lines] ∧ u.runStart = ch.runStart ∧
        u.runBytes = ch.runBytes
    | none => u.onLine = some (.abort k.order) ∧ u.owed = [.stop k.order o.lines] ∧ u.runStart = now ∧ u.runBytes = 0)

/-- The frame in progress on a back channel is discarded, from `r` to `q` (R112): its bytes are gone, and no byte begins a frame before
the next idle of ten bit times; an idle line is left as it is. -/
def FrameDiscarded (r q : Reception) : Prop :=
  q.idle = r.idle ∧ q.byte = r.byte ∧ q.run = if r.run = some [] ∧ r.byte = none then some [] else none

/-- From `s` to `t` no order changes but the one numbered `n`, none comes or goes, and the two counts of R2 stay. -/
def OnlyOrder (n : Nat) (s t : State) : Prop :=
  t.book.orders.map Order.number = s.book.orders.map Order.number ∧ t.book.nextNumber = s.book.nextNumber ∧
    t.book.sequence = s.book.sequence ∧ ∀ m, m ≠ n → findOrder t m = findOrder s m

/-- From `s` to `b` the book and the queue of references change only for the destination that the channel's call serves (R18, R118): the
other destinations of its order read as before, and the order keeps every other field, but goes to FILING where that makes all
of them FINAL (R24). -/
def OnlyCalledDest (c : Chan) (s b : State) : Prop :=
  ((s.channels.get c).call = none → b.book = s.book ∧ b.filing = s.filing) ∧
    ∀ k, (s.channels.get c).call = some k → OnlyOrder k.order s b ∧
      (b.filing = s.filing ∨ b.filing = s.filing ++ [{ order := k.order, dest := k.dest, channel := some c }]) ∧
      ∀ o, findOrder s k.order = some o → ∃ x, findOrder b k.order = some x ∧
        x = { o with state := x.state, dests := x.dests } ∧ x.dests.length = o.dests.length ∧
        (∀ j, j ≠ k.dest → x.dests[j]? = o.dests[j]?) ∧
        (x.state = o.state ∨ (x.state = .filing ∧ o.state ≠ .withdrawing ∧ ∀ y ∈ x.dests, y.state = .final))

/-- The order numbered `n` is not a WITHDRAWING order whose round is open in `s`: only such an order changes as its round closes (R37). -/
def NotAbandoned (s : State) (n : Nat) : Prop := s.round.order = some n → ∀ o, findOrder s n = some o → o.state ≠ .withdrawing

/-- The channel part of the end of a call, from `s` to `u` (R115, R116, R129): RELEASE with the ending, every timer stopped, the
retake queue empty and the hold cleared, the hook, the call and the service flag as they were, the closing frames owed, and the
channel no member of the round; where it was one, the line store holds no mark of it (R33, R92). A back-channel frame whose last
byte has not arrived is discarded (R112). In the book only the destination it served changes, and of the channels only it (R18,
R118), before the round is left: `leaveRound` is what then becomes of the round, the head, the drum, the mount, the line store
and a WITHDRAWING order (R33, R35 to R37; `Obligations.LastMemberLeavingEndsTheScan`, with log entry 25); every other order stays. -/
def CallEnded (c : Chan) (ending : CallEnding) (s u : State) : Prop :=
  (u.channels.get c).state = .release ∧ (u.channels.get c).ending = some ending ∧
    (u.channels.get c).stateTimer = none ∧ (u.channels.get c).lineTimer = none ∧
    (u.channels.get c).carrierTimer = none ∧ (u.channels.get c).hold = none ∧ (u.channels.get c).queue = [] ∧
    (u.channels.get c).stopping = 0 ∧ (u.channels.get c).hook = (s.channels.get c).hook ∧
    (u.channels.get c).call = (s.channels.get c).call ∧ (u.channels.get c).service = (s.channels.get c).service ∧
    ClosingFramesFollow s u.now (s.channels.get c) (u.channels.get c) ∧ u.round.members.get c = none ∧
    (s.round.members.get c ≠ none → ∀ m, askLine c m u.lineStore = none) ∧
    FrameDiscarded (s.channels.get c).reception (u.channels.get c).reception ∧
    ∃ b, Moves [.now, .links, .book, .filing, .channels, .selectDue] s b ∧ OnlyChannel c s b ∧ OnlyCalledDest c s b ∧
      Moves [.channels] (leaveRound c b) u ∧ u.filing = b.filing ∧ ∀ n, NotAbandoned s n → findOrder u n = findOrder b n

/-- A step that stops the part: no command does, in any state (NOTES.md, Stops). -/
def Stops (o : Host.Outcome State Fault Refusal) : Prop := ∀ t : State, o ≠ .next t

/-! ### Orders and calls -/

/-- `n` is `start`, or the first number after it that is not in use, counting upward and passing from `limit` to 1 (R2, R23). -/
def FirstFree (limit start : Nat) (used : List Nat) (n : Nat) : Prop :=
  ∃ j, n = (start - 1 + j) % limit + 1 ∧ n ∉ used ∧ ∀ i, i < j → (start - 1 + i) % limit + 1 ∈ used

/-- The geometry of R6 and the curve index of R8 check 4, for a drum diameter `d`. -/
def GeometryAdmitted (d r length curve : Nat) : Prop :=
  50 ≤ r ∧ r ≤ 200 ∧ 100 ≤ length ∧ length ≤ 1200 ∧ 200 ≤ d * r * 355 / 11300 ∧ d * r * 355 / 11300 ≤ 2400 ∧
    1 ≤ length * r / 100 ∧ length * r / 100 ≤ 2400 ∧ curve ≤ 3

/-- The destination list of R8 check 5. -/
def ListAdmitted (st : Store) (entries : List Byte) : Prop :=
  1 ≤ entries.length ∧ entries.length ≤ 12 ∧ entries.Nodup ∧
    ∀ e ∈ entries, e.toNat ≤ 23 ∧ ∃ x, readEntry st e.toNat = .valid x

/-- The compatibility of R7, with its fit check in bits per receiver revolution. -/
def EntryTakes (st : Store) (ioc samples : Nat) (e : Byte) : Prop :=
  ∃ x, readEntry st e.toNat = .valid x ∧ x.iocLow ≤ ioc ∧ ioc ≤ x.iocHigh ∧
    (samples + 10 * ceilDiv samples x.segment.size) * 8 ≤ x.rate.bits * 60 / x.lpm.lpm

/-- A destination as admission sets it up (R3). -/
def NewDestination (entry : Nat) (d : Destination) : Prop :=
  d.entry = entry ∧ d.state = .ready ∧ d.attempts = 0 ∧ d.retryTimer = none ∧ d.outcome = none ∧ d.exhausted = false ∧
    d.channel = none ∧ d.filed = false ∧ d.station = none ∧ d.startTime = none ∧ d.endTime = none ∧ d.sent = 0 ∧
    d.resent = 0 ∧ d.skipped = 0 ∧ d.report = none

/-- A member channel that the abort procedure releases (R38, R116): its call ends RELEASED with no outcome; before CAPTION and in
AWAIT RECEIPT nothing more is sent, otherwise the frame on the line is ended and ABORT and STOP follow. -/
def ReleasedMember (s : State) (ch u : Channel) : Prop :=
  u.state = .release ∧ u.ending = some .released ∧ u.stateTimer = none ∧ u.lineTimer = none ∧ u.carrierTimer = none ∧
    u.queue = [] ∧ u.hold = none ∧ u.stopping = 0 ∧ u.hook = ch.hook ∧ u.call = ch.call ∧ u.service = ch.service ∧
    u.trouble = ch.trouble ∧ u.caution = ch.caution ∧ u.fault = ch.fault ∧ u.sent = ch.sent ∧ u.resent = ch.resent ∧
    u.skipped = ch.skipped ∧ u.refused = ch.refused ∧
    ClosingFramesFollow s s.now ch u ∧ FrameDiscarded ch.reception u.reception

/-- A head commanded home (R59): at once where the home switch shows closed, otherwise RETURNING with its timer from zero. -/
def HeadCommandedHome (s t : State) : Prop :=
  if s.pins.home then t.head.state = .home ∧ t.head.position = 0 ∧ t.head.returnTimer = none
  else t.head.state = .returning ∧ t.head.position = s.head.position ∧ t.head.returnTimer = some s.now

/-- The abort procedure closes the round at once (R36, R38, R39): in ASSEMBLING, and where the head is at rest in HOME or FAULT when the
members have gone, the home switch completing a return at its command (R59). -/
def ClosesAtOnce (s : State) : Prop :=
  s.round.state = .assembling ∨ (s.round.state = .draining ∧ s.head.state = .home) ∨
    ((s.round.state = .scanning ∨ s.round.state = .draining) ∧
      (s.head.state = .fault ∨ (s.head.state = .scanning ∧ s.pins.home = true))) ∨
    (s.round.state = .scanning ∧ s.head.state = .home ∧ s.pins.home = true)

/-- What the abort procedure does to the members, their marks, the line store, the round and the head (R38, R39, R92). -/
def Aborted (s t : State) : Prop :=
  (∀ c, t.round.members.get c = none) ∧
  (∀ c, s.round.members.get c = none → t.channels.get c = s.channels.get c) ∧
  (∀ c, s.round.members.get c ≠ none →
    ReleasedMember s (s.channels.get c) (t.channels.get c) ∧ ∀ m, askLine c m t.lineStore = none) ∧
  t.lineStore.depth = s.lineStore.depth ∧ t.head.held = s.head.held ∧
  (s.round.state = .scanning ∨ s.round.state = .draining → t.lineStore.held = []) ∧
  (ClosesAtOnce s → t.round = Round.none) ∧
  match s.round.state with
  | .closed => True
  | .assembling => s.head.state ≠ .fault → t.head = s.head
  | .scanning =>
    s.head.state = .scanning → HeadCommandedHome s t ∧
      (s.pins.home = false → t.round.state = .draining ∧ t.round.scanComplete = s.round.scanComplete)
  | .draining =>
    (s.head.state = .scanning → HeadCommandedHome s t ∧ (s.pins.home = false → t.round.state = .draining)) ∧
      (s.head.state = .returning → t.head = s.head ∧ t.round.state = .draining) ∧
      (s.head.state = .home → t.head = s.head)

/-- A member of the round serves destination `i` of order `n`, which is ASSIGNED or SENDING (R21). -/
def ServedByMember (s : State) (n i : Nat) (d : Destination) : Prop :=
  s.round.order = some n ∧ (∃ c, s.round.members.get c = some i) ∧ (d.state = .assigned ∨ d.state = .sending)

/-- The destinations that the members of the round served are READY again, no attempt counted (R21); every other destination reads as
before, no order comes or goes, and each keeps every field but its state, but for the WITHDRAWING order of a round. -/
def MembersReturned (s t : State) : Prop :=
  ∀ n, NotAbandoned s n →
    (findOrder s n = none → findOrder t n = none) ∧
    ∀ o, findOrder s n = some o → ∃ x, findOrder t n = some x ∧ x = { o with state := x.state, dests := x.dests } ∧
      x.dests.length = o.dests.length ∧
      ∀ i d, o.dests[i]? = some d →
        (ServedByMember s n i d → x.dests[i]? = some { d with state := .ready, channel := none }) ∧
        (¬ ServedByMember s n i d → x.dests[i]? = some d)

/-- From `s` to `t` no order comes or goes and each keeps its state. -/
def OrdersKeepState (s t : State) : Prop := ∀ n, (findOrder t n).map Order.state = (findOrder s n).map Order.state

/-- A notice is present in both links' sets with its detail (R178). -/
def NoticedToBoth (n : Notice) (t : State) : Prop := ∀ l : Link, (t.links.get l).notices.get n.kind = some n

/-- A withdrawn order outside an open round, from `s` to `u` (R12, R13, R24): every destination FINAL and the order in FILING while a
reference of it is queued, otherwise gone with ORDER DONE; the other orders stay. -/
def WithdrawnOrderLeaves (n : Nat) (o : Order) (s u : State) : Prop :=
  (∀ m, m ≠ n → findOrder u m = findOrder s m) ∧
    ((∃ r ∈ u.filing, r.order = n) →
      findOrder u n = some { o with state := .filing, dests := o.dests.map (withdrawDest s) }) ∧
    ((∀ r ∈ u.filing, r.order ≠ n) → findOrder u n = none ∧ NoticedToBoth (.orderDone n) u)

/-- The drive is cut where the drum turns (R48). -/
def DriveCut (s t : State) : Prop :=
  if s.drum.state = .spinning ∨ s.drum.state = .locked then
    t.drum = { s.drum with state := .coasting, target := none, lockTimer := none, idleTimer := none,
                           coastTimer := some s.now }
  else t.drum = s.drum

/-- The parts that the end of a call may change (R115, R18, R24, R33). -/
abbrev callEndParts : List Part :=
  [.links, .book, .filing, .round, .drum, .head, .mount, .converter, .lineStore, .channels, .selectDue]

/-- Where the scheduler places the destination of a call that ended with an outcome, from `s` to `u` (R18, R19): the attempt counted and
the channel removed; DELAYED with its retry delay running from that moment while the outcome is retryable and the allowance
lasts, otherwise FINAL with a filing reference. The order's other destinations stay, and it goes to FILING where that makes all of them
FINAL (R24). -/
def DestinationPlaced (c : Chan) (oc : CallOutcome) (s u : State) : Prop :=
  ∀ k o d, (s.channels.get c).call = some k → findOrder s k.order = some o → o.dests[k.dest]? = some d →
    d.state = .sending → d.channel = some c → o.state ≠ .withdrawing →
    ∃ x, findDest u k.order k.dest = some x ∧ x.entry = d.entry ∧ x.attempts = d.attempts + 1 ∧ x.channel = none ∧
      findOrder u k.order =
        some { o with dests := o.dests.set k.dest x,
                      state := if ∀ y ∈ o.dests.set k.dest x, y.state = .final then .filing else o.state } ∧
      ((retryable oc = true ∧ ∃ e, readEntry s.store d.entry = .valid e ∧ d.attempts < e.retries) →
        x.state = .delayed ∧ u.filing = s.filing ∧
        x.retryTimer = some { start := u.now, length := (readSettings s.store).retryDelay * 1000000 }) ∧
      (¬ (retryable oc = true ∧ ∃ e, readEntry s.store d.entry = .valid e ∧ d.attempts < e.retries) →
        x.state = .final ∧ x.outcome = some oc ∧ x.exhausted = retryable oc ∧
        u.filing = s.filing ++ [{ order := k.order, dest := k.dest, channel := some c }])

/-- The round becomes CLOSED, from `s` to `u` (R37, R55): its record is cleared. A turning drum's idle timer starts from zero; for a
WITHDRAWING order the print in MOUNTED is asked off, the drive is cut, and the order goes to FILING, or leaves the book with
ORDER DONE where none of its references is queued. Every other order stays. -/
def RoundClosed (s u : State) : Prop :=
  u.round = Round.none ∧ u.selectDue = true ∧
    ((∀ n o, s.round.order = some n → findOrder s n = some o → o.state ≠ .withdrawing) →
      u.mount = s.mount ∧ u.book = s.book ∧
      u.drum = (if s.drum.state = .spinning ∨ s.drum.state = .locked then { s.drum with idleTimer := some s.now }
        else s.drum)) ∧
    (∀ n, NotAbandoned s n → findOrder u n = findOrder s n) ∧
    ∀ n o, s.round.order = some n → findOrder s n = some o → o.state = .withdrawing →
      (∀ tag, s.mount = .mounted tag →
        u.mount = .unmountRequested tag ∧ DriveCut s u ∧ NoticedToBoth (.mountRequest .unmount tag none) u) ∧
      ((∀ tag, s.mount ≠ .mounted tag) → u.mount = s.mount ∧
        u.drum = (if s.drum.state = .spinning ∨ s.drum.state = .locked then { s.drum with idleTimer := some s.now }
          else s.drum)) ∧
      ((∃ r ∈ s.filing, r.order = n) → findOrder u n = some { o with state := .filing }) ∧
      ((∀ r ∈ s.filing, r.order ≠ n) → findOrder u n = none ∧ NoticedToBoth (.orderDone n) u)

/-- An order that may be chosen (R16 step 1): in WAITING, MOUNT REQUESTED or ON DRUM, with a READY destination. -/
def Candidate (o : Order) : Prop :=
  (o.state = .waiting ∨ o.state = .mountRequested ∨ o.state = .onDrum) ∧ ∃ d ∈ o.dests, d.state = .ready

/-- Destination `i` of the walk fails the recheck (R28, R30): some channel is not taken by one before it, and its entry is EMPTY or
DAMAGED (log entry 10), or VALID with an IDLE channel that none before it has taken: the one it is LEASED on, configured otherwise
or the entry incompatible, or one configured DIALLED for a dialled entry that is incompatible. -/
def FailsRecheck (s : State) (o : Order) (w : Walk) (i : Nat) (d : Destination) : Prop :=
  (∃ c, ∀ j, j < i → w.members.get c ≠ some j) ∧
    ((∀ e, readEntry s.store d.entry ≠ .valid e) ∨
      ∃ e c, readEntry s.store d.entry = .valid e ∧ (s.channels.get c).state = .idle ∧
        (∀ j, j < i → w.members.get c ≠ some j) ∧
        ((e.kind = .leased c ∧
            ((readSettings s.store).config.get c ≠ .leased d.entry ∨ compatible o.ioc o.samples e = false)) ∨
          (e.kind = .dialled ∧ (readSettings s.store).config.get c = .dialled ∧ compatible o.ioc o.samples e = false)))

/-- A destination that the walk passes over (R28): destinations before it have taken four channels, or every channel that could serve it
is not IDLE or taken by one before it. -/
def PassedOver (s : State) (w : Walk) (i : Nat) (d : Destination) : Prop :=
  (∀ c, ∃ j, j < i ∧ w.members.get c = some j) ∨
    ∃ e, readEntry s.store d.entry = .valid e ∧
      ∀ c, (e.kind = .leased c ∨ e.kind = .dialled ∧ (readSettings s.store).config.get c = .dialled) →
        (s.channels.get c).state ≠ .idle ∨ ∃ j, j < i ∧ w.members.get c = some j

/-- The destination of a member's call that has begun (R3, R29, R31): SENDING on its channel, its latest details gone. -/
def SendingOn (c : Chan) (s : State) (d x : Destination) : Prop :=
  x = { d with state := .sending, channel := some c, station := none, endTime := none, report := none, sent := 0, resent := 0,
               skipped := 0, startTime := s.clock.map (fun k => { minute := k.minute, day := k.day }) }

/-- The destination that failed the recheck (R30): FINAL with INCOMPATIBLE, no attempt counted. -/
def MadeIncompatible (s : State) (d x : Destination) : Prop :=
  x = { d with state := .final, outcome := some .incompatible,
               endTime := s.clock.map (fun k => { minute := k.minute, day := k.day }) }

/-! ### The fields of the answers (R184)

Each answer as the list of its fields, a field being its width in bytes and the number it carries. -/

/-- The bytes of some fields, each high byte first. -/
def fieldBytes (fs : List (Nat × Nat)) : List Byte := fs.flatMap fun f => be f.1 f.2

/-- A flag or a level: 0 or 1. -/
def flagNumber (b : Bool) : Nat := if b then 1 else 0

/-- An optional field of one number: its presence, then its full width. -/
def optField (width : Nat) (v : Option Nat) : List (Nat × Nat) := [(1, flagNumber v.isSome), (width, v.getD 0)]

/-- `n` bytes of zeros. -/
def zeroFields (n : Nat) : List (Nat × Nat) := List.replicate n (1, 0)

/-- A character list: its count, and its full width filled with 0x20. -/
def charFields (width : Nat) (cs : List Byte) : List (Nat × Nat) :=
  (1, cs.length) :: (cs.map (fun b => (1, b.toNat)) ++ List.replicate (width - cs.length) (1, 0x20))

/-- A timer: running, and the whole milliseconds it has counted. -/
def timerFields (now : Nat) (t : Timer) : List (Nat × Nat) :=
  [(1, flagNumber t.isSome), (4, (t.map fun t0 => (now - t0) / 1000).getD 0)]

/-- A time of day: minute and day count. -/
def timeFields (t : Option TimeOfDay) : List (Nat × Nat) :=
  [(1, flagNumber t.isSome), (2, (t.map TimeOfDay.minute).getD 0), (2, (t.map TimeOfDay.day).getD 0)]

/-- A receiver report: received, unrecovered, grade, picture number. -/
def reportFields (r : Option Report) : List (Nat × Nat) :=
  [(1, flagNumber r.isSome), (2, (r.map Report.received).getD 0), (2, (r.map Report.unrecovered).getD 0),
   (1, (r.map Report.grade).getD 0), (2, (r.map Report.picture).getD 0)]

/-- A mount state byte and its tag, zeros in EMPTY. -/
def mountFields : Mount → List (Nat × Nat)
  | .empty => [(1, 0), (3, 0)]
  | .requested t => [(1, 1), (3, t)]
  | .mounted t => [(1, 2), (3, t)]
  | .unmountRequested t => [(1, 3), (3, t)]

/-- READ STATUS: the round, zeros after its state in CLOSED. -/
def roundFields (r : Round) : List (Nat × Nat) :=
  if r.state = .closed then (1, 0) :: zeroFields 10
  else
    [(1, r.state.number)] ++ optField 2 r.order ++ optField 1 (r.drumClass.map LpmClass.lpm) ++
      Chan.all.map (fun c => (1, (r.members.get c).getD 0xFF)) ++ [(1, flagNumber r.scanComplete)]

/-- READ STATUS; `ready` is the PRRDY level shown. -/
def statusFields (s : State) (ready : Bool) : List (Nat × Nat) :=
  roundFields s.round ++
  [(1, s.drum.state.number)] ++ optField 1 (s.drum.target.map LpmClass.lpm) ++ [(2, s.drum.drive)] ++ optField 3 s.drum.period ++
  [(1, s.drum.lockCount), (1, flagNumber s.pins.cover), (1, flagNumber s.pins.clamp), (1, flagNumber s.pins.home)] ++
  mountFields s.mount ++
  [(2, s.head.position), (1, s.head.state.number), (2, s.head.held)] ++
  [(1, s.converter.lamp.number), (1, s.converter.invalidCount),
   (1, flagNumber s.converter.pair.isSome), (2, (s.converter.pair.map ReferencePair.white).getD 0),
   (2, (s.converter.pair.map ReferencePair.black).getD 0),
   (1, flagNumber s.converter.latest.isSome), (2, (s.converter.latest.map LatestReference.white).getD 0),
   (2, (s.converter.latest.map LatestReference.black).getD 0),
   (1, flagNumber ((s.converter.latest.map LatestReference.valid).getD false))] ++
  optField 1 (s.converter.curve.map WorkingCurve.index) ++ [(2, s.converter.invalidTotal)] ++
  [(1, s.lineStore.held.length)] ++ optField 2 (s.lineStore.held.head?.map HeldLine.number) ++
  optField 2 (s.lineStore.held.getLast?.map HeldLine.number) ++ optField 1 s.lineStore.depth ++
  [(1, s.printer.state.number)] ++ optField 2 (s.printer.slip.map Slip.filing) ++
  [(2, s.printer.position), (2, (s.printer.slip.map fun x => x.text.length).getD 0), (1, flagNumber s.printer.disablePending),
   (1, flagNumber ready), (1, flagNumber s.pins.paper), (1, (s.log.filter fun r => r.slip == .pending).length)]

/-- READ QUEUE: one place. -/
def queueFields (o : Order) : List (Nat × Nat) :=
  [(2, o.number), (1, o.priority.rank), (1, o.state.number), (3, o.tag), (1, (o.dests.filter fun d => d.state == .ready).length)]

/-- READ ORDER for an order in the book; `unlisted` are the entry-index bytes beyond the count. -/
def orderFields (o : Order) (unlisted : List Byte) : List (Nat × Nat) :=
  [(1, 1), (2, o.number), (1, linkNumber o.origin), (4, o.sequence), (1, o.priority.rank), (3, o.tag), (1, o.resolution),
   (2, o.length), (2, o.ioc), (2, o.samples), (2, o.lines), (1, o.curve)] ++ charFields 240 o.caption ++
  [(1, o.state.number), (1, o.dests.length)] ++ o.dests.map (fun d => (1, d.entry)) ++
  unlisted.map (fun b => (1, b.toNat)) ++ [(1, flagNumber o.attempted)]

/-- READ DESTINATION for a destination in the book. -/
def destinationFields (now : Nat) (d : Destination) : List (Nat × Nat) :=
  [(1, 1), (1, d.entry), (1, d.state.number), (1, d.attempts)] ++ timerFields now (d.retryTimer.map RetryTimer.start) ++
  optField 1 (d.outcome.map CallOutcome.number) ++ [(1, flagNumber d.exhausted)] ++ optField 1 (d.channel.map Chan.number) ++
  [(1, flagNumber d.filed)] ++ optField 2 (d.station.map BitVec.toNat) ++ timeFields d.startTime ++ timeFields d.endTime ++
  [(2, d.sent), (2, d.resent), (2, d.skipped)] ++ reportFields d.report

/-- A retake entry: RESEND 0 or SKIP 1, and its line. -/
def retakeFields : RetakeEntry → List (Nat × Nat)
  | .resend l => [(1, 0), (2, l)]
  | .skip l => [(1, 1), (2, l)]

/-- READ CHANNEL for a channel; `marked` are the numbers of the lines it marks, in rising order. -/
def channelFields (now : Nat) (ch : Channel) (carrier : Bool) (marked : List Nat) : List (Nat × Nat) :=
  [(1, 1), (1, ch.state.number), (1, ch.service.number),
   (1, flagNumber ch.call.isSome), (2, (ch.call.map Call.order).getD 0), (1, (ch.call.map Call.dest).getD 0),
   (1, (ch.call.map Call.entryIndex).getD 0)] ++
  optField 2 (ch.station.map BitVec.toNat) ++ optField 1 (ch.ending.map CallEnding.number) ++ timerFields now ch.stateTimer ++
  [(1, ch.phaseCount)] ++ timerFields now (ch.lineTimer.map LineTimer.start) ++ [(3, ch.linePeriod)] ++
  timerFields now ch.carrierTimer ++ [(1, ch.hook.number), (1, flagNumber carrier), (1, marked.length)] ++
  optField 2 marked.head? ++ [(2, ch.sendPosition), (1, ch.queue.length)] ++ ch.queue.flatMap retakeFields ++
  zeroFields (3 * (6 - ch.queue.length)) ++ [(1, flagNumber ch.hold.isNone)] ++ timerFields now ch.hold ++
  [(1, ch.stopping), (1, ch.trouble), (1, ch.caution.number), (1, ch.fault.number), (2, ch.sent), (2, ch.resent),
   (2, ch.skipped), (2, ch.refused)]

/-- A receipt record, as READ RECEIPT and READ NEXT RECEIPT carry it. -/
def receiptFields (r : Receipt) : List (Nat × Nat) :=
  [(2, r.filing), (2, r.order), (3, r.tag), (1, r.priority.rank), (1, r.entry)] ++ charFields 16 r.name ++
  optField 2 (r.station.map BitVec.toNat) ++ optField 1 (r.channel.map Chan.number) ++
  [(1, r.outcome.number), (1, r.attempts), (1, flagNumber r.exhausted)] ++ timeFields r.startTime ++ timeFields r.endTime ++
  [(2, r.sent), (2, r.resent), (2, r.skipped)] ++ reportFields r.report ++ charFields 32 r.caption ++
  [(1, flagNumber r.released.desk), (1, flagNumber r.released.dispatch), (1, r.slip.number), (1, flagNumber r.reprint)]

/-- READ DIRECTORY for an index up to 23: EMPTY 0, VALID 1 with its fields, DAMAGED 2. -/
def directoryFields : EntryReading → List (Nat × Nat)
  | .empty => (1, 1) :: (1, 0) :: zeroFields 51
  | .damaged => (1, 1) :: (1, 2) :: zeroFields 51
  | .valid e =>
    [(1, 1), (1, 1), (2, e.code.toNat), (2, e.mask.toNat)] ++ charFields 16 e.name ++ [(1, e.kind.byte.toNat)] ++
    charFields 20 (e.digits.map (BitVec.ofNat 8)) ++
    [(1, e.lpm.lpm), (1, e.rate.byte.toNat), (1, e.segment.byte.toNat), (2, e.iocLow), (2, e.iocHigh), (1, e.retries)]

/-- READ SETTINGS. -/
def settingsFields (s : State) (v : Settings) : List (Nat × Nat) :=
  [(2, v.diameter), (1, v.depth), (2, v.retryDelay), (2, v.bureau.toNat), (1, flagNumber v.printerEnabled),
   (1, v.rate.byte.toNat)] ++ Chan.all.map (fun c => (1, (v.config.get c).byte.toNat)) ++
  [(1, flagNumber s.store.settings.damaged), (1, flagNumber (!readLockFlag s.store)), (1, flagNumber s.store.lock.damaged),
   (1, flagNumber s.pins.guard), (1, flagNumber (storeLocked s)),
   (1, flagNumber s.store.cycle.isSome), (2, (s.store.cycle.map fun c => c.item.name.code).getD 0)]

/-- The detail of a notice in READ NOTICE; that the three tag bytes of a DRUM FAULT are zeros is the model's choice (log entry 38). -/
def noticeFields : Notice → List (Nat × Nat)
  | .drumFault cause order => [(1, cause.number), (3, 0)] ++ optField 2 order ++ [(1, 0)]
  | .mountRequest kind tag order => [(1, kind.number), (3, tag)] ++ optField 2 order ++ [(1, 0)]
  | .lineTrouble c t o d => [(1, c.number), (1, t), (2, o), (1, d), (3, 0)]
  | .printerAttention f => [(1, 0)] ++ optField 2 f ++ [(4, 0)]
  | .receiptFiled f o d oc => [(2, f), (2, o), (1, d), (1, oc.number), (2, 0)]
  | .orderDone o => [(2, o), (6, 0)]
  | .storeDone i => [(2, i.code), (6, 0)]

/-- READ CLOCK. -/
def clockFields (k : Option Clock) : List (Nat × Nat) :=
  [(1, flagNumber k.isSome), (2, (k.map Clock.minute).getD 0), (2, (k.map Clock.day).getD 0), (1, (k.map Clock.second).getD 0)]

/-! ### The fields of the forward frames (R120, R184) and the lines of a slip (R159) -/

/-- The kind byte and the fields of a forward frame, before its check code; in a flags byte bit 0 is the first flag, bit 1 the last flag
and bit 2 the resent flag. -/
def frameFields : ForwardFrame → List (Nat × Nat)
  | .ident bureau order tag => [(1, 0x01), (2, bureau.toNat), (2, order), (3, tag)]
  | .caption first last chars =>
    [(1, 0x02), (1, flagNumber first + 2 * flagNumber last), (1, chars.length)] ++ chars.map (fun b => (1, b.toNat))
  | .phase count => [(1, 0x03), (1, count)]
  | .line first last resent number start levels =>
    [(1, 0x04), (1, flagNumber first + 2 * flagNumber last + 4 * flagNumber resent), (2, number), (2, start),
     (2, levels.length)] ++ levels.map (fun v => (1, v))
  | .fill next => [(1, 0x05), (2, next)]
  | .skip line => [(1, 0x06), (2, line)]
  | .abort order => [(1, 0x07), (2, order)]
  | .stop order lines => [(1, 0x08), (2, order), (2, lines)]

/-- A number in decimal with leading zeros, in a width. -/
def digitsOf (width n : Nat) : List Byte :=
  (List.range width).map fun i => BitVec.ofNat 8 (0x30 + n / 10 ^ (width - 1 - i) % 10)

/-- A 16-bit code in four capital hexadecimal digits. -/
def hexOf (w : Word) : List Byte :=
  (List.range 4).map fun i =>
    let d := w.toNat / 16 ^ (3 - i) % 16
    BitVec.ofNat 8 (if d < 10 then 0x30 + d else 0x41 + (d - 10))

/-- Characters with spaces behind them to a width. -/
def spacedTo (width : Nat) (cs : List Byte) : List Byte := cs ++ List.replicate (width - cs.length) 0x20#8

/-- The name at a place of a list of names. -/
def nameAt (names : List String) (i : Nat) : List Byte := text (names.getD i "")

/-- The lines of a slip, as the table of R159 gives them. -/
def slipTable (bureau : Word) (r : Receipt) : List (List Byte) :=
  [text "WIRE RECEIPT  BUREAU " ++ hexOf bureau] ++
  (if r.reprint then [text "*** REPRINT ***"] else []) ++
  [text "FILING " ++ digitsOf 5 r.filing ++ text "  END " ++
     (match r.endTime with
      | some t => digitsOf 2 (t.minute / 60) ++ text ":" ++ digitsOf 2 (t.minute % 60) ++ text " DAY " ++ digitsOf 5 t.day
      | none => text "--:-- DAY -----"),
   text "ORDER " ++ digitsOf 4 r.order ++ text "  " ++
     spacedTo 8 (nameAt ["FLASH", "URGENT", "ROUTINE", "DEFERRED"] r.priority.rank) ++ text "  TAG " ++ digitsOf 6 r.tag,
   text "ENTRY " ++ digitsOf 2 r.entry ++ text " " ++ spacedTo 16 r.name ++ text " CODE " ++
     (match r.station with
      | some w => hexOf w
      | none => text "----"),
   text "CHANNEL " ++ (match r.channel with
      | some c => digitsOf 1 c.number
      | none => text "-") ++
     text "  ATTEMPTS " ++ digitsOf 1 r.attempts ++ (if r.exhausted then text "  RETRIES USED" else []),
   text "OUTCOME " ++ nameAt ["NO ANSWER", "LINE LOST", "DROPPED", "PHASING FAILED", "HOLD TIMEOUT", "WRONG STATION",
     "INCOMPATIBLE", "WITHDRAWN", "DELIVERED", "DELIVERED WITH GAPS", "SENT UNCONFIRMED"] r.outcome.number,
   text "SENT " ++ digitsOf 5 r.sent ++ text " RESENT " ++ digitsOf 5 r.resent ++ text " SKIPPED " ++ digitsOf 5 r.skipped,
   (match r.report with
    | some p => text "RCVD " ++ digitsOf 5 p.received ++ text " UNREC " ++ digitsOf 5 p.unrecovered ++ text " Q" ++
        digitsOf 1 p.grade ++ text " PIC " ++ digitsOf 4 p.picture
    | none => text "NO RECEIVER REPORT"),
   text "CAPTION " ++ (if r.caption = [] then text "(NONE)" else r.caption),
   List.replicate 40 0x2D#8,
   []]

/-! ### The back channel and the line -/

/-- A received code agrees with an entry: equal in every position where the match mask holds a one (R106, R113). -/
def CodeAgrees (e : Entry) (code : Word) : Prop := ∀ b, b < 16 → e.mask.getLsbD b = true → code.getLsbD b = e.code.getLsbD b

/-- Entry `i` is the one that identifies a station: VALID and agreeing, and no earlier VALID entry agrees (R106). -/
def Identifies (st : Store) (code : Word) (i : Nat) : Prop :=
  i < 24 ∧ (∃ e, readEntry st i = .valid e ∧ CodeAgrees e code) ∧
    ∀ j, j < i → ∀ e, readEntry st j = .valid e → ¬ CodeAgrees e code

/-- The channel, station code and kind of a back-channel frame with a good check (R113). -/
def backFrameOf : Instr → Option (Chan × Word × BackKind)
  | .station c code => some (c, code, .station)
  | .phased c code => some (c, code, .phased)
  | .retake c code _ => some (c, code, .retake)
  | .hold c code => some (c, code, .hold)
  | .go c code => some (c, code, .go)
  | .receipt c code _ _ _ _ => some (c, code, .receipt)
  | .frameIgnored c code kind => some (c, code, kind)
  | _ => none

/-- The kinds expected in each state (the table of R113). -/
def expectedKinds : List (ChanState × BackKind) :=
  [(.announce, .station), (.phasing, .phased), (.phased, .hold), (.phased, .go), (.picture, .retake), (.picture, .hold),
   (.picture, .go), (.stopping, .retake), (.awaitReceipt, .receipt)]

/-- A rise of the trouble count by `n` that drops no call (R134, R135): crossing 48 while ARMED disarms and notices LINE TROUBLE to
both links; otherwise arming and links stay. -/
def TroubleRises (c : Chan) (n : Nat) (k : Call) (ch : Channel) (s u : State) : Prop :=
  (u.channels.get c).trouble = ch.trouble + n ∧
    if ch.trouble < 48 ∧ 48 ≤ ch.trouble + n ∧ ch.caution = .armed then
      (u.channels.get c).caution = .disarmed ∧ NoticedToBoth (.lineTrouble c (ch.trouble + n) k.order k.dest) u
    else (u.channels.get c).caution = ch.caution ∧ u.links = s.links

/-- The service of a retake queue (steps 2 and 3 of R125, with the NO case of R127): `skipped` are the entries answered with SKIP
frames, `left` what is then in the queue, empty or with a RESEND entry of a held line at its head. -/
def QueueServed (ask : Nat → Option (List Nat)) (queue skipped left : List RetakeEntry) : Prop :=
  queue = skipped ++ left ∧ (∀ l, RetakeEntry.resend l ∈ skipped → ask l = none) ∧
    (left = [] ∨ ∃ l levels rest, left = .resend l :: rest ∧ ask l = some levels)

/-- The SKIP frames for some entries. -/
def skipFrames (entries : List RetakeEntry) : List ForwardFrame := entries.map fun x => .skip x.line

/-- A channel that begins `frames` at `now`, back to back, in the line period that its line timer now counts (R104, R123). -/
def periodOf (ch : Channel) (tm : LineTimer) (now : Nat) (frames : List ForwardFrame) : Channel :=
  { ch with lineTimer := some { tm with begun := tm.begun + 1 }, onLine := frames.head?, owed := frames.tail,
            runStart := now, runBytes := 0 }

/-! ### Receipts and the store -/

/-- A link counts as having released a record: its flag is set, or the link is absent (R146, R148). -/
def ReleasedOn (s : State) (l : Link) (r : Receipt) : Prop := r.released.get l = true ∨ s.pins.presence.get l = false

/-- The three conditions of removal (R146). -/
def Removable (s : State) (r : Receipt) : Prop :=
  (∀ l : Link, ReleasedOn s l r) ∧ (r.slip = .printed ∨ r.slip = .notRequired)

/-- The head reference turned into a record, from `s` to `u`, for an order and a destination with an outcome (R23, R24, R143, R145, R146):
the record takes the next filing number and its fields, RECEIPT FILED goes to both links, and the destination is filed. The
record stays unless it is removable at once: no link present and no slip wanted. The order leaves with ORDER DONE after its
last reference, and every other order stays. -/
def RecordFiled (ref : FilingRef) (rest : List FilingRef) (o : Order) (d : Destination) (oc : CallOutcome) (s u : State) : Prop :=
  ∃ r : Receipt, u.filing = rest ∧
    u.log = (if s.pins.presence.desk = true ∨ s.pins.presence.dispatch = true ∨ s.printer.state ≠ .disabled then
      s.log ++ [r] else s.log) ∧
    FirstFree 65535 s.nextFiling (s.log.map Receipt.filing) r.filing ∧
    u.nextFiling = (if r.filing = 65535 then 1 else r.filing + 1) ∧
    r.order = ref.order ∧ r.tag = o.tag ∧ r.priority = o.priority ∧ r.entry = d.entry ∧ r.station = d.station ∧
    r.channel = ref.channel ∧ r.outcome = oc ∧ r.attempts = d.attempts ∧ r.exhausted = d.exhausted ∧
    r.startTime = d.startTime ∧ r.endTime = d.endTime ∧ r.sent = d.sent ∧ r.resent = d.resent ∧
    r.skipped = d.skipped ∧ r.report = d.report ∧ r.caption = o.caption.take 32 ∧
    (∀ e, readEntry s.store d.entry = .valid e → r.name = e.name) ∧
    ((∀ e, readEntry s.store d.entry ≠ .valid e) → r.name = []) ∧
    (∀ k : Link, r.released.get k = false) ∧ r.reprint = false ∧
    r.slip = (if s.printer.state = .disabled then .notRequired else .pending) ∧
    NoticedToBoth (.receiptFiled r.filing ref.order ref.dest oc) u ∧
    (∀ x, findOrder u ref.order = some x → x.dests = o.dests.modify ref.dest (fun d => { d with filed := true })) ∧
    ((∃ x ∈ o.dests, x.state ≠ .final) ∨ o.state = .withdrawing →
      findOrder u ref.order = some { o with dests := o.dests.modify ref.dest (fun d => { d with filed := true }) }) ∧
    ((∀ x ∈ o.dests, x.state = .final) → o.state ≠ .withdrawing →
      ((∃ x ∈ rest, x.order = ref.order) →
        findOrder u ref.order =
          some { o with state := .filing, dests := o.dests.modify ref.dest (fun d => { d with filed := true }) }) ∧
      ((∀ x ∈ rest, x.order ≠ ref.order) →
        findOrder u ref.order = none ∧ NoticedToBoth (.orderDone ref.order) u ∧ u.selectDue = true)) ∧
    ∀ n, n ≠ ref.order → findOrder u n = findOrder s n

/-- The parts that the filing of a reference may change. -/
abbrev filingParts : List Part := [.links, .book, .filing, .nextFiling, .log, .selectDue]

/-- The head reference transferred, from `s` to `u` (R23); the links keep their results. -/
def HeadFiled (ref : FilingRef) (rest : List FilingRef) (s u : State) : Prop :=
  Moves filingParts s u ∧ (∀ k, (u.links.get k).result = (s.links.get k).result) ∧
    ∀ o d oc, findOrder s ref.order = some o → o.dests[ref.dest]? = some d → d.outcome = some oc → 1 ≤ s.nextFiling →
      s.nextFiling ≤ 65535 → RecordFiled ref rest o d oc s u

/-- References transferred one by one, oldest first, until none is left or the log is full (R23). -/
def RefsFiled : List FilingRef → State → State → Prop
  | [], s, u => u = s
  | ref :: rest, s, u =>
    (32 ≤ s.log.length → u = s) ∧ (s.log.length < 32 → ∃ m, HeadFiled ref rest s m ∧ RefsFiled rest m u)

/-- What follows in a step that began with `places` records in the log, from `m`, where its own effects have left it, to the next state
`t` (R23, R146, R148): if a record has left the log, the places freed let the waiting references through at once; an order that
leaves with its last reference is an event of R15. -/
def LetThrough (places : Nat) (m t : State) : Prop :=
  (places ≤ m.log.length ∨ m.filing = [] → t = m) ∧
    (m.log.length < places → m.filing ≠ [] → ∃ u, RefsFiled m.filing m u ∧ t = finishStep u)

/-- From `s` to `m` records leave the receipt log and none comes; those that stay keep their order. -/
def LogShrinks (s m : State) : Prop := (m.log.map Receipt.filing).Sublist (s.log.map Receipt.filing)

/-- What a printer setting that turns disabled makes of the record numbered `g`, from `s` to `m` (R161): a PENDING one becomes NOT
REQUIRED and leaves the log only if it may (R146); every other one stays as it is. -/
def PendingDropped (g : Nat) (s m : State) : Prop :=
  (findReceipt s g = none → findReceipt m g = none) ∧
    ∀ y, findReceipt s g = some y →
      (y.slip ≠ .pending → findReceipt m g = some y) ∧
      (y.slip = .pending → ∀ z, z = { y with slip := .notRequired } →
        (Removable s z → findReceipt m g = none) ∧ (¬ Removable s z → findReceipt m g = some z))

/-- A store write taken (R166): OK with the item as value, and the store WRITING with its cycle timer at zero; nothing else
changes. -/
def WriteTaken (i : Instr) (l : Link) (command : Byte) (w : StoreWrite) (item : Nat) (s : State) : Prop :=
  ∃ t, exec i s = .next t ∧ Posted l command .ok item s t ∧ Moves [.links, .store] s t ∧
    t.store = { s.store with cycle := some { item := w, link := l, start := s.now, guardFell := false } }

/-- The contents that WRITE DIRECTORY refuses with BAD FIELD (R168). -/
def EntryOutOfRange (a : EntryArgs) : Prop :=
  16 < a.nameCount.toNat ∨ (∃ ch ∈ a.name.take a.nameCount.toNat, ch.toNat < 0x20 ∨ 0x7E < ch.toNat) ∨
    (a.lpm.toNat ≠ 30 ∧ a.lpm.toNat ≠ 45 ∧ a.lpm.toNat ≠ 60 ∧ a.lpm.toNat ≠ 90 ∧ a.lpm.toNat ≠ 120) ∨
    3 < a.rate.toNat ∨ 2 < a.segment.toNat ∨
    a.iocLow.toNat < 100 ∨ 2000 < a.iocLow.toNat ∨ a.iocHigh.toNat < 100 ∨ 2000 < a.iocHigh.toNat ∨
    a.iocHigh.toNat < a.iocLow.toNat ∨ 5 < a.retries.toNat ∨ 4 < a.kind.toNat ∨
    (a.kind.toNat = 0 ∧ (a.digitCount.toNat = 0 ∨ 20 < a.digitCount.toNat ∨
      ∃ d ∈ a.digits.take a.digitCount.toNat, 9 < d.toNat)) ∨
    (a.kind.toNat ≠ 0 ∧ a.digitCount.toNat ≠ 0)

/-- The entry whose fields WRITE DIRECTORY carries (R163, R168). -/
def EntryCarried (a : EntryArgs) (e : Entry) : Prop :=
  e.code = a.code ∧ e.mask = a.mask ∧ e.name = a.name.take a.nameCount.toNat ∧
    (a.kind.toNat = 0 → e.kind = .dialled) ∧ (∀ c : Chan, a.kind.toNat = c.number → e.kind = .leased c) ∧
    e.digits = (a.digits.take a.digitCount.toNat).map BitVec.toNat ∧ e.lpm.lpm = a.lpm.toNat ∧ e.rate.byte = a.rate ∧
    e.segment.byte = a.segment ∧ e.iocLow = a.iocLow.toNat ∧ e.iocHigh = a.iocHigh.toNat ∧ e.retries = a.retries.toNat

/-- The contents that WRITE SETTINGS refuses with BAD FIELD (R164, R169). -/
def SettingsOutOfRange (a : SettingsArgs) : Prop :=
  a.diameter.toNat < 300 ∨ 800 < a.diameter.toNat ∨ 8 < a.depth.toNat ∨ a.retryDelay.toNat < 30 ∨ 600 < a.retryDelay.toNat ∨
    1 < a.printer.toNat ∨ 1 < a.rate.toNat ∨
    (∃ c : Chan, 23 < (a.channels.get c).toNat ∧ (a.channels.get c).toNat ≠ 0xFF) ∨
    ∃ c d : Chan, c ≠ d ∧ a.channels.get c = a.channels.get d ∧ (a.channels.get c).toNat ≠ 0xFF

/-- The settings that WRITE SETTINGS carries (R164, R169). -/
def SettingsCarried (a : SettingsArgs) (v : Settings) : Prop :=
  v.diameter = a.diameter.toNat ∧ v.depth = a.depth.toNat ∧ v.retryDelay = a.retryDelay.toNat ∧ v.bureau = a.bureau ∧
    (v.printerEnabled = true ↔ a.printer.toNat = 1) ∧ v.rate.byte = a.rate ∧ ∀ c : Chan, (v.config.get c).byte = a.channels.get c

/-- Some destination of the book names an entry and is in one of some states (R167). -/
def EntryNamed (s : State) (entry : Nat) (states : List DestState) : Prop :=
  ∃ o ∈ s.book.orders, ∃ d ∈ o.dests, d.entry = entry ∧ d.state ∈ states

/-- The configuration of a channel would change while it is neither OUT nor IDLE (R167, R169). -/
def SomeChannelBusy (s : State) (v : Settings) : Prop :=
  ∃ c : Chan, v.config.get c ≠ (readSettings s.store).config.get c ∧ (s.channels.get c).state ≠ .out ∧
    (s.channels.get c).state ≠ .idle

/-- How an entry reads once it was written whole (R163, R165). -/
def readingOf : EntryContents → EntryReading
  | none => .empty
  | some e => .valid e

end Sys2Proof.Machine
end

