-- ==== Sys2Proof/WellFormed.lean ====
section
/-! DEFINITION. Which commands a sender can put on the wires: the sizes that R175 and R184 fix. An ill-formed command is one
that no frame spells; `exec` still has a meaning for it. -/

namespace Sys2Proof

/-- Whether whole bytes and bits left over are a FRAME ERROR (R175): no whole byte and some bits, or a listed command byte with
a length that does not match. -/
def isFrameError (bytes : List Byte) (partialBits : Nat) : Bool :=
  match bytes with
  | [] => decide (0 < partialBits)
  | code :: args => (Machine.shapeOf code).isSome && !Machine.frameFits code args partialBits

/-- Well-formedness of a command. -/
def Instr.wf (i : Instr) : Bool :=
  match i with
  | .reset => true
  | .linkSelectFall _ => true
  | .unknownCommand _ code => (Machine.shapeOf code).isNone
  | .frameError _ bytes partialBits => decide (partialBits < 8) && isFrameError bytes partialBits
  | .submitOrder _ _ _ _ _ _ entries => decide (entries.length ≤ 255)
  | .addCaption _ _ chars => decide (chars.length ≤ 48)
  | .amendPriority _ _ _ => true
  | .withdrawOrder _ _ => true
  | .mountConfirm _ _ => true
  | .haltRound _ => true
  | .lineOut _ _ => true
  | .lineIn _ _ => true
  | .lineReset _ _ => true
  | .markFaultCode _ _ => true
  | .releaseReceipt _ _ => true
  | .reprintSlip _ _ => true
  | .ackNotice _ _ => true
  | .setNoticeMask _ _ => true
  | .setClock _ _ _ => true
  | .writeDirectory _ _ args => decide (args.name.length = 16) && decide (args.digits.length = 20)
  | .eraseDirectory _ _ => true
  | .writeCurve _ _ points => decide (points.length = 17)
  | .writeSettings _ _ => true
  | .setLock _ => true
  | .clearLock _ => true
  | .readResult _ => true
  | .readStatus _ => true
  | .readQueue _ => true
  | .readOrder _ _ => true
  | .readDestination _ _ _ => true
  | .readChannel _ _ => true
  | .readReceipt _ _ => true
  | .readNextReceipt _ => true
  | .readDirectory _ _ => true
  | .readCurve _ _ => true
  | .readSettings _ => true
  | .readNotice _ => true
  | .readClock _ => true
  | .presenceFall _ => true
  | .presenceRise _ => true
  | .indexPulse _ => true
  | .photocellReading _ => true
  | .coverOpen => true
  | .coverClose => true
  | .clampOpen => true
  | .clampClose => true
  | .homeSwitchClose => true
  | .guardFall => true
  | .guardRise => true
  | .carrierPresent _ => true
  | .carrierAbsent _ => true
  | .prrdyReady => true
  | .paperAbsent => true
  | .paperPresent => true
  | .station _ _ => true
  | .phased _ _ => true
  | .retake _ _ _ => true
  | .hold _ _ => true
  | .go _ _ => true
  | .receipt _ _ _ _ _ _ => true
  | .badCheck _ => true
  | .framingFailure _ => true
  | .retryDelayExpiry order dest => decide (1 ≤ order) && decide (order ≤ 9999) && decide (dest < 12)
  | .lockLimit => true
  | .idleStop => true
  | .coastStop => true
  | .returnLimit => true
  | .dialSettleEnd _ => true
  | .digitToneEnd _ => true
  | .digitSilenceEnd _ => true
  | .answerLimit _ => true
  | .announceLimit _ => true
  | .carrierLossLimit _ => true
  | .receiptLimit _ => true
  | .cooldownExpiry _ => true
  | .holdTimeout _ => true
  | .linePeriodStart _ => true
  | .forwardFrameSent _ => true
  | .stopSent _ => true
  | .resendEnd _ => true
  | .releaseComplete _ => true
  | .storeCycleEnd => true
  | .clockSecond => true
  | .slipCharacterSent _ => true
  | .slipBegin _ => true
  | .filingTransfer => true
  | .frameIgnored _ _ _ => true

end Sys2Proof
end

