-- ==== Sys2Proof/Certificates/Slice0/Obligations.lean ====
section
/-! DEFINITION. The statements about the Mehlor 2640. Each docstring names the rule of spec/ that the statement formalises;
where a clause is the model's choice it names the log entry. -/

open Sys2Proof Sys2Proof.Machine

/-! ### The block, its queue and reset -/

/-- For every command and state, a step with the command at the front of the queue is `exec` of it on the queue's rest. On an
empty queue (no row of the table is a tick) the part's own time goes on, which is the model's choice (log entry 2): the
timebase counts one µs, or the event of its own that is due is taken into the queue; nothing else changes. -/
def Obligations.StepRunsTheFrontCommand : Prop :=
  (∀ (i : Instr) (rest : List Instr) (s : State), s.pending = i :: rest →
     step s = exec i { s with pending := rest }) ∧
  (∀ s : State, s.pending = [] →
     ∃ t, step s = .next t ∧ Moves [.now, .pending] s t ∧
       ((dueCommand s = none ∧ t.now = s.now + 1 ∧ t.pending = []) ∨
         ∃ i, dueCommand s = some i ∧ t.now = s.now ∧ t.pending = [i]))

/-- No command stops the part in any state, and none touches the queue. -/
def Obligations.EveryCommandAnswersANextState : Prop :=
  ∀ (i : Instr) (s : State), ∃ t, exec i s = .next t ∧ t.pending = s.pending

/-- RESET (R25, R67, R83, R96, R124, R145, R154, R166, R174): every volatile field returns to its reset value whatever it was;
the head and the printer follow the home switch, the paper input and the printer setting (R57, R154); the inputs stay (log
entry 23). Every notice kind is absent, as R174 says; that it is so also where the printer comes up PAPER OUT for an absent
paper, with no PRINTER ATTENTION, is log entry 30, DEDUCED. The model's own fields are at the values of log entries 1, 9, 23,
27, 31 and 36, which are its choice: the timebase count, the forward line with the frames owed, the dialling, the captions
sent, the line period, the reception, the printer's run and the absence noted in it. -/
def Obligations.ResetReturnsTheVolatileState : Prop :=
  ∀ s : State, ∃ t, exec .reset s = .next t ∧
    t.book.orders = [] ∧ t.book.nextNumber = 1 ∧ t.book.sequence = 1 ∧ t.filing = [] ∧ t.nextFiling = 1 ∧ t.log = [] ∧
    t.clock = none ∧ t.mount = .empty ∧ t.store.cycle = none ∧
    t.round.state = .closed ∧ t.round.order = none ∧ t.round.drumClass = none ∧ t.round.scanComplete = false ∧
    t.drum.state = .stopped ∧ t.drum.target = none ∧ t.drum.drive = 0 ∧ t.drum.lastPulse = none ∧ t.drum.period = none ∧
    t.drum.lockCount = 0 ∧ t.drum.looseMiss = 0 ∧ t.drum.lockTimer = none ∧ t.drum.idleTimer = none ∧
    t.drum.coastTimer = none ∧
    t.head.position = 0 ∧ t.head.held = 0 ∧
    (if s.pins.home then t.head.state = .home ∧ t.head.returnTimer = none
     else t.head.state = .returning ∧ t.head.returnTimer = some t.now) ∧
    t.converter.lamp = .ok ∧ t.converter.invalidCount = 0 ∧ t.converter.pair = none ∧ t.converter.latest = none ∧
    t.converter.curve = none ∧ t.converter.invalidTotal = 0 ∧ t.converter.gathering = none ∧
    t.lineStore.held = [] ∧ t.lineStore.depth = none ∧
    t.printer.slip = none ∧ t.printer.position = 0 ∧ t.printer.disablePending = false ∧
    t.printer.abandonDue = false ∧ t.printer.runStart = 0 ∧ t.printer.runSent = 0 ∧ t.now = 0 ∧ t.round.samples = 0 ∧
    t.printer.state =
      (if (readSettings t.store).printerEnabled then (if s.pins.paper then .ready else .paperOut) else .disabled) ∧
    (∀ c : Chan,
      t.round.members.get c = none ∧
      (t.channels.get c).state = .idle ∧ (t.channels.get c).service = .inService ∧ (t.channels.get c).call = none ∧
      (t.channels.get c).station = none ∧ (t.channels.get c).ending = none ∧ (t.channels.get c).stateTimer = none ∧
      (t.channels.get c).phaseCount = 0 ∧ (t.channels.get c).lineTimer = none ∧
      (t.channels.get c).carrierTimer = none ∧ (t.channels.get c).hook = .onHook ∧
      (t.channels.get c).sendPosition = 0 ∧ (t.channels.get c).queue = [] ∧ (t.channels.get c).hold = none ∧
      (t.channels.get c).stopping = 0 ∧ (t.channels.get c).trouble = 0 ∧ (t.channels.get c).caution = .armed ∧
      (t.channels.get c).fault = .none ∧ (t.channels.get c).sent = 0 ∧ (t.channels.get c).resent = 0 ∧
      (t.channels.get c).skipped = 0 ∧ (t.channels.get c).refused = 0 ∧
      (t.channels.get c).linePeriod = 0 ∧ (t.channels.get c).dial = .silent ∧ (t.channels.get c).captionSent = 0 ∧
      (t.channels.get c).onLine = none ∧ (t.channels.get c).owed = [] ∧ (t.channels.get c).runStart = 0 ∧
      (t.channels.get c).runBytes = 0 ∧ (t.channels.get c).reception = { idle := 0, byte := none, run := none }) ∧
    (∀ l : Link,
      (t.links.get l).assembly = .idle ∧ (t.links.get l).result.command = 0x00#8 ∧
      (t.links.get l).result.code = .none ∧ (t.links.get l).result.value = 0 ∧ (t.links.get l).attention = false ∧
      ∀ k : NoticeKind, (t.links.get l).notices.get k = none ∧ (t.links.get l).mask.get k = true) ∧
    t.pins = s.pins ∧ t.pending = s.pending

/-- The test of a reset while the store is IDLE (R165, R172): every item keeps its contents and its check, and is damaged
exactly where its check differs from the check of its contents. The bytes the check is run over (`entryContentBytes`,
`curveBytes`, `settingsBytes`, `lockBytes`) are the model's choice: R165 does not say how the contents lie in bytes (log entry
7). A reset taken while the store is WRITING (R172): the item being written is found damaged, the state is IDLE, no STORE DONE
is noticed, the result records are NONE, and every other item keeps its contents and its check. -/
def Obligations.ResetTestsTheStore : Prop :=
  (∀ s : State, s.store.cycle = none →
     ∃ t, exec .reset s = .next t ∧ t.store.cycle = none ∧
       (∀ (i : Nat) (h : i < 24),
         t.store.entries[i].contents = s.store.entries[i].contents ∧ t.store.entries[i].check = s.store.entries[i].check ∧
         (t.store.entries[i].damaged = true ↔
           checkCode (entryContentBytes s.store.entries[i].contents) ≠ s.store.entries[i].check)) ∧
       (∀ (i : Nat) (h : i < 4),
         t.store.curves[i].contents = s.store.curves[i].contents ∧ t.store.curves[i].check = s.store.curves[i].check ∧
         (t.store.curves[i].damaged = true ↔
           checkCode (curveBytes s.store.curves[i].contents) ≠ s.store.curves[i].check)) ∧
       (t.store.settings.contents = s.store.settings.contents ∧ t.store.settings.check = s.store.settings.check ∧
         (t.store.settings.damaged = true ↔
           checkCode (settingsBytes s.store.settings.contents) ≠ s.store.settings.check)) ∧
       (t.store.lock.contents = s.store.lock.contents ∧ t.store.lock.check = s.store.lock.check ∧
         (t.store.lock.damaged = true ↔ checkCode (lockBytes s.store.lock.contents) ≠ s.store.lock.check))) ∧
  (∀ (s : State) (c : StoreCycle), s.store.cycle = some c →
     ∃ t, exec .reset s = .next t ∧ t.store.cycle = none ∧
       (match c.item with
        | .entry i _ => i < 24 → readEntry t.store i = .damaged
        | .curve i _ => i < 4 → curveReplaced t.store i = true ∧ readCurvePoints t.store i = unityCurve
        | .settings _ => t.store.settings.damaged = true ∧ readSettings t.store = defaultSettings
        | .lock _ => t.store.lock.damaged = true ∧ readLockFlag t.store = true) ∧
       (∀ (i : Nat) (h : i < 24), (∀ e, c.item ≠ .entry i e) →
         t.store.entries[i].contents = s.store.entries[i].contents ∧ t.store.entries[i].check = s.store.entries[i].check) ∧
       (∀ (i : Nat) (h : i < 4), (∀ e, c.item ≠ .curve i e) →
         t.store.curves[i].contents = s.store.curves[i].contents ∧ t.store.curves[i].check = s.store.curves[i].check) ∧
       ((∀ v, c.item ≠ .settings v) →
         t.store.settings.contents = s.store.settings.contents ∧ t.store.settings.check = s.store.settings.check) ∧
       ((∀ f, c.item ≠ .lock f) →
         t.store.lock.contents = s.store.lock.contents ∧ t.store.lock.check = s.store.lock.check) ∧
       ∀ l : Link, (t.links.get l).notices.storeDone = none ∧ (t.links.get l).result.code = .none)

/-! ### Links, notices and the clock -/

/-- The link events that execute no command (R175): a fall of select empties the assembly; an unknown command byte and a frame
of the wrong length leave their results. The lines of a link (R174 to R176): an IDLE assembly takes no bit and ignores a rise
of select. After a fall, the bits sampled on the shift clock form bytes, most significant bit first, with a partial byte kept
beside them; at the rise the assembly is IDLE, and the row that the frame is (`frameRow`) is executed, none for a frame
without a bit. A read is executed with its last argument bit, its copy then leaves on data out, most significant bit first,
one bit for each further clock, zeros after its end, and the rise ends the frame and changes nothing else. Data out is zero
while no copy is taken. (Bits and the rise are no rows of the table; the answer position counts bits: log entry 14, the
model's choice.) -/
def Obligations.LinkFramesLeaveTheirResults : Prop :=
  ((∀ (l : Link) (s : State), ∃ t, exec (.linkSelectFall l) s = .next t ∧
     t.links.get l = { s.links.get l with assembly := .receiving [] [] none 0 } ∧ OnlyLink l s t ∧ Moves [.links] s t) ∧
   (∀ (l : Link) (code : Byte) (s : State), ∃ t, exec (.unknownCommand l code) s = .next t ∧
     Posted l code .unknownCommand code.toNat s t ∧ Moves [.links] s t) ∧
   (∀ (l : Link) (code : Byte) (args : List Byte) (k : Nat) (s : State),
     ∃ t, exec (.frameError l (code :: args) k) s = .next t ∧
       Posted l code .frameError (args.length + 1) s t ∧ Moves [.links] s t) ∧
   (∀ (l : Link) (k : Nat) (s : State), ∃ t, exec (.frameError l [] k) s = .next t ∧
     Posted l 0x00#8 .frameError 0 s t ∧ Moves [.links] s t)) ∧
  (∀ (l : Link) (s : State),
     ((s.links.get l).assembly = .idle →
       (∀ bit, linkEvent l (.clock bit) s = .next s) ∧ linkEvent l .selectRise s = .next s) ∧
     (∀ (bytes : List Byte) (bits : List Bool), bits.length < 8 →
       (∀ code args sh n, bytes = code :: args → shapeOf code = some sh → sh.read = true →
         argsNeeded sh.size args = some n → args.length < n) →
       linkEvents l (.selectFall :: clocked bytes bits) s = .next (setAssembly l (.receiving bytes bits none 0) s) ∧
       linkEvents l (.selectFall :: (clocked bytes bits ++ [.selectRise])) s =
         (match frameRow l bytes bits.length with
          | none => .next (setAssembly l .idle s)
          | some i => exec i (setAssembly l .idle s))) ∧
     (∀ (i : Instr) (code : Byte) (args : List Byte) (sh : CommandShape), i.wf = true →
       commandFrame i = some (l, code :: args) → shapeOf code = some sh → sh.read = true →
       linkEvents l (.selectFall :: clocked (code :: args) []) s =
         exec i (setAssembly l (.receiving (code :: args) [] none 0) s)) ∧
     (∀ (bytes : List Byte) (bits : List Bool) (answer : List Byte) (p : Nat),
       (s.links.get l).assembly = .receiving bytes bits (some answer) p →
       linkEvent l .selectRise s = .next (setAssembly l .idle s) ∧
       (∀ more : List Bool, ∃ bytes' bits', linkEvents l (more.map .clock) s =
         .next (setAssembly l (.receiving bytes' bits' (some answer) (p + more.length)) s)) ∧
       (∀ b, answer[p / 8]? = some b → dataOutBit (s.links.get l).assembly = b.getLsbD (7 - p % 8)) ∧
       (8 * answer.length ≤ p → dataOutBit (s.links.get l).assembly = false)) ∧
     ∀ (bytes : List Byte) (bits : List Bool) (p : Nat), dataOutBit (.receiving bytes bits none p) = false)

/-- The thirteen read-type commands (R176): each takes its answer copy and changes nothing else of the part; READ ORDER also
uses up the free values it shows (log entry 15). The copy is shifted out, and zeros once its last byte has been (R176). The
bytes of the thirteen answers, field by field in the order and the widths of R184 (the PRRDY level of READ STATUS and the
entry-index bytes of READ ORDER beyond the count are free values: log entries 8 and 15; the codes that R184 leaves open are
log entry 16; the tag bytes of a DRUM FAULT in READ NOTICE, zeros, are log entry 38, the model's choice), each answer with the
fields that the owning rules name (R1, R3, R26, R47, R57, R62, R67, R83, R96, R124, R142, R154, R163, R164, R177, R178, R182),
the orders of READ QUEUE in selection order (1.1), the record and the unreleased count of READ NEXT RECEIPT by R149, and the
present set and the highest present kind of READ NOTICE by R180, and a not-found answer is zeros over the same length. -/
def Obligations.ReadsCopyAndChangeNothingElse : Prop :=
  (∀ (l : Link) (s : State),
     AnswersWith [.links] (.readResult l) l [0x40#8] (resultAnswer (s.links.get l).result) s ∧
     AnswersWith [.links, .free] (.readStatus l) l [0x41#8] (statusAnswer s) s ∧
     AnswersWith [.links] (.readQueue l) l [0x42#8] (queueAnswer s) s ∧
     (∀ o : Word, AnswersWith [.links, .free] (.readOrder l o) l (0x43#8 :: wordBytes o) (orderAnswer s o.toNat) s) ∧
     (∀ (o : Word) (i : Byte), AnswersWith [.links] (.readDestination l o i) l (0x44#8 :: (wordBytes o ++ [i]))
       (destinationAnswer s o.toNat i.toNat) s) ∧
     (∀ c : Byte, AnswersWith [.links] (.readChannel l c) l [0x45#8, c] (channelAnswer s c) s) ∧
     (∀ f : Word, AnswersWith [.links] (.readReceipt l f) l (0x46#8 :: wordBytes f) (receiptAnswer s f.toNat) s) ∧
     AnswersWith [.links] (.readNextReceipt l) l [0x47#8] (nextReceiptAnswer s l) s ∧
     (∀ i : Byte, AnswersWith [.links] (.readDirectory l i) l [0x48#8, i] (directoryAnswer s i.toNat) s) ∧
     (∀ i : Byte, AnswersWith [.links] (.readCurve l i) l [0x49#8, i] (curveAnswer s i.toNat) s) ∧
     AnswersWith [.links] (.readSettings l) l [0x4A#8] (settingsAnswer s) s ∧
     AnswersWith [.links] (.readNotice l) l [0x4B#8] (noticeAnswer (s.links.get l)) s ∧
     AnswersWith [.links] (.readClock l) l [0x4C#8] (clockAnswer s) s) ∧
  (∀ (bytes answer : List Byte) (bits : List Bool) (p k : Nat),
     (∀ h : k < answer.length, dataOutByte (.receiving bytes bits (some answer) p) k = answer[k]) ∧
     (answer.length ≤ k → dataOutByte (.receiving bytes bits (some answer) p) k = 0#8) ∧
     dataOutByte (.receiving bytes bits none p) k = 0#8) ∧
  (∀ s : State,
     (∀ r : ResultRecord, resultAnswer r = fieldBytes [(1, r.command.toNat), (1, r.code.number), (4, r.value)]) ∧
     (∃ ready, statusAnswer s = fieldBytes (statusFields s ready) ∧ (s.pins.printerReady = false → ready = false)) ∧
     (statusAnswer s).length = 71 ∧
     (s.book.orders.length ≤ 16 → ∃ os : List Order, os.Perm s.book.orders ∧
       os.Pairwise (fun a b => a.priority.rank < b.priority.rank ∨
         a.priority.rank = b.priority.rank ∧ a.sequence ≤ b.sequence) ∧
       queueAnswer s = fieldBytes ((1, os.length) :: (os.flatMap queueFields ++ zeroFields (8 * (16 - os.length)))) ∧
       (queueAnswer s).length = 129) ∧
     (∀ n, (findOrder s n = none → orderAnswer s n = List.replicate 278 0#8) ∧
       ∀ o, findOrder s n = some o → o.caption.length ≤ 240 → o.dests.length ≤ 12 →
         (orderAnswer s n).length = 278 ∧
         ∃ unlisted : List Byte, unlisted.length = 12 - o.dests.length ∧ orderAnswer s n = fieldBytes (orderFields o unlisted)) ∧
     (∀ n i, (findDest s n i = none → destinationAnswer s n i = List.replicate 42 0#8) ∧
       ∀ d, findDest s n i = some d → destinationAnswer s n i = fieldBytes (destinationFields s.now d) ∧
         (destinationAnswer s n i).length = 42) ∧
     (∀ b : Byte, (b.toNat = 0 ∨ 4 < b.toNat → channelAnswer s b = List.replicate 77 0#8) ∧
       ∀ c : Chan, b.toNat = c.number →
         channelAnswer s b = fieldBytes (channelFields s.now (s.channels.get c) (s.pins.carrier.get c)
           ((s.lineStore.held.filter fun h => h.marks.get c).map HeldLine.number)) ∧
         ((s.channels.get c).queue.length ≤ 6 → (channelAnswer s b).length = 77)) ∧
     (∀ f, (findReceipt s f = none → receiptAnswer s f = List.replicate 96 0#8) ∧
       ∀ r, findReceipt s f = some r → receiptAnswer s f = fieldBytes ((1, 1) :: receiptFields r) ∧
         (r.name.length ≤ 16 → r.caption.length ≤ 32 → (receiptAnswer s f).length = 96)) ∧
     (∀ l : Link, ((∀ r ∈ s.log, r.released.get l = true) → nextReceiptAnswer s l = List.replicate 97 0#8) ∧
       ∀ before r after, s.log = before ++ r :: after → (∀ x ∈ before, x.released.get l = true) → r.released.get l = false →
         nextReceiptAnswer s l =
           fieldBytes ((1, 1) :: (1, 1 + (after.filter fun x => !x.released.get l).length) :: receiptFields r)) ∧
     (∀ i, (23 < i → directoryAnswer s i = List.replicate 53 0#8) ∧
       (i ≤ 23 → directoryAnswer s i = fieldBytes (directoryFields (readEntry s.store i)))) ∧
     (∀ i, (3 < i → curveAnswer s i = List.replicate 19 0#8) ∧
       (i ≤ 3 → curveAnswer s i = fieldBytes ((1, 1) :: ((readCurvePoints s.store i).toList.map (fun v => (1, v)) ++
         [(1, flagNumber (curveReplaced s.store i))])))) ∧
     settingsAnswer s = fieldBytes (settingsFields s (readSettings s.store)) ∧
     (∀ ls : LinkState, ∃ present, (noticeAnswer ls)[0]? = some present ∧
       (∀ k : NoticeKind, present.getLsbD (k.code - 1) = (ls.notices.get k).isSome) ∧ present.getLsbD 7 = false ∧
       ((∀ k, ls.notices.get k = none) → (noticeAnswer ls).drop 1 = List.replicate 9 0#8) ∧
       ∀ (k : NoticeKind) (x : Notice), ls.notices.get k = some x → x.kind = k →
         (∀ j : NoticeKind, j.code < k.code → ls.notices.get j = none) →
         (noticeAnswer ls).drop 1 = fieldBytes ((1, k.code) :: noticeFields x)) ∧
     clockAnswer s = fieldBytes (clockFields s.clock))

/-- Every well-formed command that a link frame carries is read back from its bytes, with every argument at every value (R175,
R184). A back-channel frame with its check code is one row, the row its kind and body spell; a frame whose bytes before the
check differ from those the check was computed over is BAD_CHECK (R112, R121, R185). The levels of a back channel, one for
each bit time (R185): bytes with less than ten bit times of idle between them are one run, most significant bit first, and an
idle of ten bit times or more ends it; the runs become rows one after the other. The bytes after the last such idle are
received as soon as they fill a frame, and are no row while they are too few (log entry 36). -/
def Obligations.EveryFrameIsReadBack : Prop :=
  (∀ (i : Instr) (l : Link) (bytes : List Byte), i.wf = true → commandFrame i = some (l, bytes) →
     frameRow l bytes 0 = some i) ∧
  (∀ (c : Chan) (k : Byte) (kind : BackKind) (body : List Byte), backKindOfByte k = some kind →
     body.length + 3 = backFrameSize kind →
       (∃ i, backRow c kind body = some i ∧ backChannelRows c (withCheck (k :: body)) = [i]) ∧
       ∀ a b : Byte, [a, b] ≠ be 2 (checkCode (k :: body)).toNat →
         backChannelRows c (k :: (body ++ [a, b])) = [.badCheck c]) ∧
  ((∀ b : Byte, backByteLevels b =
     [false, b.getLsbD 7, b.getLsbD 6, b.getLsbD 5, b.getLsbD 4, b.getLsbD 3, b.getLsbD 2, b.getLsbD 1, b.getLsbD 0, true]) ∧
   ∀ (c : Chan) (runs : List (List (Byte × Nat) × Nat)) (last : List (Byte × Nat)),
     (∀ r ∈ runs, r.1 ≠ [] ∧ (∀ x ∈ r.1, x.2 < 10) ∧ 10 ≤ r.2) → (∀ x ∈ last, x.2 < 10) → ∀ ended open_,
     ended = runs.flatMap (fun r =>
       r.1.flatMap (fun x => backByteLevels x.1 ++ List.replicate x.2 true) ++ List.replicate r.2 true) →
     open_ = last.flatMap (fun x => backByteLevels x.1 ++ List.replicate x.2 true) →
     backLineRows c ended = runs.flatMap (fun r => backChannelRows c (r.1.map Prod.fst)) ∧
       ∀ k rest, last.map Prod.fst = k :: rest →
         ((∀ kind, backKindOfByte k = some kind → backFrameSize kind ≤ last.length) →
           backLineRows c (ended ++ open_) = backLineRows c ended ++ backChannelRows c (last.map Prod.fst)) ∧
         (∀ kind, backKindOfByte k = some kind → last.length < backFrameSize kind →
           backLineRows c (ended ++ open_) = backLineRows c ended))

/-- ACK NOTICE and SET NOTICE MASK (R179, R180): taken for a kind 1 to 7 and for a mask with bit 7 clear, refused with BAD
FIELD otherwise; the attention output is judged again from the set and the mask. -/
def Obligations.AcknowledgeAndMaskJudgeAttention : Prop :=
  (∀ (l : Link) (kind : Byte) (k : NoticeKind) (s : State), kind.toNat = k.code →
    ∃ t, exec (.ackNotice l kind) s = .next t ∧ OnlyLink l s t ∧ Moves [.links] s t ∧
      (t.links.get l).assembly = .idle ∧
      (t.links.get l).result = { command := 0x1D#8, code := .ok, value := 0 } ∧
      (t.links.get l).notices.get k = none ∧
      (∀ j, j ≠ k → (t.links.get l).notices.get j = (s.links.get l).notices.get j) ∧
      (t.links.get l).mask = (s.links.get l).mask ∧
      ((t.links.get l).attention = true ↔
        ∃ j, j ≠ k ∧ ((s.links.get l).notices.get j).isSome = true ∧ (s.links.get l).mask.get j = true)) ∧
  (∀ (l : Link) (kind : Byte) (s : State), kind.toNat = 0 ∨ 7 < kind.toNat →
    RefusedWith (.ackNotice l kind) l 0x1D#8 .badField s) ∧
  (∀ (l : Link) (m : Byte) (s : State), m.toNat < 128 →
    ∃ t, exec (.setNoticeMask l m) s = .next t ∧ OnlyLink l s t ∧ Moves [.links] s t ∧
      (t.links.get l).assembly = .idle ∧
      (t.links.get l).result = { command := 0x1E#8, code := .ok, value := 0 } ∧
      (t.links.get l).notices = (s.links.get l).notices ∧
      (∀ k : NoticeKind, (t.links.get l).mask.get k = m.getLsbD (k.code - 1)) ∧
      ((t.links.get l).attention = true ↔
        ∃ k : NoticeKind, ((s.links.get l).notices.get k).isSome = true ∧ m.getLsbD (k.code - 1) = true)) ∧
  (∀ (l : Link) (m : Byte) (s : State), 128 ≤ m.toNat → RefusedWith (.setNoticeMask l m) l 0x1E#8 .badField s)

/-- SET CLOCK (R182): a minute above 1439 is BAD FIELD; otherwise the clock is SET with second 0, and its seconds count from
that moment. CLOCK SECOND (R182): 1,000,000 µs after the latest second the clock advances by one second, with the carries of
second, minute and day. An UNSET clock stays UNSET: there the row changes nothing, which is the model's choice (log entry 4).
The instant `max s.now (start + length)` of the row is log entry 1, the model's choice too. -/
def Obligations.ClockIsSetAndCounts : Prop :=
  (∀ (l : Link) (minute day : Word) (s : State),
     (1439 < minute.toNat → RefusedWith (.setClock l minute day) l 0x1F#8 .badField s) ∧
     (minute.toNat ≤ 1439 →
       ∃ t, exec (.setClock l minute day) s = .next t ∧ Posted l 0x1F#8 .ok 0 s t ∧ Moves [.links, .clock] s t ∧
         t.clock = some { minute := minute.toNat, day := day.toNat, second := 0, since := s.now })) ∧
  ((∀ s : State, s.clock = none → exec .clockSecond s = .next s) ∧
   ∀ (s : State) (c : Clock), s.clock = some c → c.second ≤ 59 → c.minute ≤ 1439 → c.day ≤ 65535 →
     ∃ (t : State) (d : Clock), exec .clockSecond s = .next t ∧ t.clock = some d ∧ Moves [.now, .clock] s t ∧
       t.now = max s.now (c.since + 1000000) ∧ d.since = c.since + 1000000 ∧
       d.second ≤ 59 ∧ d.minute ≤ 1439 ∧ d.day ≤ 65535 ∧
       (d.day * 1440 + d.minute) * 60 + d.second = ((c.day * 1440 + c.minute) * 60 + c.second + 1) % (65536 * 86400))

/-! ### Orders and the choice of an order -/

/-- SUBMIT ORDER admits (R2, R6, R7, R9): where every check of R8 passes, the compatibility and fit of R7 among them, the
order takes the first free number, the submit sequence, the geometry derived by R6 and one READY destination for each listed
entry, at the end of the book (a list of what it holds: log entry 18, the model's choice); the result is ACCEPTED with the
number; the admission is an event of R15, on which the step ends with a selection if the drum is free (`finishStep`). -/
def Obligations.SubmitAdmitsAnOrder : Prop :=
  ∀ (l : Link) (pr : Byte) (p : Priority) (tag : BitVec 24) (r : Byte) (length : Word) (curve : Byte)
    (entries : List Byte) (s : State) (d : Nat), d = (readSettings s.store).diameter →
    s.book.orders.length < 16 → s.book.sequence ≤ 4294967295 → 1 ≤ s.book.nextNumber → s.book.nextNumber ≤ 9999 →
    priorityOfByte pr = some p → 1 ≤ tag.toNat → tag.toNat ≤ 999999 →
    GeometryAdmitted d r.toNat length.toNat curve.toNat → ListAdmitted s.store entries →
    (∀ e ∈ entries, EntryTakes s.store (d * r.toNat / 100) (d * r.toNat * 355 / 11300) e) →
    ∃ u o, exec (.submitOrder l pr tag r length curve entries) s = .next (finishStep u) ∧ u.selectDue = true ∧
      Posted l 0x11#8 .accepted o.number s u ∧ Moves [.links, .book, .selectDue] s u ∧
      u.book.orders = s.book.orders ++ [o] ∧
      FirstFree 9999 s.book.nextNumber (s.book.orders.map Order.number) o.number ∧
      u.book.nextNumber = (if o.number = 9999 then 1 else o.number + 1) ∧ u.book.sequence = s.book.sequence + 1 ∧
      o.origin = l ∧ o.sequence = s.book.sequence ∧ o.priority = p ∧ o.tag = tag.toNat ∧ o.resolution = r.toNat ∧
      o.length = length.toNat ∧ o.ioc = d * r.toNat / 100 ∧ o.samples = d * r.toNat * 355 / 11300 ∧
      o.lines = length.toNat * r.toNat / 100 ∧ o.curve = curve.toNat ∧ o.caption = [] ∧ o.attempted = false ∧
      o.state = .waiting ∧ o.dests.length = entries.length ∧
      ∀ k (hk : k < entries.length), ∃ x, o.dests[k]? = some x ∧ NewDestination entries[k].toNat x

/-- SUBMIT ORDER refuses (R8): the first check that fails gives the result code, and nothing but the result record changes. -/
def Obligations.SubmitRefusesByTheFirstFailingCheck : Prop :=
  ∀ (l : Link) (pr : Byte) (tag : BitVec 24) (r : Byte) (length : Word) (curve : Byte) (entries : List Byte) (s : State)
    (i : Instr) (d : Nat), i = .submitOrder l pr tag r length curve entries → d = (readSettings s.store).diameter →
    (16 ≤ s.book.orders.length ∨ 4294967295 < s.book.sequence → RefusedWith i l 0x11#8 .bookFull s) ∧
    (s.book.orders.length < 16 → s.book.sequence ≤ 4294967295 →
      (3 < pr.toNat → RefusedWith i l 0x11#8 .badPriority s) ∧
      (pr.toNat ≤ 3 →
        (tag.toNat = 0 ∨ 999999 < tag.toNat → RefusedWith i l 0x11#8 .badTag s) ∧
        (1 ≤ tag.toNat → tag.toNat ≤ 999999 →
          (¬ GeometryAdmitted d r.toNat length.toNat curve.toNat → RefusedWith i l 0x11#8 .badGeometry s) ∧
          (GeometryAdmitted d r.toNat length.toNat curve.toNat →
            (¬ ListAdmitted s.store entries → RefusedWith i l 0x11#8 .badDestination s) ∧
            (ListAdmitted s.store entries →
              ∀ k (hk : k < entries.length),
                ¬ EntryTakes s.store (d * r.toNat / 100) (d * r.toNat * 355 / 11300) entries[k] →
                (∀ j (hj : j < k),
                  EntryTakes s.store (d * r.toNat / 100) (d * r.toNat * 355 / 11300) (entries[j]'(by omega))) →
                ∃ t, exec i s = .next t ∧ Posted l 0x11#8 .incompatible k s t ∧ Moves [.links] s t)))))

/-- ADD CAPTION (R10): its three refusals in order; taken, every character is appended, a code outside 0x20 to 0x7E as 0x20,
up to 240 characters, with OK and the length or CAPTION CLIPPED and 240. AMEND PRIORITY (R11): its three refusals in order;
taken, the priority is replaced and a selection follows if the drum is free (`finishStep`); to the priority the order already
has, it changes nothing, and that no selection follows then is the model's choice (log entry 20). -/
def Obligations.CaptionAndPriorityAreAmended : Prop :=
  (∀ (l : Link) (n : Word) (chars : List Byte) (s : State) (i : Instr), i = .addCaption l n chars → chars.length ≤ 48 →
     (findOrder s n.toNat = none → RefusedWith i l 0x12#8 .noSuchOrder s) ∧
     ∀ o, findOrder s n.toNat = some o →
       (o.origin ≠ l → RefusedWith i l 0x12#8 .otherLink s) ∧
       (o.origin = l →
         (o.attempted = true → RefusedWith i l 0x12#8 .captionClosed s) ∧
         (o.attempted = false → o.caption.length ≤ 240 →
           ∃ (t : State) (o' : Order), exec i s = .next t ∧ Moves [.links, .book] s t ∧ OnlyOrder n.toNat s t ∧
             findOrder t n.toNat = some o' ∧
             o' = { o with caption :=
               (o.caption ++ chars.map (fun b => if 0x20 ≤ b.toNat ∧ b.toNat ≤ 0x7E then b else 0x20#8)).take 240 } ∧
             (if o.caption.length + chars.length ≤ 240 then
               Posted l 0x12#8 .ok (o.caption.length + chars.length) s t
              else Posted l 0x12#8 .captionClipped 240 s t)))) ∧
  (∀ (l : Link) (n : Word) (pr : Byte) (s : State) (i : Instr), i = .amendPriority l n pr →
     (findOrder s n.toNat = none → RefusedWith i l 0x13#8 .noSuchOrder s) ∧
     ∀ o, findOrder s n.toNat = some o →
       (3 < pr.toNat → RefusedWith i l 0x13#8 .badPriority s) ∧
       ∀ p, p.rank = pr.toNat →
         (o.state = .withdrawing ∨ o.state = .filing → RefusedWith i l 0x13#8 .busy s) ∧
         (o.state ≠ .withdrawing → o.state ≠ .filing →
           (p = o.priority → ∃ t, exec i s = .next t ∧ Posted l 0x13#8 .ok 0 s t ∧ Moves [.links] s t) ∧
           (p ≠ o.priority →
             ∃ u, exec i s = .next (finishStep u) ∧ u.selectDue = true ∧ Posted l 0x13#8 .ok 0 s u ∧
               Moves [.links, .book, .selectDue] s u ∧ OnlyOrder n.toNat s u ∧
               findOrder u n.toNat = some { o with priority := p })))

/-- WITHDRAW ORDER on a WAITING order (R12, R13, R22, R24, R144): every destination is treated by its state, the references
are appended in index order, and the order goes to FILING, or leaves the book with ORDER DONE where none of its references is
queued (R24); the withdrawal is an event of R15, on which the step ends with a selection if the drum is free (`finishStep`).
The three refusals of R12 in their order. -/
def Obligations.WithdrawTreatsEachDestination : Prop :=
  (∀ (s : State) (d : Destination),
    (d.state = .final → withdrawDest s d = d) ∧
    (d.state ≠ .final →
      withdrawDest s d =
        { d with state := .final, outcome := some .withdrawn, channel := none, retryTimer := none,
                 endTime := s.clock.map (fun c => { minute := c.minute, day := c.day }),
                 attempts := if d.state = .sending then d.attempts + 1 else d.attempts }) ∧
    ∀ n i, withdrawRef n i d =
      (if d.state = .delayed ∨ d.state = .sending ∨ (d.state = .ready ∨ d.state = .assigned) ∧ 1 ≤ d.attempts then
        some { order := n, dest := i, channel := if d.state = .sending then d.channel else none }
       else none)) ∧
  ∀ (l : Link) (n : Word) (s : State) (i : Instr), i = .withdrawOrder l n →
    (findOrder s n.toNat = none → RefusedWith i l 0x14#8 .noSuchOrder s) ∧
    ∀ o, findOrder s n.toNat = some o →
      (o.state = .filing → RefusedWith i l 0x14#8 .notWithdrawable s) ∧
      (o.state = .withdrawing → RefusedWith i l 0x14#8 .alreadyWithdrawing s) ∧
      (o.state = .waiting →
        ∃ u, exec i s = .next (finishStep u) ∧ u.selectDue = true ∧
          Moves [.links, .book, .filing, .selectDue] s u ∧
          (∀ k, (u.links.get k).result =
            if k = l then { command := 0x14#8, code := .ok, value := 0 } else (s.links.get k).result) ∧
          u.filing = s.filing ++ withdrawRefs n.toNat 0 o.dests ∧
          (∀ m, m ≠ n.toNat → findOrder u m = findOrder s m) ∧
          ((∃ r ∈ u.filing, r.order = n.toNat) →
            findOrder u n.toNat = some { o with state := .filing, dests := o.dests.map (withdrawDest s) } ∧
              ∀ k, (u.links.get k).notices = (s.links.get k).notices) ∧
          ((∀ r ∈ u.filing, r.order ≠ n.toNat) →
            findOrder u n.toNat = none ∧ NoticedToBoth (.orderDone n.toNat) u))

/-- WITHDRAW ORDER on an order in MOUNT REQUESTED or ON DRUM (R13, R37, R40, R62): the request is cancelled, the mounted print
is asked off, or the open round is aborted with its order WITHDRAWING; where the abort closes the round at once the effects of
R37 follow, and otherwise the order waits, WITHDRAWING, for the head. In the first two cases every destination is FINAL, and
the order goes to FILING, or leaves the book with ORDER DONE where none of its references is queued (R13, R24). A cut drive
keeps its lock count and loose-miss count (`DriveCut`), which is the model's choice (log entry 25). -/
def Obligations.WithdrawActsOnTheMountAndTheRound : Prop :=
  ∀ (l : Link) (n : Word) (s : State) (i : Instr) (o : Order) (tag : Nat), i = .withdrawOrder l n →
    findOrder s n.toNat = some o →
    (o.state = .mountRequested → s.mount = .requested tag →
      ∃ u, exec i s = .next (finishStep u) ∧ u.selectDue = true ∧ u.mount = .empty ∧
        NoticedToBoth (.mountRequest .cancelled tag none) u ∧ u.filing = s.filing ++ withdrawRefs n.toNat 0 o.dests ∧
        (∀ k, (u.links.get k).result =
          if k = l then { command := 0x14#8, code := .ok, value := 0 } else (s.links.get k).result) ∧
        Moves [.links, .book, .filing, .mount, .selectDue] s u ∧ WithdrawnOrderLeaves n.toNat o s u) ∧
    (o.state = .onDrum → s.round.state = .closed → s.mount = .mounted tag →
      ∃ u, exec i s = .next (finishStep u) ∧ u.selectDue = true ∧ u.mount = .unmountRequested tag ∧ DriveCut s u ∧
        NoticedToBoth (.mountRequest .unmount tag none) u ∧ u.filing = s.filing ++ withdrawRefs n.toNat 0 o.dests ∧
        (∀ k, (u.links.get k).result =
          if k = l then { command := 0x14#8, code := .ok, value := 0 } else (s.links.get k).result) ∧
        Moves [.links, .book, .filing, .drum, .mount, .selectDue] s u ∧ WithdrawnOrderLeaves n.toNat o s u) ∧
    (o.state = .onDrum → s.round.state ≠ .closed → s.round.order = some n.toNat →
      ∃ u, exec i s = .next (finishStep u) ∧ u.selectDue = true ∧ Aborted s u ∧
        u.filing = s.filing ++ withdrawRefs n.toNat 0 o.dests ∧ (∀ m, m ≠ n.toNat → findOrder u m = findOrder s m) ∧
        (∀ k, (u.links.get k).result =
          if k = l then { command := 0x14#8, code := .ok, value := 0 } else (s.links.get k).result) ∧
        (¬ ClosesAtOnce s →
          findOrder u n.toNat = some { o with state := .withdrawing, dests := o.dests.map (withdrawDest s) } ∧
          u.mount = s.mount ∧ u.drum = s.drum) ∧
        (ClosesAtOnce s → ∃ b, Moves [.links, .book, .filing] s b ∧ b.filing = u.filing ∧
          findOrder b n.toNat = some { o with state := .withdrawing, dests := o.dests.map (withdrawDest s) } ∧
          RoundClosed b u) ∧
        Moves [.links, .book, .filing, .round, .drum, .head, .mount, .lineStore, .channels, .selectDue] s u)

/-- RETRY DELAY EXPIRY (R20): a DELAYED destination becomes READY, its timer stopped, at the instant its delay runs out; the
timebase is then at that instant or later (log entry 1). An expiry without a running delay changes nothing, which is the
model's choice (log entry 4). -/
def Obligations.RetryDelayExpiryMakesReady : Prop :=
  ∀ (n j : Nat) (s : State), (findDest s n j = none → exec (.retryDelayExpiry n j) s = .next s) ∧
    ∀ d, findDest s n j = some d →
    (∀ r, d.state = .delayed → d.retryTimer = some r →
      ∃ u, exec (.retryDelayExpiry n j) s = .next (finishStep u) ∧ u.selectDue = true ∧
        Moves [.now, .book, .selectDue] s u ∧ u.now = max s.now (r.start + r.length) ∧ OnlyOrder n s u ∧
        findDest u n j = some { d with state := .ready, retryTimer := none } ∧
        ∀ k, k ≠ j → findDest u n k = findDest s n k) ∧
    (d.state ≠ .delayed ∨ d.retryTimer = none → exec (.retryDelayExpiry n j) s = .next s)

/-- FILING TRANSFER (R23, R143, R145): the head reference becomes the newest record of the log (`RecordFiled`), under the
first free filing number, with the fields of the order and the destination; RECEIPT FILED goes to both links. The record stays
unless it is removable at once, no link present and no slip wanted (R146): then the place it freed lets the next reference
through in the same step, and so on. With a full log or an empty queue the row changes nothing, which is the model's choice
(log entry 4). -/
def Obligations.FilingTransferFilesTheHeadReference : Prop :=
  (∀ s : State, s.filing = [] ∨ 32 ≤ s.log.length → exec .filingTransfer s = .next s) ∧
  ∀ (s : State) (ref : FilingRef) (rest : List FilingRef), s.filing = ref :: rest → s.log.length < 32 →
    ∃ m u, exec .filingTransfer s = .next (finishStep u) ∧ HeadFiled ref rest s m ∧
      (s.log.length < m.log.length → u = m) ∧ (m.log.length ≤ s.log.length → RefsFiled rest m u)

/-- No selection is made while a round is open or the head is not HOME (R15), nor at the end of a step without an event of
R15. The scratch flag `selectDue`, and the one selection it asks for at the END of a step, are the model's choice (log entry
17, which this and the last clause rest on): R15 makes a selection each time a listed event is taken. The choice of a
selection (R16): a candidate; the order ON DRUM unless a candidate is of strictly higher priority; otherwise one of the
highest priority, of the mounted tag where one is; and the lowest submit sequence among those. The end of a step in which an
event of R15 was met (R15, R16, R31; one selection, at the end of the step, by log entry 17, the model's choice): with the
drum free the selection is made. It ends without a choice just when no order is a candidate; otherwise the scheduler acts on
the choice, round assembly follows for the order ON DRUM, and a walk that formed no round and made a destination FINAL is
followed by a fresh selection. -/
def Obligations.SelectionFollowsTheFourSteps : Prop :=
  (∀ s : State, s.round.state ≠ .closed ∨ s.head.state ≠ .home ∨ s.selectDue = false →
     finishStep s = { s with selectDue := false }) ∧
  (∀ (s : State) (o : Order), chooseOrder s = some o →
     (∀ a ∈ s.book.orders, ∀ b ∈ s.book.orders, a.state = .onDrum → b.state = .onDrum → a = b) →
     o ∈ s.book.orders ∧ (o.state = .waiting ∨ o.state = .mountRequested ∨ o.state = .onDrum) ∧
     (∃ d ∈ o.dests, d.state = .ready) ∧
     ∀ x ∈ s.book.orders, (x.state = .waiting ∨ x.state = .mountRequested ∨ x.state = .onDrum) →
       (∃ d ∈ x.dests, d.state = .ready) →
       o.priority.rank ≤ x.priority.rank ∧
       (x.priority = o.priority →
         (x.state = .onDrum → x = o) ∧
         (o.state ≠ .onDrum →
           (∀ t, s.mount = .mounted t → x.tag = t → o.tag = t) ∧
           ((∀ t, s.mount = .mounted t → o.tag = t → x.tag = t) → o.sequence ≤ x.sequence)))) ∧
  (∀ s : State,
     (chooseOrder s = none ↔ ∀ o ∈ s.book.orders, ¬ Candidate o) ∧
     (s.selectDue = true → s.round.state = .closed → s.head.state = .home →
       (chooseOrder s = none → finishStep s = { s with selectDue := false }) ∧
       ∀ o u, chooseOrder s = some o →
         (actOnChoice o s = (u, false) → finishStep s = { u with selectDue := false }) ∧
         (actOnChoice o s = (u, true) → ∀ v,
           (assemble o.number u = (v, false) → finishStep s = { v with selectDue := false }) ∧
           (assemble o.number u = (v, true) → finishStep s = finishStep { v with selectDue := true }))))

/-- What the scheduler does with the choice (R17, R48, R61): an order ON DRUM goes on to assembly; one of the mounted tag
takes the drum, the order that held it WAITING; one already MOUNT REQUESTED waits; any other asks for a mount of its tag, on
which the drive is cut (R48), the mount is REQUESTED and MOUNT REQUEST goes to both links (R61), and the orders ON DRUM and
MOUNT REQUESTED go to WAITING. The flag says whether round assembly follows. A cut drive keeps its lock count and loose-miss
count (`DriveCut`), which is the model's choice (log entry 25). -/
def Obligations.ChoiceIsActedOn : Prop :=
  ∀ (o : Order) (s : State), findOrder s o.number = some o →
    (o.state = .onDrum → actOnChoice o s = (s, true)) ∧
    (o.state ≠ .onDrum → s.mount = .mounted o.tag →
      ∃ u, actOnChoice o s = (u, true) ∧ Moves [.book] s u ∧ findOrder u o.number = some { o with state := .onDrum } ∧
        ∀ n x, n ≠ o.number → findOrder s n = some x →
          findOrder u n = some { x with state := if x.state = .onDrum then .waiting else x.state }) ∧
    (o.state = .mountRequested → s.mount ≠ .mounted o.tag → actOnChoice o s = (s, false)) ∧
    (o.state = .waiting → s.mount ≠ .mounted o.tag →
      ∃ u, actOnChoice o s = (u, false) ∧ Moves [.links, .book, .drum, .mount] s u ∧ u.mount = .requested o.tag ∧
        DriveCut s u ∧ NoticedToBoth (.mountRequest .mount o.tag (some o.number)) u ∧
        findOrder u o.number = some { o with state := .mountRequested } ∧
        ∀ n x, n ≠ o.number → findOrder s n = some x →
          findOrder u n =
            some { x with state := if x.state = .onDrum ∨ x.state = .mountRequested then .waiting else x.state })

/-- What the scheduler makes of a reported outcome (R18, R19): discarded unless the destination is SENDING on that channel; a
retryable one leaves it DELAYED while the allowance lasts, and any other makes it FINAL with a filing reference. Every other
destination and order stays, and the order goes to FILING where that makes all its destinations FINAL (R24). The details of
the call go into the destination (R3, R141), and the reference carries the channel (R144). -/
def Obligations.OutcomeIsPlacedByTheScheduler : Prop :=
  ∀ (c : Chan) (oc : CallOutcome) (rep : Option Report) (s : State) (k : Call) (o : Order) (d : Destination),
    (s.channels.get c).call = some k → findOrder s k.order = some o → o.dests[k.dest]? = some d →
    (d.state ≠ .sending ∨ d.channel ≠ some c → reportOutcome c oc rep s = s) ∧
    (d.state = .sending → d.channel = some c →
      (retryable oc = true ↔
        oc = .noAnswer ∨ oc = .lineLost ∨ oc = .dropped ∨ oc = .phasingFailed ∨ oc = .holdTimeout) ∧
      ∃ (u : State) (x : Destination), reportOutcome c oc rep s = u ∧
        Moves [.links, .book, .filing, .selectDue] s u ∧ OnlyOrder k.order s u ∧
        findOrder u k.order = some { o with
          dests := o.dests.set k.dest x,
          state := if o.state ≠ .withdrawing ∧ ∀ y ∈ o.dests.set k.dest x, y.state = .final then .filing else o.state } ∧
        x.attempts = d.attempts + 1 ∧ x.channel = none ∧
        x.station = (s.channels.get c).station ∧ x.sent = (s.channels.get c).sent ∧
        x.resent = (s.channels.get c).resent ∧ x.skipped = (s.channels.get c).skipped ∧ x.report = rep ∧
        x.endTime = s.clock.map (fun k => { minute := k.minute, day := k.day }) ∧ x.entry = d.entry ∧
        x.startTime = d.startTime ∧
        (∀ e, (readEntry s.store d.entry = .valid e ∧ retryable oc = true ∧ d.attempts < e.retries) →
          x.state = .delayed ∧ x.outcome = d.outcome ∧ u.filing = s.filing ∧ findDest u k.order k.dest = some x ∧
          x.retryTimer = some { start := s.now, length := (readSettings s.store).retryDelay * 1000000 }) ∧
        ((∀ e, readEntry s.store d.entry = .valid e → retryable oc = true → e.retries ≤ d.attempts) →
          x.state = .final ∧ x.outcome = some oc ∧ x.exhausted = retryable oc ∧
          u.filing = s.filing ++ [{ order := k.order, dest := k.dest, channel := some c }] ∧
          findDest u k.order k.dest = some x))

/-! ### Rounds -/

/-- The walk of round assembly (R28, R29, R30): every member is an IDLE channel serving a READY destination whose entry is
VALID, compatible, and of the kind and configuration that R28 asks for; no destination is given two channels, at most four are
assigned, and a destination that failed is READY, has an entry, and is no member. Who is passed over and who fails in the walk
(R28, R30): a READY destination that is neither a member nor failed finds four channels taken before it or none that can serve
it; one that failed fails the recheck, for which, its entry being VALID, there was an IDLE channel not taken before it: the
one it is LEASED on, or a dialled one. That a READY destination whose entry is EMPTY or DAMAGED fails the recheck, and is not
passed over, wherever a channel is left in the walk, is the model's choice (log entry 10). What assembly makes of the walk
(R27, R30, R31): nothing unless the drum is free, the cover closed, the lamp OK and the print MOUNTED. Each failed destination
is INCOMPATIBLE with its reference and its end time from the clock (R144). With a member the round is ASSEMBLING at the
highest class of its entries, with S kept (log entry 31), the held-revolution count 0 and the drum under the spin command
(R49; `spinCommand`, O27 with log entry 25, the model's choice); every member's destination is SENDING on its channel, whose
call has begun, its latest details gone (R3). Without one no round forms, and the flag asks for a fresh selection where one
failed. -/
def Obligations.WalkAssignsEligibleChannels : Prop :=
  (∀ (s : State) (o : Order) (w : Walk), w = walkOrder s o →
     (∀ c i, w.members.get c = some i →
       (s.channels.get c).state = .idle ∧
       ∃ d e, o.dests[i]? = some d ∧ d.state = .ready ∧ readEntry s.store d.entry = .valid e ∧
         compatible o.ioc o.samples e = true ∧
         ((e.kind = .leased c ∧ (readSettings s.store).config.get c = .leased d.entry) ∨
           (e.kind = .dialled ∧ (readSettings s.store).config.get c = .dialled ∧
             ∀ b : Chan, b.number < c.number → (readSettings s.store).config.get b = .dialled →
               (s.channels.get b).state = .idle → ∃ j, j < i ∧ w.members.get b = some j))) ∧
     (∀ b c i, w.members.get b = some i → w.members.get c = some i → b = c) ∧
     w.classes.length ≤ 4 ∧ w.failed.Nodup ∧
     ∀ i ∈ w.failed, (∀ c, w.members.get c ≠ some i) ∧ ∃ d, o.dests[i]? = some d ∧ d.state = .ready) ∧
  (∀ (s : State) (o : Order) (w : Walk) (i : Nat) (d : Destination), w = walkOrder s o → o.dests[i]? = some d →
     d.state = .ready →
     ((∀ c, w.members.get c ≠ some i) → i ∉ w.failed → PassedOver s w i d) ∧ (i ∈ w.failed → FailsRecheck s o w i d)) ∧
  (∀ (s : State) (n : Nat) (o : Order) (w : Walk) (v : State) (again : Bool), findOrder s n = some o → w = walkOrder s o →
     assemble n s = (v, again) →
     (¬ (s.round.state = .closed ∧ s.head.state = .home ∧ s.pins.cover = true ∧ s.converter.lamp = .ok ∧
         ∃ t, s.mount = .mounted t) → v = s ∧ again = false) ∧
     (s.round.state = .closed → s.head.state = .home → s.pins.cover = true → s.converter.lamp = .ok →
       (∃ t, s.mount = .mounted t) →
       v.filing = s.filing ++ w.failed.map (fun i => { order := n, dest := i, channel := none }) ∧
       (∀ i d, o.dests[i]? = some d →
         (i ∈ w.failed → ∃ x, findDest v n i = some x ∧ MadeIncompatible s d x) ∧
         (∀ c, w.members.get c = some i → ∃ x, findDest v n i = some x ∧ SendingOn c s d x) ∧
         (i ∉ w.failed → (∀ c, w.members.get c ≠ some i) → findDest v n i = some d)) ∧
       ((∀ c, w.members.get c = none) →
         (again = true ↔ w.failed ≠ []) ∧ Moves [.book, .filing] s v ∧
         ∃ x, findOrder v n = some x ∧ x.attempted = o.attempted ∧
           x.state = (if w.failed ≠ [] ∧ (∀ d ∈ x.dests, d.state = .final) ∧ o.state ≠ .withdrawing then .filing else o.state)) ∧
       ((∃ c, w.members.get c ≠ none) →
         again = false ∧ Moves [.book, .filing, .round, .drum, .head, .channels] s v ∧ ∃ k : LpmClass,
           v.round = { state := .assembling, order := some n, drumClass := some k, members := w.members,
                       scanComplete := false, samples := o.samples } ∧
           (∃ c i d e, w.members.get c = some i ∧ o.dests[i]? = some d ∧ readEntry s.store d.entry = .valid e ∧ e.lpm = k) ∧
           (∀ c i d e, w.members.get c = some i → o.dests[i]? = some d → readEntry s.store d.entry = .valid e →
             e.lpm.lpm ≤ k.lpm) ∧
           v.head = { s.head with held := 0 } ∧ v.drum = (spinCommand k s).drum ∧
           (∀ c i, w.members.get c = some i → ∃ call, (v.channels.get c).call = some call ∧ call.order = n ∧ call.dest = i ∧
             (v.channels.get c).state =
               (if (readSettings s.store).config.get c = .dialled then .dialling else .announce)) ∧
           (∀ c, w.members.get c = none → v.channels.get c = s.channels.get c) ∧
           ∃ x, findOrder v n = some x ∧ x.attempted = true ∧ x.state = o.state)))

/-- The beginning of a call (R100, R102, R104, R3, R5): a dialled channel goes off hook into DIALLING, a leased one into
ANNOUNCE with its line timer running; the call copy is taken, the destination is SENDING with its latest details gone, and the
order is attempted. The picture state, the counters and the hold are as at the start of each call (R124, R137), and the
carrier-loss timer runs where carrier is absent (R114). The dialling place and the count of periods begun are the model's
fields (log entry 31). -/
def Obligations.CallBeginsByTheConfiguration : Prop :=
  ∀ (c : Chan) (n i : Nat) (s : State) (o : Order) (d : Destination) (e : Entry), findOrder s n = some o →
    o.dests[i]? = some d → readEntry s.store d.entry = .valid e →
    ∃ (t : State) (k : Call), t = beginCall c n i s ∧ Moves [.book, .channels] s t ∧ OnlyChannel c s t ∧ OnlyOrder n s t ∧
      (t.channels.get c).call = some k ∧ k.order = n ∧ k.dest = i ∧ k.entryIndex = d.entry ∧ k.entry = e ∧
      k.config = (readSettings s.store).config.get c ∧ k.bureau = (readSettings s.store).bureau ∧
      (k.config = .dialled →
        (t.channels.get c).state = .dialling ∧ (t.channels.get c).hook = .offHook ∧
        (t.channels.get c).stateTimer = some s.now ∧ (t.channels.get c).dial = .settle) ∧
      (k.config ≠ .dialled →
        (t.channels.get c).state = .announce ∧ (t.channels.get c).hook = (s.channels.get c).hook ∧
        (t.channels.get c).stateTimer = some s.now ∧
        (t.channels.get c).lineTimer = some { start := s.now, begun := 0 } ∧
        (t.channels.get c).linePeriod = 60000000 / e.lpm.lpm ∧
        (t.channels.get c).carrierTimer = (if s.pins.carrier.get c then none else some s.now)) ∧
      (t.channels.get c).ending = none ∧ (t.channels.get c).station = none ∧ (t.channels.get c).phaseCount = 0 ∧
      (t.channels.get c).sendPosition = 0 ∧ (t.channels.get c).queue = [] ∧ (t.channels.get c).hold = none ∧
      (t.channels.get c).sent = 0 ∧ (t.channels.get c).resent = 0 ∧ (t.channels.get c).skipped = 0 ∧
      (t.channels.get c).refused = 0 ∧ (t.channels.get c).trouble = (s.channels.get c).trouble ∧
      (t.channels.get c).fault = (s.channels.get c).fault ∧ (t.channels.get c).service = (s.channels.get c).service ∧
      findOrder t n = some { o with attempted := true, dests := o.dests.modify i (fun d =>
        { d with state := .sending, station := none, endTime := none, report := none, sent := 0, resent := 0, skipped := 0,
                 startTime := s.clock.map (fun k => { minute := k.minute, day := k.day }) }) }

/-- The start condition (R32, R57, R73, R84): in ASSEMBLING, the drum LOCKED at the round's class and every member PHASED make
the round SCANNING; the head is SCANNING, the converter has its working curve and no reference, and the line store the retake
depth. Otherwise the test changes nothing. -/
def Obligations.ScanningStartsWhenTheDrumAndAllMembersAreReady : Prop :=
  ∀ s : State, noMembers s.round = false →
    (s.round.state = .assembling → s.drum.state = .locked → s.drum.target = s.round.drumClass →
      (∀ c, s.round.members.get c ≠ none → (s.channels.get c).state = .phased) →
      ∃ t, testStart s = t ∧ t.round = { s.round with state := .scanning } ∧ t.head = { s.head with state := .scanning } ∧
        t.lineStore = { s.lineStore with depth := some (readSettings s.store).depth } ∧ t.converter.pair = none ∧
        t.converter.latest = none ∧ t.converter.invalidCount = 0 ∧ t.converter.invalidTotal = 0 ∧
        t.converter.lamp = s.converter.lamp ∧
        (∀ n o, s.round.order = some n → findOrder s n = some o →
          t.converter.curve = some { index := o.curve, points := readCurvePoints s.store o.curve }) ∧
        Moves [.round, .head, .converter, .lineStore] s t) ∧
    (s.round.state ≠ .assembling ∨ s.drum.state ≠ .locked ∨ s.drum.target ≠ s.round.drumClass ∨
      (∃ c, s.round.members.get c ≠ none ∧ (s.channels.get c).state ≠ .phased) → testStart s = s)

/-- A member leaves the round (R32, R33, R35, R36, R92): its marks go. While others remain, an ASSEMBLING round has its start
condition tested, and nothing else of a scanning or draining round changes. With the last, an ASSEMBLING round is CLOSED; a
SCANNING one, or a DRAINING one whose head has not been commanded home, has its store flushed and its head commanded home; in
DRAINING with the head at rest the store is flushed and the round CLOSED, and a RETURNING head is not commanded again.
(`CallEnded` says that the end of a member's call is this. That a drive cut as the round closes keeps its lock count and
loose-miss count, `DriveCut` in `RoundClosed`, is log entry 25, the model's choice.) -/
def Obligations.LastMemberLeavingEndsTheScan : Prop :=
  ∀ (c : Chan) (i : Nat) (s u w : State), s.round.members.get c = some i → u = leaveRound c s →
    w = { s with round := { s.round with members := s.round.members.set c none },
                 lineStore := releaseAll c s.lineStore } →
    u.round.members.get c = none ∧ u.channels = s.channels ∧ (∀ m, askLine c m u.lineStore = none) ∧
    ((∃ d, d ≠ c ∧ s.round.members.get d ≠ none) →
      (s.round.state = .assembling → u = testStart w) ∧
      (s.round.state = .scanning ∨ s.round.state = .draining → u = w)) ∧
    ((∀ d, d ≠ c → s.round.members.get d = none) →
      (s.round.state = .assembling → RoundClosed s u ∧ u.head = s.head) ∧
      (s.round.state = .scanning ∨ s.round.state = .draining →
        u.lineStore.held = [] ∧ u.lineStore.depth = s.lineStore.depth ∧
        (s.head.state = .scanning → HeadCommandedHome s u ∧
          (s.pins.home = false → u.round.state = .draining ∧ u.round.scanComplete = s.round.scanComplete) ∧
          (s.pins.home = true → RoundClosed s u))) ∧
      (s.round.state = .draining →
        (s.head.state = .home ∨ s.head.state = .fault → u.head = s.head ∧ RoundClosed s u) ∧
        (s.head.state = .returning → u.head = s.head ∧ u.round = w.round)))

/-- HALT ROUND (R41): OK in every state; an open round is aborted and its members' destinations are READY again, and where the
abort closes it at once the effects of R37 follow. Otherwise the drum goes on as it was, the print stays, the order keeps its
state and nothing is noticed. A lamp FAULT returns to OK with the count 0; a head in FAULT is commanded home. The close of the
round, the lamp's return to OK and the head's arrival at HOME are selection events (R27, R37; `selectDue`); the one selection
they ask for is log entry 17, and that a cut drive keeps its lock count and loose-miss count (`DriveCut`, in `RoundClosed`)
log entry 25, both the model's choice. -/
def Obligations.HaltRoundAbortsAndClears : Prop :=
  ∀ (l : Link) (s : State),
    ∃ u, exec (.haltRound l) s = .next (finishStep u) ∧
      (∀ k, (u.links.get k).result =
        if k = l then { command := 0x16#8, code := .ok, value := 0 } else (s.links.get k).result) ∧
      (s.round.state ≠ .closed → Aborted s u ∧ MembersReturned s u) ∧
      (s.round.state ≠ .closed → ¬ ClosesAtOnce s → u.drum = s.drum ∧ u.mount = s.mount ∧ OrdersKeepState s u ∧
        ∀ k, (u.links.get k).notices = (s.links.get k).notices) ∧
      (ClosesAtOnce s → ∃ b, Moves [.links, .book, .selectDue] s b ∧ MembersReturned s b ∧ OrdersKeepState s b ∧
        RoundClosed b u) ∧
      (s.round.state = .closed → u.round = s.round ∧ u.channels = s.channels ∧ u.book = s.book ∧
        u.lineStore = s.lineStore ∧ u.drum = s.drum ∧ u.mount = s.mount) ∧
      (s.converter.lamp = .fault →
        u.converter = { s.converter with lamp := .ok, invalidCount := 0 } ∧ u.selectDue = true) ∧
      (s.converter.lamp = .ok → u.converter = s.converter) ∧
      (s.head.state = .fault → HeadCommandedHome s u ∧ (s.pins.home = true → u.selectDue = true)) ∧
      (s.round.state = .closed → s.head.state ≠ .fault → u.head = s.head) ∧
      Moves [.links, .book, .round, .drum, .head, .mount, .converter, .lineStore, .channels, .selectDue] s u

/-- COVER OPEN, CLAMP OPEN on a MOUNTED print, and LOCK LIMIT, each with a round open (R37, R42, R44, R45, R48, R54): the
drive is cut, the abort procedure runs, the members' destinations are READY again, and DRUM FAULT goes to both links with its
cause and the round's order number. Where the abort closes the round at once, the effects of R37 follow, from a state in which
the drive is cut already and the destinations are READY; otherwise the drive is cut and nothing else becomes of the drum, and
but for the clamp the print stays and the order keeps its state. The instant `max s.now (start + length)` of LOCK LIMIT is log
entry 1, and that a cut drive keeps its lock count and loose-miss count (`DriveCut`) log entry 25, both the model's choice. -/
def Obligations.DeviceFaultsAbortTheRound : Prop :=
  (∀ s : State, s.round.state ≠ .closed →
    ∃ u, exec .coverOpen s = .next (finishStep u) ∧ Aborted s u ∧ MembersReturned s u ∧
      (ClosesAtOnce s → ∃ b, Moves [.book, .drum, .pins, .selectDue] s b ∧ DriveCut s b ∧ MembersReturned s b ∧
        OrdersKeepState s b ∧ RoundClosed b u) ∧
      (¬ ClosesAtOnce s → DriveCut s u ∧ u.mount = s.mount ∧ OrdersKeepState s u) ∧
      NoticedToBoth (.drumFault .cover s.round.order) u ∧ u.pins = { s.pins with cover := false } ∧
      (s.drum.state = .spinning ∨ s.drum.state = .locked → u.drum.state = .coasting ∧ u.drum.target = none) ∧
      ((∀ n o, s.round.order = some n → findOrder s n = some o → o.state ≠ .withdrawing) → u.mount = s.mount) ∧
      Moves [.links, .book, .round, .drum, .head, .mount, .lineStore, .channels, .pins, .selectDue] s u) ∧
  (∀ (s : State) (tag : Nat), s.round.state ≠ .closed → s.mount = .mounted tag →
    ∃ u, exec .clampOpen s = .next (finishStep u) ∧ Aborted s u ∧ MembersReturned s u ∧ u.mount = .empty ∧
      (ClosesAtOnce s → ∃ b, Moves [.book, .drum, .mount, .pins, .selectDue] s b ∧ DriveCut s b ∧ b.mount = .empty ∧
        MembersReturned s b ∧ (∀ n, (findOrder b n).map Order.state =
          (findOrder s n).map fun o => if o.state = .onDrum then .waiting else o.state) ∧ RoundClosed b u) ∧
      (¬ ClosesAtOnce s → DriveCut s u ∧ ∀ n, (findOrder u n).map Order.state =
        (findOrder s n).map fun o => if o.state = .onDrum then .waiting else o.state) ∧
      NoticedToBoth (.drumFault .clamp s.round.order) u ∧ u.pins = { s.pins with clamp := false } ∧
      (s.drum.state = .spinning ∨ s.drum.state = .locked → u.drum.state = .coasting ∧ u.drum.target = none) ∧
      (∀ n o, s.round.order = some n → findOrder s n = some o → o.state = .onDrum →
        ∃ x, findOrder u n = some x ∧ x.state = .waiting) ∧
      Moves [.links, .book, .round, .drum, .head, .mount, .lineStore, .channels, .pins, .selectDue] s u) ∧
  ∀ (s : State) (t0 : Nat), s.drum.state = .spinning → s.drum.lockTimer = some t0 →
    s.round.state = .assembling ∨ s.round.state = .scanning →
    ∃ u, exec .lockLimit s = .next (finishStep u) ∧ Aborted { s with now := max s.now (t0 + 20000000) } u ∧
      (ClosesAtOnce s → ∃ b, Moves [.now, .book, .drum, .selectDue] s b ∧ b.now = max s.now (t0 + 20000000) ∧
        DriveCut { s with now := b.now } b ∧ MembersReturned s b ∧ OrdersKeepState s b ∧ RoundClosed b u) ∧
      (¬ ClosesAtOnce s → DriveCut { s with now := u.now } u ∧ u.now = max s.now (t0 + 20000000) ∧ u.mount = s.mount ∧
        OrdersKeepState s u) ∧
      MembersReturned s u ∧ NoticedToBoth (.drumFault .lock s.round.order) u ∧ u.drum.state = .coasting ∧
      u.drum.target = none ∧ u.drum.lockTimer = none ∧
      Moves [.now, .links, .book, .round, .drum, .head, .mount, .lineStore, .channels, .selectDue] s u

/-! ### Drum, head and mounting -/

/-- MOUNT CONFIRM (R63): the first check that fails gives the result; taken, the print is MOUNTED, the order that asked for it
is ON DRUM, and a selection follows. -/
def Obligations.MountConfirmChecksInOrder : Prop :=
  ∀ (l : Link) (tag : BitVec 24) (s : State) (i : Instr), i = .mountConfirm l tag →
    ((∀ t, s.mount ≠ .requested t) → RefusedWith i l 0x15#8 .notRequested s) ∧
    ∀ t, s.mount = .requested t →
      (tag.toNat ≠ t → RefusedWith i l 0x15#8 .wrongTag s) ∧
      (tag.toNat = t →
        (s.pins.clamp = false → RefusedWith i l 0x15#8 .clampOpen s) ∧
        (s.pins.clamp = true →
          (s.drum.state ≠ .stopped → RefusedWith i l 0x15#8 .drumTurning s) ∧
          (s.drum.state = .stopped →
            ∃ u, exec i s = .next (finishStep u) ∧ u.selectDue = true ∧ Posted l 0x15#8 .ok 0 s u ∧
              Moves [.links, .book, .mount, .selectDue] s u ∧ u.mount = .mounted t ∧
              ∀ n x, findOrder s n = some x →
                findOrder u n =
                  some { x with state := if x.state = .mountRequested then .onDrum else x.state })))

/-- The spin command (R49), in every drum state: the target class, the drive value, the counts and the timers. That one from
STOPPED, COASTING or SPINNING keeps the loose-miss count is the model's choice (log entry 25). The speed regulation (R51): the
drive value rises by the error divided by 256, truncated toward zero and clamped to −24 to +24, and stays within 0 to 1023; a
revolution is within a tolerance when the size of its error is at or below it. The outputs of the drum (R48): the motor drive
output carries the drive value in SPINNING and LOCKED and zero in STOPPED and COASTING, a cut drive keeping its value; a spin
command from rest drives it with 512 (R49). That a cut drive keeps its lock count and loose-miss count too (`DriveCut`), and a
spin command from rest its loose-miss count, is the model's choice (log entry 25). -/
def Obligations.SpinCommandAndSpeedRegulation : Prop :=
  (∀ (k : LpmClass) (s : State), ∃ d, spinCommand k s = { s with drum := d } ∧ d.idleTimer = none ∧
     d.lastPulse = s.drum.lastPulse ∧ d.period = s.drum.period ∧
     (s.drum.state = .stopped ∨ s.drum.state = .coasting →
       d.state = .spinning ∧ d.target = some k ∧ d.drive = 512 ∧ d.lockCount = 0 ∧ d.looseMiss = s.drum.looseMiss ∧
       d.lockTimer = some s.now ∧
       (s.drum.state = .coasting → d.coastTimer = none)) ∧
     (s.drum.state = .spinning →
       d.state = .spinning ∧ d.target = some k ∧ d.drive = s.drum.drive ∧ d.lockCount = 0 ∧
       d.looseMiss = s.drum.looseMiss ∧ d.lockTimer = some s.now) ∧
     (s.drum.state = .locked → s.drum.target = some k →
       d.state = .locked ∧ d.target = some k ∧ d.drive = s.drum.drive ∧ d.lockCount = s.drum.lockCount ∧
       d.looseMiss = s.drum.looseMiss ∧ d.lockTimer = s.drum.lockTimer) ∧
     (s.drum.state = .locked → s.drum.target ≠ some k →
       d.state = .spinning ∧ d.target = some k ∧ d.drive = s.drum.drive ∧ d.lockCount = 0 ∧ d.looseMiss = 0 ∧
       d.lockTimer = some s.now)) ∧
  (∀ drive period tt : Nat, drive ≤ 1023 →
     (correctedDrive drive period tt : Int) =
       max 0 (min 1023 ((drive : Int) + max (-24) (min 24 (((period : Int) - tt).tdiv 256)))) ∧
     (withinTight period tt = true ↔ ((period : Int) - tt).natAbs ≤ tt / 1024) ∧
     (withinLoose period tt = true ↔ ((period : Int) - tt).natAbs ≤ tt / 256)) ∧
  (∀ s : State,
     (s.drum.state = .spinning ∨ s.drum.state = .locked → motorOutput s = s.drum.drive) ∧
     (s.drum.state = .stopped ∨ s.drum.state = .coasting →
       motorOutput s = 0 ∧ ∀ k : LpmClass, motorOutput (spinCommand k s) = 512) ∧
     ∃ u, cutDrive s = u ∧ DriveCut s u ∧ Moves [.drum] s u ∧ motorOutput u = 0 ∧ u.drum.drive = s.drum.drive)

/-- INDEX PULSE by the drum state, where no revolution is judged (R50): ignored in STOPPED, the first pulse of a spin only
recorded, and in COASTING timed, recorded, and the coast timer restarted; a gathering left over is discarded (R69, R82). The
instant `max s.now time` is log entry 3, the model's choice. -/
def Obligations.PulseWithoutARevolution : Prop :=
  ∀ (time : Nat) (s : State) (now : Nat), now = max s.now time → s.selectDue = false →
    (s.drum.state = .stopped → ∃ t, exec (.indexPulse time) s = .next t ∧ t.now = now ∧ t.drum = s.drum ∧
      t.converter = { s.converter with gathering := none } ∧ Moves [.now, .converter] s t) ∧
    (s.drum.state = .spinning → s.drum.lastPulse = none → ∃ t, exec (.indexPulse time) s = .next t ∧ t.now = now ∧
      t.drum = { s.drum with lastPulse := some now } ∧ t.converter = { s.converter with gathering := none } ∧
      Moves [.now, .drum, .converter] s t) ∧
    (s.drum.state = .coasting → ∃ t, exec (.indexPulse time) s = .next t ∧ t.now = now ∧
      t.drum = { s.drum with lastPulse := some now, coastTimer := some now, period := t.drum.period } ∧
      t.converter = { s.converter with gathering := none } ∧
      (∀ p, s.drum.lastPulse = some p → t.drum.period = some (min 16777215 (now - p))) ∧
      (s.drum.lastPulse = none → t.drum.period = s.drum.period) ∧ Moves [.now, .drum, .converter] s t)

/-- INDEX PULSE at the end of a revolution in SPINNING (R50, R51, R52): the period is measured and the drive corrected; a
revolution within the tight tolerance adds to the lock count, one outside it clears it, and the eighth makes the drum LOCKED,
on which the start condition is tested (R32) before a gathering begins (R69). That a revolution in SPINNING keeps the
loose-miss count is log entry 25, DEDUCED. The instant `max s.now time` is log entry 3, the model's choice. -/
def Obligations.SpinningRevolutionCountsTowardLock : Prop :=
  ∀ (time : Nat) (s : State) (now last p : Nat) (k : LpmClass), now = max s.now time → s.drum.state = .spinning →
    s.drum.target = some k → s.drum.lastPulse = some last → p = min 16777215 (now - last) →
    ∃ u, exec (.indexPulse time) s = .next (finishStep u) ∧ u.now = now ∧ u.drum.lastPulse = some now ∧
      u.drum.period = some p ∧ u.drum.drive = correctedDrive s.drum.drive p k.period ∧ u.drum.target = some k ∧
      (withinTight p k.period = false ∨ s.drum.lockCount < 7 →
        u.drum = { s.drum with
          lastPulse := some now, period := some p, drive := correctedDrive s.drum.drive p k.period,
          lockCount := if withinTight p k.period then s.drum.lockCount + 1 else 0 } ∧
        u.converter = { s.converter with gathering := none } ∧ Moves [.now, .drum, .converter] s u) ∧
      (withinTight p k.period = true → s.drum.lockCount = 7 → u.drum.state = .locked ∧ u.drum.lockCount = 8 ∧
        u.drum.looseMiss = 0 ∧ u.drum.lockTimer = none ∧
        u.converter.gathering = some { pulse := now, target := k.period, readings := [] } ∧
        ∀ v, v = testStart { s with now := now, drum := { s.drum with
            state := .locked, lastPulse := some now, period := some p, drive := correctedDrive s.drum.drive p k.period,
            lockCount := 8, looseMiss := 0, lockTimer := none } } →
          u = { v with converter := { v.converter with
            gathering := some { pulse := now, target := k.period, readings := [] } } }) ∧
      u.head.position = s.head.position ∧ u.head.held = s.head.held ∧ u.lineStore.held = s.lineStore.held ∧
      Moves [.now, .round, .drum, .head, .converter, .lineStore] s u

/-- INDEX PULSE at the end of a revolution in LOCKED outside the loose tolerance (R53, R58): no line is filed; held where a
line might have been; the second in a row loses lock, and with it no gathering begins (R69). That the loose-miss count then
stays at 2 is the model's choice (log entry 25), and so is the instant `max s.now time` (log entry 3). INDEX PULSE at the end
of a revolution of a LOCKED drum within the loose tolerance while no line may be filed: the round is not SCANNING, or the head
not SCANNING or at the line count (R51, R53, R58, R69, R70). The drive is corrected, the loose-miss count is 0, a new
gathering begins, the old one unused, and nothing else changes. -/
def Obligations.LockedRevolutionsThatFileNoLine : Prop :=
  (∀ (time : Nat) (s : State) (now last p : Nat) (k : LpmClass), now = max s.now time → s.drum.state = .locked →
     s.drum.target = some k → s.drum.lastPulse = some last → p = min 16777215 (now - last) →
     withinLoose p k.period = false → s.drum.looseMiss ≤ 1 →
     ∃ u, exec (.indexPulse time) s = .next (finishStep u) ∧ u.now = now ∧
       (∀ D : Drum, D = { s.drum with lastPulse := some now, period := some p, drive := correctedDrive s.drum.drive p k.period,
                                      looseMiss := s.drum.looseMiss + 1 } →
         (s.drum.looseMiss = 0 → u.drum = D ∧
           u.converter = { s.converter with gathering := some { pulse := now, target := k.period, readings := [] } }) ∧
         (s.drum.looseMiss = 1 → u.drum = { D with state := .spinning, lockCount := 0, lockTimer := some now } ∧
           u.converter = { s.converter with gathering := none })) ∧
       u.head = { s.head with held := if mayFile s then min 65535 (s.head.held + 1) else s.head.held } ∧
       Moves [.now, .drum, .head, .converter] s u) ∧
  (∀ (time : Nat) (s : State) (now last p : Nat) (k : LpmClass), now = max s.now time → s.drum.state = .locked →
     s.drum.target = some k → s.drum.lastPulse = some last → p = min 16777215 (now - last) →
     withinLoose p k.period = true →
     (s.round.state ≠ .scanning ∨ s.head.state ≠ .scanning ∨
       ∀ n o, s.round.order = some n → findOrder s n = some o → o.lines ≤ s.head.position) →
     ∃ u, exec (.indexPulse time) s = .next (finishStep u) ∧ u.now = now ∧
       u.drum = { s.drum with lastPulse := some now, period := some p, looseMiss := 0,
                              drive := correctedDrive s.drum.drive p k.period } ∧
       u.converter = { s.converter with gathering := some { pulse := now, target := k.period, readings := [] } } ∧
       Moves [.now, .drum, .converter] s u)

/-- INDEX PULSE at the end of a scanning revolution (R53, R58, R70, R75, R86): with a line that may be filed and a complete
gathering, a valid reference files the converted line if a slot is free, and the head steps, the home switch then open (log
entry 13); a line already held stays as it is and the head steps too (log entry 26), and a line with an empty mark set takes
no slot while the head steps (log entry 19), S being read again at the offer (log entry 32), all the model's choice; line N −
1 makes the round DRAINING; a full store or an invalid reference holds the head. The eighth invalid one in a row is a lamp
fault (R43): the revolution is held, the members' destinations are READY again, the round is aborted, with the effects of R37
where that closes it at once, and DRUM FAULT with cause LAMP goes to both links. Each revolution corrects the drive and begins
a new gathering (R51, R69). That a cut drive keeps its lock count and loose-miss count (`DriveCut`) is log entry 25, and the
instant `max s.now time` log entry 3, both the model's choice. A revolution within the loose tolerance whose gathering is not
complete (R58, R70): not offered, and a held revolution (log entry 12). -/
def Obligations.ScanningRevolutionFilesOrHolds : Prop :=
  (∀ (time : Nat) (s : State) (now last p n : Nat) (k : LpmClass) (o : Order) (g G : Gathering) (r : LatestReference) (D : Drum),
     now = max s.now time → s.drum.state = .locked → s.drum.target = some k → s.drum.lastPulse = some last →
     p = min 16777215 (now - last) → withinLoose p k.period = true → s.round.state = .scanning →
     s.head.state = .scanning → s.round.order = some n → findOrder s n = some o → s.head.position < o.lines →
     s.converter.gathering = some g → g.readings.length = 32 + s.round.samples → r = referenceOf g.readings →
     G = { pulse := now, target := k.period, readings := [] } →
     D = { s.drum with lastPulse := some now, period := some p, looseMiss := 0,
                       drive := correctedDrive s.drum.drive p k.period } →
     ∃ u, exec (.indexPulse time) s = .next (finishStep u) ∧ u.now = now ∧
       (r.valid = true →
         u.drum = D ∧
         u.converter = { s.converter with latest := some r, pair := some (foldReference s.converter.pair r), invalidCount := 0,
                                          gathering := some G } ∧
         Moves [.now, .round, .drum, .head, .converter, .lineStore, .pins] s u ∧
         u.lineStore.depth = s.lineStore.depth ∧
         (∀ m, m ≠ s.head.position → findLine u.lineStore m = findLine s.lineStore m) ∧
         (s.lineStore.held.length < 64 ∨ findLine s.lineStore s.head.position ≠ none →
           u.head = { s.head with position := s.head.position + 1 } ∧ u.pins = { s.pins with home := false } ∧
           u.round = { s.round with
             state := if s.head.position + 1 = o.lines then .draining else .scanning,
             scanComplete := decide (s.head.position + 1 = o.lines) || s.round.scanComplete } ∧
           (findLine s.lineStore s.head.position ≠ none ∨ anyMark (filingMarks s) = false → u.lineStore = s.lineStore) ∧
           (findLine s.lineStore s.head.position = none → anyMark (filingMarks s) = true →
             ∃ h, findLine u.lineStore s.head.position = some h ∧ h.marks = filingMarks s ∧
               h.levels = convertLine (foldReference s.converter.pair r) (workingPoints s.converter) g.readings)) ∧
         (64 ≤ s.lineStore.held.length → findLine s.lineStore s.head.position = none →
           u.head = { s.head with held := min 65535 (s.head.held + 1) } ∧ u.lineStore = s.lineStore ∧
           u.round = s.round ∧ u.pins = s.pins)) ∧
       (r.valid = false →
         u.head.held = min 65535 (s.head.held + 1) ∧
         u.converter = { s.converter with
           latest := some r, invalidCount := s.converter.invalidCount + 1,
           invalidTotal := min 65535 (s.converter.invalidTotal + 1),
           lamp := if s.converter.invalidCount = 7 then .fault else s.converter.lamp,
           gathering := if u.drum.state = .locked then some G else none } ∧
         (s.converter.invalidCount < 7 →
           u.drum = D ∧ u.head = { s.head with held := min 65535 (s.head.held + 1) } ∧
           Moves [.now, .drum, .head, .converter] s u) ∧
         (s.converter.invalidCount = 7 → NoticedToBoth (.drumFault .lamp (some n)) u ∧
           Aborted { s with now := now, head := { s.head with held := min 65535 (s.head.held + 1) } } u ∧
           MembersReturned s u ∧
           (¬ ClosesAtOnce s → u.drum = D ∧ u.mount = s.mount ∧ OrdersKeepState s u) ∧
           (ClosesAtOnce s → ∃ b, Moves [.now, .book, .drum, .head, .converter, .selectDue] s b ∧ b.now = now ∧
             b.drum = D ∧ MembersReturned s b ∧ OrdersKeepState s b ∧ RoundClosed b u) ∧
           Moves [.now, .links, .book, .round, .drum, .head, .mount, .converter, .lineStore, .channels, .selectDue] s u))) ∧
  (∀ (time : Nat) (s : State) (now last p n : Nat) (k : LpmClass) (o : Order),
     now = max s.now time → s.drum.state = .locked → s.drum.target = some k → s.drum.lastPulse = some last →
     p = min 16777215 (now - last) → withinLoose p k.period = true → s.round.state = .scanning →
     s.head.state = .scanning → s.round.order = some n → findOrder s n = some o → s.head.position < o.lines →
     (∀ g, s.converter.gathering = some g → g.readings.length ≠ 32 + s.round.samples) →
     ∃ u, exec (.indexPulse time) s = .next (finishStep u) ∧ u.now = now ∧
       u.drum = { s.drum with lastPulse := some now, period := some p, looseMiss := 0,
                              drive := correctedDrive s.drum.drive p k.period } ∧
       u.head = { s.head with held := min 65535 (s.head.held + 1) } ∧
       u.converter = { s.converter with gathering := some { pulse := now, target := k.period, readings := [] } } ∧
       Moves [.now, .drum, .head, .converter] s u)

/-- Cover, clamp and home switch (R48, R59, R64, R65). Opening, with no round open (or, for the clamp, with no print MOUNTED):
the level is taken, a turning drive is cut, the motor output is zero and the stepper still; a MOUNTED print, or one asked off,
is gone with the clamp. Closing, whether or not a round is open: the level is taken, the cover's closing is a selection event
and lets a RETURNING head move, and the home switch changes no head that is not RETURNING. A cut drive keeps its lock count
and loose-miss count (`DriveCut`), which is the model's choice (log entry 25). -/
def Obligations.CoverClampAndHomeSwitch : Prop :=
  ∀ s : State,
    (s.round.state = .closed →
      ∃ u, exec .coverOpen s = .next (finishStep u) ∧ u.pins = { s.pins with cover := false } ∧ DriveCut s u ∧
        motorOutput u = 0 ∧ stepperMoving u = false ∧ Moves [.pins, .drum] s u) ∧
    (∃ u, exec .coverClose s = .next (finishStep u) ∧ u.pins = { s.pins with cover := true } ∧ u.selectDue = true ∧
      (stepperMoving u = true ↔ s.head.state = .returning) ∧ Moves [.pins, .selectDue] s u) ∧
    (s.round.state = .closed ∨ (∀ t, s.mount ≠ .mounted t) →
      ∃ u, exec .clampOpen s = .next (finishStep u) ∧ u.pins = { s.pins with clamp := false } ∧ DriveCut s u ∧
        motorOutput u = 0 ∧
        (∀ t, s.mount = .mounted t → u.mount = .empty ∧ u.selectDue = true ∧
          ∀ n x, findOrder s n = some x →
            findOrder u n = some { x with state := if x.state = .onDrum then .waiting else x.state }) ∧
        (∀ t, s.mount = .unmountRequested t → u.mount = .empty ∧ u.selectDue = true ∧ u.book = s.book) ∧
        (s.mount = .empty ∨ (∃ t, s.mount = .requested t) → u.mount = s.mount ∧ u.book = s.book) ∧
        Moves [.pins, .drum, .mount, .book, .selectDue] s u) ∧
    (∃ t, exec .clampClose s = .next t ∧ t.pins = { s.pins with clamp := true } ∧ Moves [.pins] s t) ∧
    (s.head.state ≠ .returning →
      ∃ t, exec .homeSwitchClose s = .next t ∧ t.pins = { s.pins with home := true } ∧ Moves [.pins] s t)

/-- A head return (R59, R60, R65): the stepper drives the head home while the cover shows closed; the home switch completes
the return, and closes a DRAINING round without members; its limit makes the head FAULT, keeps the position, and notices DRUM
FAULT with cause HEAD and the round's order number. A limit whose timer does not run changes nothing, which is the model's
choice (log entry 4). The instant `max s.now (start + length)` of a limit is log entry 1, the model's choice. The drum's
limits outside a round's start and scan (R48, R54, R55, R56, R82): the lock timer stops and nothing else happens; the idle
stop cuts the drive; the coast limit makes the drum STOPPED, its last-pulse time and measured period absent, and discards the
gathering (R82). A limit outside its drum state, or whose timer does not run, changes nothing, which is the model's choice
(log entry 4). That a cut drive keeps its lock count and loose-miss count (`DriveCut`) is the model's choice too (log entry
25). -/
def Obligations.HeadAndDrumLimitsRunOut : Prop :=
  (∀ s : State, s.head.state = .returning →
     (stepperMoving s = true ↔ s.pins.cover = true) ∧
     (∃ u, exec .homeSwitchClose s = .next (finishStep u) ∧ u.selectDue = true ∧ u.pins = { s.pins with home := true } ∧
       u.head = { s.head with state := .home, position := 0, returnTimer := none } ∧
       (s.round.state = .draining → (∀ c, s.round.members.get c = none) → RoundClosed s u) ∧
       (s.round.state ≠ .draining ∨ (∃ c, s.round.members.get c ≠ none) → Moves [.head, .pins, .selectDue] s u) ∧
       Moves [.links, .book, .round, .drum, .head, .mount, .pins, .selectDue] s u) ∧
     (∀ t0, s.head.returnTimer = some t0 →
       ∃ u, exec .returnLimit s = .next (finishStep u) ∧ u.now = max s.now (t0 + 30000000) ∧
         u.head = { s.head with state := .fault, returnTimer := none } ∧
         NoticedToBoth (.drumFault .head s.round.order) u ∧
         (s.round.state = .draining → (∀ c, s.round.members.get c = none) → RoundClosed { s with now := u.now } u) ∧
         (s.round.state ≠ .draining ∨ (∃ c, s.round.members.get c ≠ none) → Moves [.now, .links, .head] s u) ∧
         Moves [.now, .links, .book, .round, .drum, .head, .mount, .selectDue] s u) ∧
     (s.head.returnTimer = none → exec .returnLimit s = .next s)) ∧
  (∀ s : State,
     (s.drum.state = .spinning → ∀ t0, s.drum.lockTimer = some t0 → s.round.state = .closed ∨ s.round.state = .draining →
       ∃ t, exec .lockLimit s = .next t ∧ t.now = max s.now (t0 + 20000000) ∧
         t.drum = { s.drum with lockTimer := none } ∧ Moves [.now, .drum] s t) ∧
     (s.drum.state ≠ .spinning ∨ s.drum.lockTimer = none → exec .lockLimit s = .next s) ∧
     (∀ t0, s.drum.idleTimer = some t0 →
       ∃ t, exec .idleStop s = .next t ∧ t.now = max s.now (t0 + 60000000) ∧ DriveCut { s with now := t.now } t ∧
         Moves [.now, .drum] s t) ∧
     (s.drum.idleTimer = none → exec .idleStop s = .next s) ∧
     (s.drum.state = .coasting → ∀ t0, s.drum.coastTimer = some t0 →
       ∃ t, exec .coastStop s = .next t ∧ t.now = max s.now (t0 + 3000000) ∧
         t.drum = { s.drum with state := .stopped, coastTimer := none, lastPulse := none, period := none } ∧
         t.converter = { s.converter with gathering := none } ∧ Moves [.now, .drum, .converter] s t) ∧
     (s.drum.state ≠ .coasting ∨ s.drum.coastTimer = none → exec .coastStop s = .next s))

/-! ### The scan converter and the line store -/

/-- PHOTOCELL READING (R68, R69): the next reading of the gathering in progress is taken at its instant. S is read at each
reading (log entry 32). Beyond the last reading, and with no gathering, the row changes nothing, which is the model's choice
(log entry 4). The instants are those of R69, counted from the pulse (the timebase at such an instant or later: log entry 1,
the model's choice). A transfer on the photocell lines (R68): the select falls, the twelve bits come most significant first,
the select rises; the row it is carries the value of those bits, and no other run of events is a PHOTOCELL READING (log entry
35). -/
def Obligations.PhotocellReadingIsGathered : Prop :=
  ((∀ Tt S j : Nat,
     (j < 32 → readingInstant Tt S j = (2 * j + 1) * Tt / 1024) ∧
     readingInstant Tt S (32 + j) = (4 * S * Tt + (2 * j + 1) * 29 * Tt) / (64 * S)) ∧
   ∀ (v : BitVec 12) (s : State),
     (s.converter.gathering = none → exec (.photocellReading v) s = .next s) ∧
     ∀ (g : Gathering) (S : Nat), s.converter.gathering = some g → S = roundSamples s →
       (g.readings.length < 32 + S →
         ∃ t, exec (.photocellReading v) s = .next t ∧ Moves [.now, .converter] s t ∧
           t.now = max s.now (g.pulse + readingInstant g.target S g.readings.length) ∧
           t.converter = { s.converter with gathering := some { g with readings := g.readings ++ [v.toNat] } }) ∧
       (32 + S ≤ g.readings.length → exec (.photocellReading v) s = .next s)) ∧
  ((∀ v : BitVec 12,
     photocellTransfer v =
       .select false :: ((List.range 12).map (fun i => PhotocellEvent.clock (v.getLsbD (11 - i))) ++ [.select true])) ∧
   ∀ (events : List PhotocellEvent) (i : Instr),
     photocellRow events = some i ↔ ∃ v : BitVec 12, i = .photocellReading v ∧ events = photocellTransfer v)

/-- The reference of an offered revolution (R71): the floored means of the 16 white and the 16 black readings, VALID when the
white is at least 1024 and lies at least 512 above the black. The reference pair (R72): the first valid revolution sets it, a
later one blends into it, and the span limit ends the update; the pair it leaves spans at least 512 with its white within 1024
to 4095. -/
def Obligations.ReferencesAreMeansWithASpan : Prop :=
  (∀ (white black line : List Nat) (r : LatestReference), white.length = 16 → black.length = 16 →
     r = referenceOf (white ++ black ++ line) →
     r.white = white.sum / 16 ∧ r.black = black.sum / 16 ∧
       (r.valid = true ↔ 1024 ≤ r.white ∧ 512 ≤ (r.white : Int) - r.black)) ∧
  (∀ (pair : Option ReferencePair) (r : LatestReference) (q : ReferencePair), q = foldReference pair r → 1024 ≤ r.white →
     r.white ≤ 4095 → r.black + 512 ≤ r.white →
     (∀ p, pair = some p → 1024 ≤ p.white ∧ p.white ≤ 4095 ∧ p.black + 512 ≤ p.white) →
     1024 ≤ q.white ∧ q.white ≤ 4095 ∧ q.black + 512 ≤ q.white ∧
       (pair = none → q = { white := r.white, black := r.black }) ∧
       ∀ p, pair = some p → q.white = (3 * p.white + r.white + 2) / 4 ∧
         q.black = (if q.white < (3 * p.black + r.black + 2) / 4 + 512 then q.white - 512
           else (3 * p.black + r.black + 2) / 4))

/-- The normalised value (R77): 0 at or below Bf, otherwise the scaled difference, at most 1023; it never falls as the reading
rises, and is 1023 at or above Wf. The level of a normalised value (R78): T[i] and the rounded part of the step to T[i+1]; for
a curve that does not decrease it lies between the two, and never falls as the value rises. The converted line (R80, of which
this is the levels alone): a level for each line reading, in their order, the reading normalised against the pair and mapped
through the curve; the 32 reference readings give none. -/
def Obligations.LevelsFollowTheReadings : Prop :=
  (∀ (p : ReferencePair) (s : Nat), p.black + 512 ≤ p.white →
     (s ≤ p.black → normalise p s = 0) ∧
     (p.black < s → normalise p s = min 1023 ((s - p.black) * 1024 / (p.white - p.black))) ∧
     (p.white ≤ s → normalise p s = 1023) ∧ (1024 * p.white < 1024 * s + (p.white - p.black) → normalise p s = 1023) ∧
     normalise p s ≤ 1023 ∧ ∀ u, s ≤ u → normalise p s ≤ normalise p u) ∧
  (∀ (t : Curve) (n i f : Nat), n ≤ 1023 → i = n / 64 → f = n - 64 * i →
     (∀ j (h : j + 1 < 17), t[j] ≤ t[j + 1]) →
     ∃ h : i + 1 < 17, levelOf t n = t[i] + ((t[i + 1] - t[i]) * f + 32) / 64 ∧ t[i] ≤ levelOf t n ∧
       levelOf t n ≤ t[i + 1] ∧ ∀ m, n ≤ m → m ≤ 1023 → levelOf t n ≤ levelOf t m) ∧
  (∀ (p : ReferencePair) (t : Curve) (reference picture : List Nat), reference.length = 32 →
     (convertLine p t (reference ++ picture)).length = picture.length ∧
     ∀ (k s : Nat), picture[k]? = some s → (convertLine p t (reference ++ picture))[k]? = some (levelOf t (normalise p s)))

/-- A filing request (R85, R86, R88, R93): with the line not held and a slot FREE it is ACCEPTED, and the line answers YES to
the channels of its mark set and no other; with no slot FREE it is FULL and changes nothing; a line already held stays as it
is and is ACCEPTED whatever the slots (log entry 26), and a line filed with an empty mark set is ACCEPTED and takes no slot
(log entry 19). The releases (R89 to R94): a release takes one channel's mark from one line, or from all, and leaves every
other answer; a slot with no mark left is FREE; a flush answers every question NO. -/
def Obligations.LineStoreFilesAndReleases : Prop :=
  (∀ (n : Nat) (levels : List Nat) (marks : PerChan Bool) (ls ls' : LineStore) (b : Bool), ls.wf = true →
     fileLine n levels marks ls = (ls', b) →
     ls'.wf = true ∧ ls'.depth = ls.depth ∧ (∀ c m, m ≠ n → askLine c m ls' = askLine c m ls) ∧
     (findLine ls n ≠ none → b = true ∧ ls' = ls) ∧
     (findLine ls n = none →
       (64 ≤ ls.held.length → b = false ∧ ls' = ls) ∧
       (ls.held.length < 64 → b = true ∧ ∀ c, askLine c n ls' = if marks.get c then some levels else none))) ∧
  (∀ (c : Chan) (n : Nat) (ls : LineStore), ls.wf = true →
     (releaseMark c n ls).wf = true ∧ (releaseAll c ls).wf = true ∧ (flushLines ls).wf = true ∧
     (∀ d m, askLine d m (releaseMark c n ls) = if d = c ∧ m = n then none else askLine d m ls) ∧
     (∀ d m, askLine d m (releaseAll c ls) = if d = c then none else askLine d m ls) ∧
     (∀ d m, askLine d m (flushLines ls) = none) ∧ (flushLines ls).depth = ls.depth ∧
     ∀ m, findLine (releaseMark c n ls) m = none ↔
       (∀ d, askLine d m ls = none) ∨ (m = n ∧ ∀ d, d ≠ c → askLine d m ls = none))

/-! ### Line channels and calls -/

/-- LINE OUT, LINE IN and MARK FAULT CODE (R98, R99, R138): NO SUCH CHANNEL outside 1 to 4; otherwise OK, with the service
flag and the channel's state by the tables, or the last fault code MARK. LINE RESET (R118): in a call, the ending is RESET and
the destination READY again; in RELEASE the line is put down at once; in COOLDOWN the cooldown ends; IDLE and OUT stay. The
trouble count becomes 0 in every case. What the member's leaving makes of its round is `leaveRound` (`CallEnded`; O23 with log
entry 25, the model's choice). -/
def Obligations.LineCommandsActByTheChannelState : Prop :=
  (∀ (l : Link) (b : Byte) (s : State),
     (b.toNat = 0 ∨ 4 < b.toNat → RefusedWith (.lineOut l b) l 0x17#8 .noSuchChannel s ∧
       RefusedWith (.lineIn l b) l 0x18#8 .noSuchChannel s ∧
       RefusedWith (.markFaultCode l b) l 0x1A#8 .noSuchChannel s) ∧
     ∀ c : Chan, b.toNat = c.number →
       (∃ t, exec (.lineOut l b) s = .next t ∧ Posted l 0x17#8 .ok 0 s t ∧ OnlyChannel c s t ∧
         Moves [.links, .channels] s t ∧
         t.channels.get c =
           (match (s.channels.get c).state with
            | .idle => { s.channels.get c with service := .outOfService, state := .out }
            | .cooldown => { s.channels.get c with service := .outOfService, state := .out, stateTimer := none,
                                                   trouble := 0, caution := .armed }
            | _ => { s.channels.get c with service := .outOfService })) ∧
       ((s.channels.get c).state ≠ .out →
         ∃ t, exec (.lineIn l b) s = .next t ∧ Posted l 0x18#8 .ok 0 s t ∧ OnlyChannel c s t ∧
           Moves [.links, .channels] s t ∧ t.channels.get c = { s.channels.get c with service := .inService }) ∧
       ((s.channels.get c).state = .out →
         ∃ u, exec (.lineIn l b) s = .next (finishStep u) ∧ u.selectDue = true ∧ Posted l 0x18#8 .ok 0 s u ∧
           OnlyChannel c s u ∧ Moves [.links, .channels, .selectDue] s u ∧
           u.channels.get c = { s.channels.get c with service := .inService, state := .idle }) ∧
       ∃ t, exec (.markFaultCode l b) s = .next t ∧ Posted l 0x1A#8 .ok 0 s t ∧ OnlyChannel c s t ∧
         Moves [.links, .channels] s t ∧ t.channels.get c = { s.channels.get c with fault := .mark }) ∧
  (∀ (l : Link) (b : Byte) (s : State),
     (b.toNat = 0 ∨ 4 < b.toNat → RefusedWith (.lineReset l b) l 0x19#8 .noSuchChannel s) ∧
     ∀ c : Chan, b.toNat = c.number →
       ∃ u, exec (.lineReset l b) s = .next (finishStep u) ∧ OnlyChannel c s u ∧
         (u.channels.get c).trouble = 0 ∧ (u.channels.get c).caution = .armed ∧
         (u.channels.get c).fault = (s.channels.get c).fault ∧ (u.channels.get c).service = (s.channels.get c).service ∧
         (∀ k, (u.links.get k).result =
           if k = l then { command := 0x19#8, code := .ok, value := 0 } else (s.links.get k).result) ∧
         (inCall (s.channels.get c).state = true →
           CallEnded c .reset s u ∧ Moves callEndParts s u ∧ u.filing = s.filing ∧
           ∀ k o d, (s.channels.get c).call = some k → findOrder s k.order = some o → o.state ≠ .withdrawing →
             o.dests[k.dest]? = some d → d.state = .assigned ∨ d.state = .sending →
             findDest u k.order k.dest = some { d with state := .ready, channel := none } ∧ u.selectDue = true) ∧
         (inCall (s.channels.get c).state = false →
           Moves [.links, .channels, .selectDue] s u ∧
           ((s.channels.get c).state = .release ∨ (s.channels.get c).state = .cooldown →
             (u.channels.get c).state =
               (if (s.channels.get c).service = .inService then .idle else .out) ∧
             ((s.channels.get c).service = .inService → u.selectDue = true)) ∧
           ((s.channels.get c).state = .release → (u.channels.get c).hook = .onHook ∧
             (u.channels.get c).onLine = none ∧ (u.channels.get c).owed = [] ∧ (u.channels.get c).call = none) ∧
           ((s.channels.get c).state = .idle ∨ (s.channels.get c).state = .out →
             u.channels.get c = { s.channels.get c with trouble := 0, caution := .armed })))

/-- The carrier (R103, R114): its coming is the answer in AWAIT ANSWER and stops the carrier-loss timer; its going starts the
timer in the states from ANNOUNCE to AWAIT RECEIPT. The dialling (R102, R103): two seconds of settle, then 80 ms of each
digit's tone pair and 80 ms of silence; after the silence of the last digit AWAIT ANSWER with its state timer from zero, or
ANNOUNCE at once where carrier is present. The instant `max s.now (start + length)` is log entry 1, the model's choice. -/
def Obligations.CarrierAndDiallingReachAnnounce : Prop :=
  (∀ (c : Chan) (s : State),
     (∃ t, exec (.carrierPresent c) s = .next t ∧ OnlyChannel c s t ∧ Moves [.pins, .channels] s t ∧
       t.pins = { s.pins with carrier := s.pins.carrier.set c true } ∧
       ((s.channels.get c).state = .awaitAnswer →
         (t.channels.get c).state = .announce ∧ (t.channels.get c).stateTimer = some s.now ∧
         (t.channels.get c).lineTimer = some { start := s.now, begun := 0 } ∧
         (t.channels.get c).carrierTimer = none ∧
         ∀ k, (s.channels.get c).call = some k → (t.channels.get c).linePeriod = 60000000 / k.entry.lpm.lpm) ∧
       (readsBack (s.channels.get c).state = true →
         t.channels.get c = { s.channels.get c with carrierTimer := none }) ∧
       ((s.channels.get c).state ≠ .awaitAnswer → readsBack (s.channels.get c).state = false →
         t.channels = s.channels)) ∧
     (∃ t, exec (.carrierAbsent c) s = .next t ∧ OnlyChannel c s t ∧ Moves [.pins, .channels] s t ∧
       t.pins = { s.pins with carrier := s.pins.carrier.set c false } ∧
       t.channels.get c =
         (if s.pins.carrier.get c = true ∧ readsBack (s.channels.get c).state = true then
           { s.channels.get c with carrierTimer := some s.now } else s.channels.get c))) ∧
  (∀ (c : Chan) (s : State) (t0 k : Nat) (call : Call), (s.channels.get c).state = .dialling →
     (s.channels.get c).stateTimer = some t0 → (s.channels.get c).call = some call →
     ((s.channels.get c).dial = .settle →
       ∃ t, exec (.dialSettleEnd c) s = .next t ∧ OnlyChannel c s t ∧ Moves [.now, .channels] s t ∧
         t.now = max s.now (t0 + 2000000) ∧ t.channels.get c = { s.channels.get c with dial := .tone 0 } ∧
         dialTone (t.channels.get c) = call.entry.digits[0]?) ∧
     ((s.channels.get c).dial = .tone k →
       ∃ t, exec (.digitToneEnd c) s = .next t ∧ OnlyChannel c s t ∧ Moves [.now, .channels] s t ∧
         t.now = max s.now (t0 + (2000000 + 160000 * k + 80000)) ∧
         t.channels.get c = { s.channels.get c with dial := .gap k } ∧ dialTone (t.channels.get c) = none) ∧
     ((s.channels.get c).dial = .gap k →
       ∃ t, exec (.digitSilenceEnd c) s = .next t ∧ OnlyChannel c s t ∧ Moves [.now, .channels] s t ∧
         t.now = max s.now (t0 + (2000000 + 160000 * (k + 1))) ∧
         (k + 1 < call.entry.digits.length → t.channels.get c = { s.channels.get c with dial := .tone (k + 1) }) ∧
         (call.entry.digits.length ≤ k + 1 →
           (t.channels.get c).state = (if s.pins.carrier.get c then .announce else .awaitAnswer) ∧
           (t.channels.get c).stateTimer = some t.now ∧ (t.channels.get c).dial = .silent ∧
           (t.channels.get c).hook = (s.channels.get c).hook ∧ (t.channels.get c).call = some call)))

/-- The five limits of a call (R103, R105, R111, R114, R131): each ends the call with its outcome, in the state it watches and
at the instant its timer reaches it (`max s.now (start + length)`: log entry 1, the model's choice). A back-channel frame in
progress is discarded with the call (R112). What the member's leaving makes of its round is `leaveRound` (`CallEnded`; O23
with log entry 25, the model's choice). -/
def Obligations.LimitsEndTheCall : Prop :=
  ∀ (c : Chan) (s : State) (t0 : Nat),
    ((s.channels.get c).state = .awaitAnswer → (s.channels.get c).stateTimer = some t0 →
      ∃ u, exec (.answerLimit c) s = .next (finishStep u) ∧ CallEnded c (.outcome .noAnswer) s u ∧
        DestinationPlaced c .noAnswer s u ∧ OnlyChannel c s u ∧
        Moves (.now :: callEndParts) s u ∧ u.now = max s.now (t0 + 40000000)) ∧
    ((s.channels.get c).state = .announce → (s.channels.get c).stateTimer = some t0 →
      ∃ u, exec (.announceLimit c) s = .next (finishStep u) ∧ CallEnded c (.outcome .noAnswer) s u ∧
        DestinationPlaced c .noAnswer s u ∧ OnlyChannel c s u ∧
        Moves (.now :: callEndParts) s u ∧ u.now = max s.now (t0 + 10000000)) ∧
    (readsBack (s.channels.get c).state = true → (s.channels.get c).carrierTimer = some t0 →
      ∃ u, exec (.carrierLossLimit c) s = .next (finishStep u) ∧ CallEnded c (.outcome .lineLost) s u ∧
        DestinationPlaced c .lineLost s u ∧
        OnlyChannel c s u ∧ Moves (.now :: callEndParts) s u ∧ u.now = max s.now (t0 + 6000000)) ∧
    ((s.channels.get c).state = .awaitReceipt → (s.channels.get c).stateTimer = some t0 →
      ∃ u, exec (.receiptLimit c) s = .next (finishStep u) ∧ CallEnded c (.outcome .sentUnconfirmed) s u ∧
        DestinationPlaced c .sentUnconfirmed s u ∧
        OnlyChannel c s u ∧ Moves (.now :: callEndParts) s u ∧ u.now = max s.now (t0 + 20000000)) ∧
    ((s.channels.get c).state = .phased ∨ (s.channels.get c).state = .picture → (s.channels.get c).hold = some t0 →
      ∃ u, exec (.holdTimeout c) s = .next (finishStep u) ∧ CallEnded c (.outcome .holdTimeout) s u ∧
        DestinationPlaced c .holdTimeout s u ∧
        OnlyChannel c s u ∧ Moves (.now :: callEndParts) s u ∧ u.now = max s.now (t0 + 90000000))

/-- COOLDOWN EXPIRY and RELEASE COMPLETE (R116, R117): the rest of 30 s ends in IDLE or OUT with the trouble count 0; the line
is put down on hook with the call absent, at once where no frame is owed and otherwise at the end of the last frame owed (or
at a later timebase count: log entry 1; the run's time on the line is rounded down once: log entry 21, both the model's
choice), and the channel enters COOLDOWN, OUT or IDLE by its ending and its service flag. -/
def Obligations.CooldownAndReleaseEnd : Prop :=
  ∀ (c : Chan) (s : State),
    (∀ t0, (s.channels.get c).state = .cooldown → (s.channels.get c).stateTimer = some t0 →
      ∃ u, exec (.cooldownExpiry c) s = .next (finishStep u) ∧ OnlyChannel c s u ∧
        Moves [.now, .channels, .selectDue] s u ∧ u.now = max s.now (t0 + 30000000) ∧
        u.channels.get c =
          { s.channels.get c with
            state := if (s.channels.get c).service = .inService then .idle else .out, stateTimer := none, trouble := 0,
            caution := .armed } ∧
        ((s.channels.get c).service = .inService → u.selectDue = true)) ∧
    ((s.channels.get c).state = .release →
      ∃ u, exec (.releaseComplete c) s = .next (finishStep u) ∧ OnlyChannel c s u ∧
        Moves [.now, .channels, .selectDue] s u ∧ (u.channels.get c).hook = .onHook ∧ (u.channels.get c).call = none ∧
        ((s.channels.get c).onLine = none → (s.channels.get c).owed = [] → u.now = s.now) ∧
        (∀ k fs, (s.channels.get c).call = some k → fs = (s.channels.get c).onLine.toList ++ (s.channels.get c).owed →
          fs ≠ [] → u.now = max s.now ((s.channels.get c).runStart + ((s.channels.get c).runBytes +
            (fs.map fun f => (frameBytes f).length).sum) * 8 * 1000000 / k.entry.rate.bits)) ∧
        (u.channels.get c).onLine = none ∧ (u.channels.get c).owed = [] ∧
        (u.channels.get c).ending = (s.channels.get c).ending ∧
        (∀ oc, (s.channels.get c).ending = some (.outcome oc) →
          oc = .wrongStation ∨ oc = .phasingFailed ∨ oc = .holdTimeout ∨ oc = .lineLost ∨ oc = .dropped →
          (u.channels.get c).state = .cooldown ∧ (u.channels.get c).stateTimer = some u.now) ∧
        ((∀ oc, (s.channels.get c).ending = some (.outcome oc) →
            oc = .noAnswer ∨ oc = .sentUnconfirmed ∨ oc = .delivered ∨ oc = .deliveredWithGaps) →
          (u.channels.get c).state = (if (s.channels.get c).service = .inService then .idle else .out) ∧
          ((s.channels.get c).service = .inService → u.selectDue = true)))

/-! ### The back channel -/

/-- The tests of a frame with a good check (R112, R113): unread outside ANNOUNCE to AWAIT RECEIPT; ignored as STRANGER where
its code differs from the call copy's in a masked position, and as UNEXPECTED where its kind is none of the state's; either
replaces the last fault code and changes nothing else. A FRAME_IGNORED that would be taken changes nothing (log entry 24). A
frame whose check fails, and a framing failure (R112, R134 to R136, R185): in a state that reads the back channel the last
fault code becomes BAD CHECK and the trouble count rises by 4, a count of 128 or more ending the call DROPPED; elsewhere
nothing. What the member's leaving makes of its round is `leaveRound` (`CallEnded`; O23 with log entry 25, the model's
choice). A channel reads its back channel from ANNOUNCE until its call ends (R112, R185; the levels of the line are no rows of
the table: log entry 36). In every other state what the line carries has no effect but on the reception, which holds no frame.
In those states, the bytes after an idle are kept as they arrive, a frame is executed with its last byte, and the bytes behind
a discarded frame have no effect up to the next idle, after which a byte begins a frame again. That a channel which has
counted no such idle since reset discards bytes is the model's choice (log entry 36). -/
def Obligations.BackChannelFramesAreTested : Prop :=
  (∀ (i : Instr) (c : Chan) (code : Word) (kind : BackKind) (s : State) (ch : Channel), backFrameOf i = some (c, code, kind) →
     ch = s.channels.get c → s.selectDue = false →
     (readsBack ch.state = false → exec i s = .next s) ∧
     ∀ k, ch.call = some k → readsBack ch.state = true → ¬ (ch.state = .announce ∧ kind = .station) →
       (¬ CodeAgrees k.entry code → ∃ t, exec i s = .next t ∧ OnlyChannel c s t ∧ Moves [.channels] s t ∧
         t.channels.get c = { ch with fault := .stranger }) ∧
       (CodeAgrees k.entry code → (ch.state, kind) ∉ expectedKinds →
         ∃ t, exec i s = .next t ∧ OnlyChannel c s t ∧ Moves [.channels] s t ∧
           t.channels.get c = { ch with fault := .unexpected }) ∧
       (CodeAgrees k.entry code → (ch.state, kind) ∈ expectedKinds → exec (.frameIgnored c code kind) s = .next s)) ∧
  (∀ (i : Instr) (c : Chan) (s : State) (ch : Channel), i = .badCheck c ∨ i = .framingFailure c → ch = s.channels.get c →
     (readsBack ch.state = false → s.selectDue = false → exec i s = .next s) ∧
     ∀ k, readsBack ch.state = true → ch.call = some k →
       ∃ u, exec i s = .next (finishStep u) ∧ OnlyChannel c s u ∧
         (ch.trouble < 124 → TroubleRises c 4 k ch s u ∧ Moves [.links, .channels] s u ∧
           u.channels.get c =
             { ch with trouble := ch.trouble + 4, fault := .badCheck, caution := (u.channels.get c).caution }) ∧
         (124 ≤ ch.trouble → CallEnded c (.outcome .dropped) s u ∧ DestinationPlaced c .dropped s u ∧
           (u.channels.get c).trouble = ch.trouble + 4 ∧
           (u.channels.get c).fault = .badCheck ∧ Moves callEndParts s u)) ∧
  (∀ (c : Chan) (s : State) (r : Reception), r = (s.channels.get c).reception →
     (readsBack (s.channels.get c).state = false → ∀ levels, levels ≠ [] →
       ∃ q, backLevels c levels s = .next (setReception c q s) ∧ (q.run = none ∨ q.run = some [] ∧ q.byte = none)) ∧
     (readsBack (s.channels.get c).state = true → r.byte = none →
       (∀ n, 10 ≤ n → r.run = none ∨ r.run = some [] → backLevels c (List.replicate n true) s =
         .next (setReception c { idle := 10, byte := none, run := some [] } s)) ∧
       ∀ (bytes : List (Byte × Nat)) (levels : List Bool), (∀ x ∈ bytes, x.2 < 10) →
         levels = bytes.flatMap (fun x => backByteLevels x.1 ++ List.replicate x.2 true) →
         (r.run = none → ∃ q, q.run = none ∧ q.byte = none ∧ backLevels c levels s = .next (setReception c q s)) ∧
         ∀ k rest kind, bytes.map Prod.fst = k :: rest → backKindOfByte k = some kind → r.run = some [] →
           (bytes.length < backFrameSize kind → ∃ q, q.run = some (k :: rest) ∧ q.byte = none ∧
             backLevels c levels s = .next (setReception c q s)) ∧
           (bytes.length = backFrameSize kind → (∃ b, bytes.getLast? = some (b, 0)) → ∀ i, backChannelRows c (k :: rest) = [i] →
             backLevels c levels s = exec i (setReception c { idle := 0, byte := none, run := some (k :: rest) } s))))

/-- A STATION frame in ANNOUNCE (R106): its code is recorded; where the destination's own entry is the first VALID entry in
index order that agrees, the state timer stops and the channel enters CAPTION, otherwise the call ends with WRONG STATION.
What the member's leaving makes of its round is `leaveRound` (`CallEnded`; O23 with log entry 25, the model's choice). -/
def Obligations.StationIdentifiesTheReceiver : Prop :=
  ∀ (c : Chan) (code : Word) (s : State) (k : Call), (s.channels.get c).state = .announce →
    (s.channels.get c).call = some k →
    ∃ u, exec (.station c code) s = .next (finishStep u) ∧ OnlyChannel c s u ∧
      (Identifies s.store code k.entryIndex → Moves [.channels] s u ∧
        u.channels.get c = { s.channels.get c with station := some code, state := .caption, stateTimer := none }) ∧
      (¬ Identifies s.store code k.entryIndex → CallEnded c (.outcome .wrongStation) s u ∧ DestinationPlaced c .wrongStation s u ∧
        (u.channels.get c).station = some code ∧ Moves callEndParts s u)

/-- PHASED, HOLD and GO taken (R108, R130, R131, R32): PHASED moves PHASING to PHASED and the start condition is tested; HOLD
starts the hold timer unless it runs; GO stops it. -/
def Obligations.PhasedHoldAndGoAreTaken : Prop :=
  ∀ (c : Chan) (code : Word) (s : State) (k : Call), (s.channels.get c).call = some k → CodeAgrees k.entry code →
    ((s.channels.get c).state = .phasing →
      ∃ u, exec (.phased c code) s = .next (testStart u) ∧ OnlyChannel c s u ∧ Moves [.channels] s u ∧
        u.channels.get c = { s.channels.get c with state := .phased }) ∧
    ((s.channels.get c).state = .phased ∨ (s.channels.get c).state = .picture →
      (∃ t, exec (.hold c code) s = .next t ∧ OnlyChannel c s t ∧ Moves [.channels] s t ∧
        ((s.channels.get c).hold = none → t.channels.get c = { s.channels.get c with hold := some s.now }) ∧
        ((s.channels.get c).hold ≠ none → t.channels.get c = s.channels.get c)) ∧
      ∃ t, exec (.go c code) s = .next t ∧ OnlyChannel c s t ∧ Moves [.channels] s t ∧
        t.channels.get c = { s.channels.get c with hold := none })

/-- RETAKE taken (R132 to R137): above the highest line started only the last fault code changes; otherwise the trouble count
rises by 8, a count of 128 or more ends the call DROPPED, and the queue takes one entry for the line, RESEND or SKIP by the
store's answer, unless it has one already or is full. What the member's leaving makes of its round is `leaveRound`
(`CallEnded`; O23 with log entry 25, the model's choice). -/
def Obligations.RetakeIsHandledInOrder : Prop :=
  ∀ (c : Chan) (code line : Word) (s : State) (k : Call) (ch : Channel) (L : Nat), ch = s.channels.get c → L = line.toNat →
    ch.call = some k → CodeAgrees k.entry code → ch.state = .picture ∨ ch.state = .stopping →
    ∃ u, exec (.retake c code line) s = .next (finishStep u) ∧ OnlyChannel c s u ∧
      (ch.sendPosition ≤ L → Moves [.channels] s u ∧ u.channels.get c = { ch with fault := .badRetake }) ∧
      (L < ch.sendPosition → 120 ≤ ch.trouble → CallEnded c (.outcome .dropped) s u ∧ DestinationPlaced c .dropped s u ∧
        (u.channels.get c).trouble = ch.trouble + 8 ∧ (u.channels.get c).fault = ch.fault ∧ Moves callEndParts s u) ∧
      (L < ch.sendPosition → ch.trouble < 120 →
        TroubleRises c 8 k ch s u ∧ Moves [.links, .channels] s u ∧
        (.resend L ∈ ch.queue ∨ .skip L ∈ ch.queue →
          u.channels.get c = { ch with trouble := ch.trouble + 8, caution := (u.channels.get c).caution }) ∧
        (.resend L ∉ ch.queue → .skip L ∉ ch.queue → 6 ≤ ch.queue.length →
          u.channels.get c = { ch with trouble := ch.trouble + 8, caution := (u.channels.get c).caution,
                                       refused := min 65535 (ch.refused + 1) }) ∧
        (.resend L ∉ ch.queue → .skip L ∉ ch.queue → ch.queue.length < 6 →
          u.channels.get c = { ch with trouble := ch.trouble + 8, caution := (u.channels.get c).caution,
                                       queue := ch.queue ++
                                         [if askLine c L s.lineStore = none then .skip L else .resend L] }))

/-- RECEIPT taken in AWAIT RECEIPT (R111, R140): the call ends DELIVERED or DELIVERED WITH GAPS by the lines unrecovered, and
the destination it served is FINAL with the report, its grade at most 9 and its picture number at most 9999. What the member's
leaving makes of its round is `leaveRound` (`CallEnded`; O23 with log entry 25, the model's choice). -/
def Obligations.ReceiptEndsTheCall : Prop :=
  ∀ (c : Chan) (code received unrecovered : Word) (grade : Byte) (picture : Word) (s : State) (k : Call) (oc : CallOutcome),
    (s.channels.get c).state = .awaitReceipt → (s.channels.get c).call = some k → CodeAgrees k.entry code →
    oc = (if unrecovered.toNat = 0 then .delivered else .deliveredWithGaps) →
    ∃ u, exec (.receipt c code received unrecovered grade picture) s = .next (finishStep u) ∧ CallEnded c (.outcome oc) s u ∧
      DestinationPlaced c oc s u ∧ OnlyChannel c s u ∧ Moves callEndParts s u ∧
      ∀ o d, findOrder s k.order = some o → o.dests[k.dest]? = some d → d.state = .sending → d.channel = some c →
        ∃ x, findDest u k.order k.dest = some x ∧ x.state = .final ∧ x.outcome = some oc ∧ x.exhausted = false ∧
          x.report = some { received := received.toNat, unrecovered := unrecovered.toNat, grade := min 9 grade.toNat,
                            picture := min 9999 picture.toNat } ∧
          u.filing = s.filing ++ [{ order := k.order, dest := k.dest, channel := some c }]

/-! ### Line periods and forward frames -/

/-- The segments of a line (R122): ceil(S / g) LINE frames, segment j with the levels from j × g on, at most g of them, the
first and the last flagged, each with the line number and the resent flag of its sending. The frames of R120 with the check
code of R121: their bytes, kind byte and fields as R184 lays them out and the two check bytes, high byte first, the
computation of the check, their lengths, their bits, each byte most significant first, and the time of a run on the line,
rounded down once for the run (log entry 21). A line that passes the fit check of R7 has left the line by the next period
start (R104, R123). -/
def Obligations.ForwardFramesAreLaidOut : Prop :=
  (∀ (g : SegmentSize) (resent : Bool) (n : Nat) (levels : List Nat) (count : Nat), count = ceilDiv levels.length g.size →
     (lineSegments g.size resent n levels).length = count ∧
     (∀ j, j < count → (lineSegments g.size resent n levels)[j]? =
       some (.line (decide (j = 0)) (decide (j + 1 = count)) resent n (j * g.size)
         ((levels.drop (j * g.size)).take g.size))) ∧
     ((List.range count).map fun j => (levels.drop (j * g.size)).take g.size).flatten = levels) ∧
  ((∀ (f : ForwardFrame),
     frameBytes f = fieldBytes (frameFields f) ++ fieldBytes [(2, (checkCode (fieldBytes (frameFields f))).toNat)] ∧
     (frameBits f).length = 8 * (frameBytes f).length ∧
     (∀ (j i : Nat) (b : Byte), (frameBytes f)[j]? = some b → i < 8 → (frameBits f)[8 * j + i]? = some (b.getLsbD (7 - i))) ∧
     (frameBytes f).length =
       (match f with
        | .ident _ _ _ => 10
        | .caption _ _ chars => 5 + chars.length
        | .phase _ => 4
        | .line _ _ _ _ _ levels => 10 + levels.length
        | .fill _ => 5
        | .skip _ => 5
        | .abort _ => 5
        | .stop _ _ => 7)) ∧
   (∀ bytes : List Byte, checkCode bytes =
     (bytes.flatMap fun b => [7, 6, 5, 4, 3, 2, 1, 0].map fun i => b.getLsbD i).foldl
       (fun (r : Word) bit => if bit = r.getLsbD 15 then r <<< 1 else (r <<< 1) ^^^ 0x1021#16) 0xFFFF#16) ∧
   (∀ (ch : Channel) (k : Call) (fs : List ForwardFrame), ch.call = some k →
     framesEnd ch fs = ch.runStart + (ch.runBytes + (fs.map fun f => (frameBytes f).length).sum) * 8 * 1000000 / k.entry.rate.bits) ∧
   (∀ (e : Entry) (resent : Bool) (n : Nat) (levels : List Nat), fits levels.length e = true →
     bytesOnLine (lineSegments e.segment.size resent n levels) = levels.length + 10 * ceilDiv levels.length e.segment.size ∧
     lineTime e.rate (bytesOnLine (lineSegments e.segment.size resent n levels)) ≤ 60000000 / e.lpm.lpm))

/-- LINE PERIOD START before the picture (R104, R105, R107, R108, R123): a passed period sends nothing; ANNOUNCE sends IDENT,
CAPTION its next frame of 80 characters and after the last begins PHASING, and PHASING sends the next PHASE frame, or ends the
call with PHASING FAILED after the 32nd. The instant `max s.now (start + length)` of a period is log entry 1, the model's
choice. Without a line timer the row changes nothing, which is the model's choice (log entry 4). What the member's leaving
makes of its round is `leaveRound` (`CallEnded`; O23 with log entry 25, the model's choice). -/
def Obligations.EarlyPeriodsSendTheirFrame : Prop :=
  ∀ (c : Chan) (s : State) (ch : Channel), ch = s.channels.get c →
    (ch.lineTimer = none → exec (.linePeriodStart c) s = .next s) ∧
    ∀ (tm : LineTimer) (now : Nat), ch.lineTimer = some tm → now = max s.now (tm.start + tm.begun * ch.linePeriod) →
      (ch.onLine ≠ none ∨ ch.owed ≠ [] →
        ∃ t, exec (.linePeriodStart c) s = .next t ∧ OnlyChannel c s t ∧ Moves [.now, .channels] s t ∧ t.now = now ∧
          t.channels.get c = { ch with lineTimer := some { tm with begun := tm.begun + 1 } }) ∧
      ∀ k o, ch.onLine = none → ch.owed = [] → ch.call = some k → findOrder s k.order = some o →
        (ch.state = .announce ∨ ch.state = .caption ∨ ch.state = .phasing →
          ∃ u, exec (.linePeriodStart c) s = .next (finishStep u) ∧ OnlyChannel c s u ∧ u.now = now ∧
            (ch.state = .announce → Moves [.now, .channels] s u ∧
              u.channels.get c = periodOf ch tm now [.ident k.bureau k.order o.tag]) ∧
            (ch.state = .caption → ch.captionSent < max 1 (ceilDiv o.caption.length 80) → Moves [.now, .channels] s u ∧
              u.channels.get c =
                { periodOf ch tm now
                    [.caption (decide (ch.captionSent = 0))
                      (decide (ch.captionSent + 1 = max 1 (ceilDiv o.caption.length 80)))
                      ((o.caption.drop (80 * ch.captionSent)).take 80)] with captionSent := ch.captionSent + 1 }) ∧
            ((ch.state = .caption ∧ max 1 (ceilDiv o.caption.length 80) ≤ ch.captionSent) ∨ ch.state = .phasing →
              (ch.phaseCount < 32 → Moves [.now, .channels] s u ∧
                u.channels.get c =
                  { periodOf ch tm now [.phase (ch.phaseCount + 1)] with
                    state := .phasing, phaseCount := ch.phaseCount + 1 }) ∧
              (32 ≤ ch.phaseCount → CallEnded c (.outcome .phasingFailed) s u ∧ DestinationPlaced c .phasingFailed s u ∧
                Moves (.now :: callEndParts) s u)))

/-- LINE PERIOD START in PHASED and PICTURE (R109, R125 to R127, R89), with the SKIP entries of the period removed and counted
at its start (log entry 33): a hold sends FILL; in PICTURE the queue is served, its SKIP frames first and at most one resend;
then the new line at the send position starts if the store holds it for the channel, otherwise FILL. A new line raises
position and count, lowers the trouble count, releases the mark D lines back, and line N − 1 makes the channel STOPPING. The
instant `max s.now (start + length)` of a period is log entry 1, the model's choice. Before the line store has read a retake
depth since reset, a PHASED channel sends FILL (R109): its line 0 is not there. -/
def Obligations.PicturePeriodsCarryOneLine : Prop :=
  (∀ (c : Chan) (s : State) (ch : Channel) (tm : LineTimer) (now D : Nat) (k : Call) (o : Order)
     (skipped left : List RetakeEntry), ch = s.channels.get c → ch.lineTimer = some tm →
     now = max s.now (tm.start + tm.begun * ch.linePeriod) → ch.onLine = none → ch.owed = [] → ch.call = some k →
     findOrder s k.order = some o → s.lineStore.depth = some D → StoreCanonical s →
     (ch.state = .picture ∨ ch.state = .phased ∧ ch.queue = [] ∧ ch.sendPosition = 0 ∧ ch.skipped ≤ 65535) →
     QueueServed (fun l => askLine c l s.lineStore) ch.queue skipped left →
     ∃ u, exec (.linePeriodStart c) s = .next (finishStep u) ∧ OnlyChannel c s u ∧ u.now = now ∧
       Moves [.now, .channels, .lineStore] s u ∧
       (ch.hold ≠ none → u.lineStore = s.lineStore ∧
         u.channels.get c = periodOf ch tm now [.fill ch.sendPosition]) ∧
       (ch.hold = none →
         (∀ l levels rest, left = .resend l :: rest → askLine c l s.lineStore = some levels → u.lineStore = s.lineStore ∧
           u.channels.get c =
             { periodOf ch tm now (skipFrames skipped ++ lineSegments k.entry.segment.size true l levels) with
               queue := rest, skipped := min 65535 (ch.skipped + skipped.length),
               resent := min 65535 (ch.resent + 1) }) ∧
         (left = [] → askLine c ch.sendPosition s.lineStore = none → u.lineStore = s.lineStore ∧
           u.channels.get c =
             { periodOf ch tm now (skipFrames skipped ++ [.fill ch.sendPosition]) with
               queue := [], skipped := min 65535 (ch.skipped + skipped.length) }) ∧
         (∀ levels, left = [] → askLine c ch.sendPosition s.lineStore = some levels →
           u.channels.get c =
             { periodOf ch tm now
                 (skipFrames skipped ++ lineSegments k.entry.segment.size false ch.sendPosition levels) with
               queue := [], skipped := min 65535 (ch.skipped + skipped.length), sendPosition := ch.sendPosition + 1,
               sent := min 65535 (ch.sent + 1), trouble := ch.trouble - 1,
               caution := if ch.trouble - 1 < 32 then .armed else ch.caution,
               state := if o.lines = ch.sendPosition + 1 then .stopping else .picture,
               stopping := if o.lines = ch.sendPosition + 1 then 0 else ch.stopping } ∧
           u.lineStore.depth = some D ∧
           ∀ d m, askLine d m u.lineStore =
             if d = c ∧ m + D = ch.sendPosition then none else askLine d m s.lineStore))) ∧
  (∀ (c : Chan) (s : State) (ch : Channel) (tm : LineTimer) (now : Nat), ch = s.channels.get c → ch.lineTimer = some tm →
     now = max s.now (tm.start + tm.begun * ch.linePeriod) → ch.onLine = none → ch.owed = [] → ch.state = .phased →
     s.lineStore.depth = none → s.lineStore.held = [] →
     ∃ u, exec (.linePeriodStart c) s = .next (finishStep u) ∧ OnlyChannel c s u ∧ u.now = now ∧
       Moves [.now, .channels] s u ∧ u.channels.get c = periodOf ch tm now [.fill ch.sendPosition])

/-- LINE PERIOD START in STOPPING (R128, R91): an owed queue is served and the stopping count starts again; an empty one gives
FILL and raises the count up to D; then STOP, with every mark of the channel released. That every SKIP entry of the period
leaves the queue and is counted at the period's start is the model's choice (log entry 33), and so is the instant `max s.now
(start + length)` of the period (log entry 1). -/
def Obligations.StoppingPeriodsEndInStop : Prop :=
  ∀ (c : Chan) (s : State) (ch : Channel) (tm : LineTimer) (now D : Nat) (k : Call) (o : Order)
    (skipped left : List RetakeEntry), ch = s.channels.get c → ch.lineTimer = some tm →
    now = max s.now (tm.start + tm.begun * ch.linePeriod) → ch.onLine = none → ch.owed = [] → ch.call = some k →
    findOrder s k.order = some o → s.lineStore.depth = some D → StoreCanonical s → ch.state = .stopping →
    QueueServed (fun l => askLine c l s.lineStore) ch.queue skipped left →
    ∃ u, exec (.linePeriodStart c) s = .next (finishStep u) ∧ OnlyChannel c s u ∧ u.now = now ∧
      Moves [.now, .channels, .lineStore] s u ∧
      (ch.queue = [] → ch.stopping < D → u.lineStore = s.lineStore ∧
        u.channels.get c = { periodOf ch tm now [.fill ch.sendPosition] with stopping := ch.stopping + 1 }) ∧
      (ch.queue = [] → D ≤ ch.stopping → u.channels.get c = periodOf ch tm now [.stop k.order o.lines] ∧
        u.lineStore.depth = some D ∧
        ∀ d m, askLine d m u.lineStore = if d = c then none else askLine d m s.lineStore) ∧
      (ch.queue ≠ [] → u.lineStore = s.lineStore ∧
        (∀ l levels rest, left = .resend l :: rest → askLine c l s.lineStore = some levels →
          u.channels.get c =
            { periodOf ch tm now (skipFrames skipped ++ lineSegments k.entry.segment.size true l levels) with
              queue := rest, stopping := 0, skipped := min 65535 (ch.skipped + skipped.length),
              resent := min 65535 (ch.resent + 1) }) ∧
        (left = [] →
          u.channels.get c =
            { periodOf ch tm now (skipFrames skipped ++ [.fill ch.sendPosition]) with
              queue := [], stopping := 0, skipped := min 65535 (ch.skipped + skipped.length) }))

/-- A frame on the line (R120): the data output carries its bits at the line rate, from its first byte on. That the instant at
which a frame has left the line, and the place of each bit, are taken from the time of the whole run, rounded down once, is
the model's choice (log entry 21). A frame that has left the line (R120, R90, R110, R111): the next owed one begins at that
instant. The STOP of STOPPING stops the line timer and makes the channel AWAIT RECEIPT; the last segment of a resend of line L
releases the mark on L if new line L + D has been started, and keeps it otherwise. That it goes even where a fresh RESEND
entry for L is queued, as R90 reads, is log entry 11, and that RESEND END and STOP SENT act as the end of that frame log entry
24, the model's choice. The instant `max s.now (start + length)` is log entry 1, the model's choice. -/
def Obligations.FramesLeaveTheLine : Prop :=
  ∀ (c : Chan) (s : State) (ch : Channel) (f : ForwardFrame) (k : Call) (gone : Nat), ch = s.channels.get c →
    ch.onLine = some f → ch.call = some k →
      gone = ch.runStart + (ch.runBytes + (frameBytes f).length) * 8 * 1000000 / k.entry.rate.bits →
    (∀ i b, (frameBits f)[i]? = some b → (s.now - ch.runStart) * k.entry.rate.bits / 1000000 = 8 * ch.runBytes + i →
      forwardOutput s c = some b) ∧
    ((¬ (ch.state = .picture ∨ ch.state = .stopping) ∨
        ((∀ a n x levels, f ≠ .line a true true n x levels) ∧ ∀ n m, f ≠ .stop n m)) →
      ∃ t, exec (.forwardFrameSent c) s = .next t ∧ OnlyChannel c s t ∧ Moves [.now, .channels] s t ∧
        t.now = max s.now gone ∧
        t.channels.get c = { ch with onLine := ch.owed.head?, owed := ch.owed.tail, runBytes := ch.runBytes + (frameBytes f).length }) ∧
    (ch.state = .stopping → (∃ n m, f = .stop n m) → ∀ i, i = .forwardFrameSent c ∨ i = .stopSent c →
      ∃ t, exec i s = .next t ∧ OnlyChannel c s t ∧ Moves [.now, .channels] s t ∧ t.now = max s.now gone ∧
        t.channels.get c =
          { ch with onLine := ch.owed.head?, owed := ch.owed.tail, runBytes := ch.runBytes + (frameBytes f).length, state := .awaitReceipt,
                    stateTimer := some t.now, lineTimer := none, queue := [], hold := none, stopping := 0 }) ∧
    (∀ a L x levels D, ch.state = .picture ∨ ch.state = .stopping → f = .line a true true L x levels →
      s.lineStore.depth = some D → StoreCanonical s → ∀ i, i = .forwardFrameSent c ∨ i = .resendEnd c →
      ∃ t, exec i s = .next t ∧ OnlyChannel c s t ∧ Moves [.now, .channels, .lineStore] s t ∧ t.now = max s.now gone ∧
        t.channels.get c = { ch with onLine := ch.owed.head?, owed := ch.owed.tail, runBytes := ch.runBytes + (frameBytes f).length } ∧
        t.lineStore.depth = some D ∧
        ∀ d m, askLine d m t.lineStore =
          if d = c ∧ m = L ∧ L + D < ch.sendPosition then none else askLine d m s.lineStore)

/-! ### Receipts and slips -/

/-- RELEASE RECEIPT and the presence inputs (R146 to R148): NO SUCH RECEIPT for a number not in the log; otherwise OK, the
link's flag set, and the record removed if each link has released it or is absent and its slip is done. A falling presence
removes every such record; a rising one removes none. The places freed let the waiting references through in the same step
(R23; `LetThrough`, from the state `m` that the removals leave). REPRINT SLIP (R160): its three checks in order; taken, the
record is PENDING with its reprint flag set. -/
def Obligations.ReceiptCommandsActOnTheRecord : Prop :=
  (∀ (l : Link) (s : State), RecordsDistinct s →
     (∀ f : Word, findReceipt s f.toNat = none → RefusedWith (.releaseReceipt l f) l 0x1B#8 .noSuchReceipt s) ∧
     (∀ (f : Word) (r x : Receipt), findReceipt s f.toNat = some r → x = { r with released := r.released.set l true } →
       ∃ m t, exec (.releaseReceipt l f) s = .next t ∧ LetThrough s.log.length m t ∧
         Posted l 0x1B#8 .ok 0 s m ∧ Moves [.links, .log] s m ∧ LogShrinks s m ∧
         (∀ g, g ≠ f.toNat → findReceipt m g = findReceipt s g) ∧
         (Removable s x → findReceipt m f.toNat = none) ∧
         (¬ Removable s x → findReceipt m f.toNat = some x ∧ t = m)) ∧
     (∃ m t, exec (.presenceFall l) s = .next t ∧ LetThrough s.log.length m t ∧ Moves [.pins, .log] s m ∧
       m.pins = { s.pins with presence := s.pins.presence.set l false } ∧ m.log.Sublist s.log ∧
       ∀ r, r ∈ m.log ↔ r ∈ s.log ∧ ¬ Removable m r) ∧
     ∃ t, exec (.presenceRise l) s = .next t ∧ Moves [.pins] s t ∧
       t.pins = { s.pins with presence := s.pins.presence.set l true }) ∧
  (∀ (l : Link) (f : Word) (s : State) (i : Instr), i = .reprintSlip l f → RecordsDistinct s →
     (findReceipt s f.toNat = none → RefusedWith i l 0x1C#8 .noSuchReceipt s) ∧
     ∀ r, findReceipt s f.toNat = some r →
       (s.printer.state = .disabled ∨ s.printer.disablePending = true → RefusedWith i l 0x1C#8 .printerDisabled s) ∧
       (s.printer.state ≠ .disabled → s.printer.disablePending = false →
         (r.slip ≠ .printed → RefusedWith i l 0x1C#8 .notPrinted s) ∧
         (r.slip = .printed →
           ∃ t, exec i s = .next t ∧ Posted l 0x1C#8 .ok 0 s t ∧ Moves [.links, .log] s t ∧
             findReceipt t f.toNat = some { r with slip := .pending, reprint := true } ∧
             ∀ g, g ≠ f.toNat → findReceipt t g = findReceipt s g)))

/-- A slip begins and goes on (R155 to R157): in READY with the earliest PENDING record, its text formed and its rate read;
before each character PRRDY is read (an operand, log entry 8) and decides between PRINTING and WAITING; a character sent
raises the position, at the end of its 11 bit times behind the characters of its run (rounded down once for the run: log entry
21); PRRDY ready ends a wait. PRTX carries the bits of the character at the position, and rests high in every other case.
Outside its state an event of the printer changes nothing (log entry 4). The instant `max s.now (start + length)` is log entry
1, the model's choice. The slip text (R159): its lines in the order and the form of the table, each followed by carriage
return and line feed; 12 lines with the REPRINT line and 11 without, none above 40 characters. -/
def Obligations.SlipsArePrintedCharacterByCharacter : Prop :=
  (∀ (ready : Bool) (s : State),
     (s.printer.state ≠ .ready ∨ (∀ r ∈ s.log, r.slip ≠ .pending) → exec (.slipBegin ready) s = .next s) ∧
     (∀ (before after : List Receipt) (r : Receipt), RecordsDistinct s → s.printer.state = .ready →
       s.log = before ++ r :: after → (∀ x ∈ before, x.slip ≠ .pending) → r.slip = .pending →
       ∃ t, exec (.slipBegin ready) s = .next t ∧ Moves [.log, .printer, .pins] s t ∧
         t.log = before ++ { r with slip := .printing } :: after ∧
         t.printer.slip = some { filing := r.filing, text := slipText (readSettings s.store).bureau r,
                                 rate := (readSettings s.store).rate } ∧
         t.printer.position = 0 ∧ t.printer.disablePending = s.printer.disablePending ∧
         t.printer.state = (if ready then .printing else .waiting) ∧
         (ready = true → t.printer.runStart = s.now ∧ t.printer.runSent = 0) ∧
         t.pins = { s.pins with printerReady := ready }) ∧
     (∀ (sl : Slip) (now : Nat), s.printer.state = .printing → s.printer.slip = some sl →
       now = max s.now (s.printer.runStart + (s.printer.runSent + 1) * 11 * 1000000 / sl.rate.baud) →
       s.printer.position + 1 < sl.text.length → s.printer.abandonDue = false →
       ∃ t, exec (.slipCharacterSent ready) s = .next t ∧ Moves [.now, .printer, .pins] s t ∧ t.now = now ∧
         t.pins = { s.pins with printerReady := ready } ∧
         t.printer = { s.printer with
           position := s.printer.position + 1, state := if ready then .printing else .waiting,
           runSent := if ready then s.printer.runSent + 1 else s.printer.runSent }) ∧
     (s.printer.state ≠ .printing → exec (.slipCharacterSent ready) s = .next s) ∧
     (s.printer.state = .waiting →
       ∃ t, exec .prrdyReady s = .next t ∧ Moves [.printer, .pins] s t ∧ t.pins = { s.pins with printerReady := true } ∧
         t.printer = { s.printer with state := .printing, runStart := s.now, runSent := 0 }) ∧
     (s.printer.state ≠ .waiting →
       exec .prrdyReady s = .next { s with pins := { s.pins with printerReady := true } }) ∧
     (s.printer.state ≠ .printing ∨ s.printer.slip = none → printerLine s = true) ∧
     (∀ (sl : Slip) (ch : Byte) (i : Nat), s.printer.state = .printing → s.printer.slip = some sl →
       sl.text[s.printer.position]? = some ch →
       (s.now - s.printer.runStart) * sl.rate.baud / 1000000 = 11 * s.printer.runSent + i →
       (i = 0 → printerLine s = false) ∧
       (1 ≤ i → i ≤ 7 → printerLine s = ch.getLsbD (i - 1)) ∧
       (i = 8 → printerLine s = decide (((List.range 7).filter fun j => ch.getLsbD j).length % 2 = 1)) ∧
       (9 ≤ i → printerLine s = true))) ∧
  (∀ (bureau : Word) (r : Receipt),
     slipText bureau r = (slipTable bureau r).flatMap (fun line => line ++ [0x0D#8, 0x0A#8]) ∧
     (slipTable bureau r).length = (if r.reprint then 12 else 11) ∧
     (r.name.length ≤ 16 → r.caption.length ≤ 32 → ∀ line ∈ slipTable bureau r, line.length ≤ 40))

/-- A slip ends (R157, R158): with its last character the record is PRINTED, its reprint flag cleared, and removed if released
on each present link, a place freed so letting the waiting references through (R23, R146; `LetThrough`, from the state `m`);
the controller is READY, or PAPER OUT with no filing number where paper is absent by then. Abandoned for an absence, it
returns to PENDING, its reprint flag set if a character was sent, and PRINTER ATTENTION names it. Paper absent in READY is
PAPER OUT with no filing number, and paper back is READY. (With disable pending clear. The order of a paper absence and a
character on the line is log entry 9, the model's choice, and so is paper that is back by the end of that character: an
abandoned slip leaves the controller READY, and a slip complete with that character leaves it READY without PRINTER
ATTENTION.) A slip that ends with disable pending set (R157, R158, R161): the controller is DISABLED and disable pending
cleared, every PENDING record of the log, the abandoned one among them, is NOT REQUIRED, and each is removed if it may leave
(R146), the places freed letting the waiting references through (R23; `LetThrough`, from the state `m`). That all removals
come before the first transfer, and that PAPER_ABSENT lets references through too, is the model's choice (log entry 37). -/
def Obligations.SlipsEndPrintedOrAbandoned : Prop :=
  (∀ (s : State), RecordsDistinct s → s.printer.disablePending = false →
     (∀ (ready : Bool) (sl : Slip) (r x : Receipt), s.printer.state = .printing → s.printer.slip = some sl →
       findReceipt s sl.filing = some r → x = { r with slip := .printed, reprint := false } →
       sl.text.length ≤ s.printer.position + 1 →
       ∃ m t, exec (.slipCharacterSent ready) s = .next t ∧ LetThrough s.log.length m t ∧
         Moves [.now, .links, .log, .printer] s m ∧ LogShrinks s m ∧
         (Removable s x → findReceipt m sl.filing = none) ∧
         (¬ Removable s x → findReceipt m sl.filing = some x ∧ t = m) ∧
         (∀ g, g ≠ sl.filing → findReceipt m g = findReceipt s g) ∧ m.printer.slip = none ∧ m.printer.position = 0 ∧
         (s.pins.paper = true → m.printer.state = .ready ∧ m.links = s.links) ∧
         (s.pins.paper = false → m.printer.state = .paperOut ∧ NoticedToBoth (.printerAttention none) m)) ∧
     (∀ (i : Instr) (ready : Bool) (sl : Slip) (r : Receipt) (sent : Nat), s.printer.slip = some sl →
       findReceipt s sl.filing = some r →
       (i = .slipCharacterSent ready ∧ s.printer.state = .printing ∧ s.printer.abandonDue = true ∧
           sent = s.printer.position + 1 ∧ sent < sl.text.length ∨
         i = .paperAbsent ∧ s.printer.state = .waiting ∧ sent = s.printer.position) →
       ∃ t, exec i s = .next t ∧ Moves [.now, .links, .log, .printer, .pins] s t ∧
         findReceipt t sl.filing = some { r with slip := .pending, reprint := r.reprint || decide (1 ≤ sent) } ∧
         (∀ g, g ≠ sl.filing → findReceipt t g = findReceipt s g) ∧ t.printer.slip = none ∧ t.printer.position = 0 ∧
         NoticedToBoth (.printerAttention (some sl.filing)) t ∧
         t.pins = (if i = .paperAbsent then { s.pins with paper := false } else s.pins) ∧
         t.printer.state = (if t.pins.paper then .ready else .paperOut)) ∧
     (s.printer.state = .ready → ∃ t, exec .paperAbsent s = .next t ∧ Moves [.links, .printer, .pins] s t ∧
       t.printer = { s.printer with state := .paperOut } ∧ NoticedToBoth (.printerAttention none) t ∧
       t.pins = { s.pins with paper := false }) ∧
     (s.printer.state = .printing → ∃ t, exec .paperAbsent s = .next t ∧ Moves [.printer, .pins] s t ∧
       t.printer = { s.printer with abandonDue := true } ∧ t.pins = { s.pins with paper := false }) ∧
     (s.printer.state = .disabled ∨ s.printer.state = .paperOut →
       exec .paperAbsent s = .next { s with pins := { s.pins with paper := false } }) ∧
     ∃ t, exec .paperPresent s = .next t ∧ Moves [.printer, .pins] s t ∧ t.pins = { s.pins with paper := true } ∧
       t.printer = (if s.printer.state = .paperOut then { s.printer with state := .ready } else s.printer)) ∧
  (∀ (s : State) (i : Instr) (ready : Bool) (sl : Slip) (r x : Receipt) (sent : Nat), RecordsDistinct s →
     s.printer.disablePending = true → s.printer.slip = some sl → findReceipt s sl.filing = some r →
     (i = .slipCharacterSent ready ∧ s.printer.state = .printing ∧ sl.text.length ≤ s.printer.position + 1 ∧
         x = { r with slip := .printed, reprint := false } ∨
       (i = .slipCharacterSent ready ∧ s.printer.state = .printing ∧ s.printer.abandonDue = true ∧
           sent = s.printer.position + 1 ∧ sent < sl.text.length ∨
         i = .paperAbsent ∧ s.printer.state = .waiting ∧ sent = s.printer.position) ∧
         x = { r with slip := .notRequired, reprint := r.reprint || decide (1 ≤ sent) }) →
     ∃ m t, exec i s = .next t ∧ LetThrough s.log.length m t ∧ Moves [.now, .links, .log, .printer, .pins] s m ∧
       m.pins = (if i = .paperAbsent then { s.pins with paper := false } else s.pins) ∧
       m.printer.state = .disabled ∧ m.printer.disablePending = false ∧ m.printer.slip = none ∧ m.printer.position = 0 ∧
       (∀ y ∈ m.log, y.slip ≠ .pending) ∧ LogShrinks s m ∧
       (Removable s x → findReceipt m sl.filing = none) ∧ (¬ Removable s x → findReceipt m sl.filing = some x) ∧
       (∀ g, g ≠ sl.filing → PendingDropped g s m) ∧
       (x.slip = .printed → m.links = s.links) ∧
       (x.slip = .notRequired → NoticedToBoth (.printerAttention (some sl.filing)) m))

/-! ### The setting store -/

/-- The six store writes (R166 to R171): STORE BUSY while a cycle runs; LOCKED, or GUARD LOW for CLEAR LOCK; BAD FIELD and BAD
CURVE; IN USE; REFERENCED; CHANNEL BUSY, in this order. Taken, the result is OK with the item and the store is WRITING. That
WRITE CURVE with an index above 3 is BAD FIELD whatever its points, falling ones too, is the model's choice (log entry 34). -/
def Obligations.StoreWritesAreCheckedInOrder : Prop :=
  ∀ (l : Link) (b : Byte) (a : EntryArgs) (points : List Byte) (v : SettingsArgs) (s : State) (i : Nat), i = b.toNat →
    points.length = 17 →
    (s.store.cycle ≠ none →
      RefusedWith (.writeDirectory l b a) l 0x20#8 .storeBusy s ∧ RefusedWith (.eraseDirectory l b) l 0x21#8 .storeBusy s ∧
      RefusedWith (.writeCurve l b points) l 0x22#8 .storeBusy s ∧ RefusedWith (.writeSettings l v) l 0x23#8 .storeBusy s ∧
      RefusedWith (.setLock l) l 0x24#8 .storeBusy s ∧ RefusedWith (.clearLock l) l 0x25#8 .storeBusy s) ∧
    (s.store.cycle = none →
      WriteTaken (.setLock l) l 0x24#8 (.lock true) 0x300 s ∧
      (s.pins.guard = false → RefusedWith (.clearLock l) l 0x25#8 .guardLow s) ∧
      (s.pins.guard = true → WriteTaken (.clearLock l) l 0x25#8 (.lock false) 0x300 s) ∧
      (readLockFlag s.store = true ∧ s.pins.guard = false →
        RefusedWith (.writeDirectory l b a) l 0x20#8 .locked s ∧ RefusedWith (.eraseDirectory l b) l 0x21#8 .locked s ∧
        RefusedWith (.writeCurve l b points) l 0x22#8 .locked s ∧ RefusedWith (.writeSettings l v) l 0x23#8 .locked s) ∧
      (readLockFlag s.store = false ∨ s.pins.guard = true →
        (23 < i ∨ EntryOutOfRange a → RefusedWith (.writeDirectory l b a) l 0x20#8 .badField s) ∧
        (i ≤ 23 → ¬ EntryOutOfRange a →
          (EntryNamed s i [.assigned, .sending] → RefusedWith (.writeDirectory l b a) l 0x20#8 .inUse s) ∧
          (¬ EntryNamed s i [.assigned, .sending] →
            ∃ e, EntryCarried a e ∧ WriteTaken (.writeDirectory l b a) l 0x20#8 (.entry i (some e)) i s)) ∧
        (23 < i → RefusedWith (.eraseDirectory l b) l 0x21#8 .badField s) ∧
        (i ≤ 23 →
          (EntryNamed s i [.assigned, .sending] → RefusedWith (.eraseDirectory l b) l 0x21#8 .inUse s) ∧
          (¬ EntryNamed s i [.assigned, .sending] →
            (EntryNamed s i [.ready, .delayed] → RefusedWith (.eraseDirectory l b) l 0x21#8 .referenced s) ∧
            (¬ EntryNamed s i [.ready, .delayed] →
              WriteTaken (.eraseDirectory l b) l 0x21#8 (.entry i none) i s))) ∧
        (3 < i → RefusedWith (.writeCurve l b points) l 0x22#8 .badField s) ∧
        (i ≤ 3 →
          (¬ List.Pairwise (· ≤ ·) (points.map BitVec.toNat) →
            RefusedWith (.writeCurve l b points) l 0x22#8 .badCurve s) ∧
          (List.Pairwise (· ≤ ·) (points.map BitVec.toNat) →
            ∃ t : Curve, t.toList = points.map BitVec.toNat ∧
              WriteTaken (.writeCurve l b points) l 0x22#8 (.curve i t) (0x100 + i) s)) ∧
        (SettingsOutOfRange v → RefusedWith (.writeSettings l v) l 0x23#8 .badField s) ∧
        (¬ SettingsOutOfRange v →
          ∃ x, SettingsCarried v x ∧
            (SomeChannelBusy s x → RefusedWith (.writeSettings l v) l 0x23#8 .channelBusy s) ∧
            (¬ SomeChannelBusy s x → WriteTaken (.writeSettings l v) l 0x23#8 (.settings x) 0x200 s))))

/-- STORE CYCLE END and the guard (R161, R165, R166, R170, R171): 25 ms after its start the cycle's item takes its new
contents, the others keep theirs, the store is IDLE and STORE DONE goes to the link that asked; the printer follows a change
of its setting. Where the setting turns disabled, each PENDING record becomes NOT REQUIRED and leaves only if it may, every
other record stays, and the places freed let the waiting references through (R23, R146; `LetThrough`, from the state `m`),
after all the removals, which is log entry 37, the model's choice. A fall of the guard inside a cycle locks the store only at
its end. STORE CYCLE END while no cycle runs changes nothing, which is the model's choice (log entry 4). The instant `max
s.now (start + length)` is log entry 1, the model's choice. -/
def Obligations.StoreCyclesEndWithTheNewContents : Prop :=
  (∀ s : State, s.store.cycle = none → exec .storeCycleEnd s = .next s) ∧
  (∀ (s : State) (c : StoreCycle), s.store.cycle = some c →
    ∃ m t, exec .storeCycleEnd s = .next t ∧ LetThrough s.log.length m t ∧ m.now = max s.now (c.start + 25000) ∧ m.store.cycle = none ∧
      Moves [.now, .links, .log, .printer, .store] s m ∧ OnlyLink c.link s m ∧
      (m.links.get c.link).notices.storeDone = some (.storeDone c.item.name) ∧
      (∀ (j : Nat) (h : j < 24), (∀ e, c.item = .entry j e → readEntry m.store j = readingOf e) ∧
        ((∀ e, c.item ≠ .entry j e) → m.store.entries[j] = s.store.entries[j])) ∧
      (∀ (j : Nat) (h : j < 4), (∀ p, c.item = .curve j p → readCurvePoints m.store j = p ∧ curveReplaced m.store j = false) ∧
        ((∀ p, c.item ≠ .curve j p) → m.store.curves[j] = s.store.curves[j])) ∧
      (∀ v, c.item = .settings v → readSettings m.store = v ∧ m.store.settings.damaged = false) ∧
      ((∀ v, c.item ≠ .settings v) → m.store.settings = s.store.settings) ∧
      (∀ b, c.item = .lock b → readLockFlag m.store = b ∧ m.store.lock.damaged = false) ∧
      ((∀ b, c.item ≠ .lock b) → m.store.lock = s.store.lock) ∧
      (storeLocked m = true ↔ readLockFlag m.store = true ∧ s.pins.guard = false) ∧
      ((readSettings m.store).printerEnabled = (readSettings s.store).printerEnabled →
        m.printer = s.printer ∧ m.log = s.log) ∧
      ((readSettings s.store).printerEnabled = true → (readSettings m.store).printerEnabled = false →
        s.printer.state ≠ .disabled → (∀ r ∈ m.log, r.slip ≠ .pending) ∧ LogShrinks s m ∧
        (RecordsDistinct s → ∀ g, PendingDropped g s m) ∧
        (s.printer.state = .ready ∨ s.printer.state = .paperOut → m.printer = { s.printer with state := .disabled }) ∧
        (s.printer.state = .printing ∨ s.printer.state = .waiting →
          m.printer = { s.printer with disablePending := true })) ∧
      ((readSettings s.store).printerEnabled = false → (readSettings m.store).printerEnabled = true → m.log = s.log ∧
        (s.printer.state = .disabled →
          m.printer = { s.printer with state := if s.pins.paper then .ready else .paperOut }) ∧
        (s.printer.state = .printing ∨ s.printer.state = .waiting →
          m.printer = { s.printer with disablePending := false }))) ∧
  ∀ s : State,
    (∃ t, exec .guardFall s = .next t ∧ Moves [.pins, .store] s t ∧ t.pins = { s.pins with guard := false } ∧
      (s.store.cycle = none → t.store = s.store ∧ (storeLocked t = true ↔ readLockFlag s.store = true)) ∧
      (∀ c, s.store.cycle = some c → s.pins.guard = true → storeLocked t = false ∧
        t.store = { s.store with cycle := some { c with guardFell := true } })) ∧
    ∃ t, exec .guardRise s = .next t ∧ Moves [.pins] s t ∧ t.pins = { s.pins with guard := true } ∧ storeLocked t = false

/-! ### What every step keeps -/

/-- The attention outputs (R179): from every state in which each follows its notice set and mask, every step gives such a
state. -/
def Obligations.EveryStepKeepsAttention : Prop :=
  ∀ s t : State, AttentionAgrees s → step s = .next t → AttentionAgrees t

/-- The tables (R2, R83, R93, R145, 1.1): the line store in its canonical form, at most 16 orders and 32 records, and no
number used twice among the orders or among the records; every step keeps them. -/
def Obligations.EveryStepKeepsTheTables : Prop :=
  ∀ s t : State, StoreCanonical s → TablesBounded s → OrdersDistinct s → RecordsDistinct s → step s = .next t →
    StoreCanonical t ∧ TablesBounded t ∧ OrdersDistinct t ∧ RecordsDistinct t

/-- The states of the machines (R47, R50, R101, R133, R154): the target class is present exactly while the drum turns, a slip
is in progress exactly in PRINTING and WAITING, a channel is off hook only in a call or its RELEASE, and each retake queue
holds at most 6 entries, no two of one line; every step keeps all four. Every step leaves the model's scratch flag clear (log
entry 17). -/
def Obligations.EveryStepKeepsTheStatesCoherent : Prop :=
  (∀ s t : State, DrumCoherent s → SlipCoherent s → HookCoherent s → QueuesBounded s → step s = .next t →
     DrumCoherent t ∧ SlipCoherent t ∧ HookCoherent t ∧ QueuesBounded t) ∧
  (∀ s t : State, StepDone s → step s = .next t → StepDone t)

/-- The state right after reset meets every invariant stated of the steps: those of the rules (R2, R47, R50, R83, R93, R101,
R133, R145, R154, R179), and `StepDone`, which is the model's own (log entry 17). -/
def Obligations.ResetMeetsEveryInvariant : Prop :=
  AttentionAgrees State.reset ∧ StoreCanonical State.reset ∧ TablesBounded State.reset ∧ OrdersDistinct State.reset ∧
    RecordsDistinct State.reset ∧ DrumCoherent State.reset ∧ SlipCoherent State.reset ∧ HookCoherent State.reset ∧
    QueuesBounded State.reset ∧ StepDone State.reset
end

