-- ==== Sys2Proof/Laws/State.lean ====
section
/-! SUPPORT. What the updates of State leave in each field: one lemma per update and field it does not touch, true by `rfl`,
and the values read back from the pairs of values by link, channel and kind. -/

namespace Sys2Proof

@[simp] theorem PerLink.get_set {α : Type} (p : PerLink α) (l : Link) (v : α) : (p.set l v).get l = v := by
  cases l <;> rfl

@[simp] theorem PerLink.get_set_ne {α : Type} (p : PerLink α) {l k : Link} (v : α) (h : k ≠ l) :
    (p.set l v).get k = p.get k := by
  cases l <;> cases k <;> first | rfl | exact absurd rfl h

@[simp] theorem PerChan.get_set {α : Type} (p : PerChan α) (c : Chan) (v : α) : (p.set c v).get c = v := by
  cases c <;> rfl

@[simp] theorem PerChan.get_set_ne {α : Type} (p : PerChan α) {c d : Chan} (v : α) (h : d ≠ c) :
    (p.set c v).get d = p.get d := by
  cases c <;> cases d <;> first | rfl | exact absurd rfl h

@[simp] theorem PerChan.get_all {α : Type} (v : α) (c : Chan) : (PerChan.all v).get c = v := by cases c <;> rfl

namespace Machine

@[simp] theorem PerKind.get_set {α : Type} (p : PerKind α) (k : NoticeKind) (v : α) : (p.set k v).get k = v := by
  cases k <;> rfl

@[simp] theorem PerKind.get_set_ne {α : Type} (p : PerKind α) {k j : NoticeKind} (v : α) (h : j ≠ k) :
    (p.set k v).get j = p.get j := by
  cases k <;> cases j <;> first | rfl | exact absurd rfl h

@[simp] theorem PerKind.get_all {α : Type} (v : α) (k : NoticeKind) : (PerKind.all v).get k = v := by cases k <;> rfl

@[simp] theorem modChan_get (c : Chan) (f : Channel → Channel) (s : State) :
    (modChan c f s).channels.get c = f (s.channels.get c) := by simp [modChan]

theorem modChan_get_ne {c d : Chan} (f : Channel → Channel) (s : State) (h : d ≠ c) :
    (modChan c f s).channels.get d = s.channels.get d := by simp [modChan, h]

@[simp] theorem postResult_now (l : Link) (b : Byte) (r : ResultCode) (v : Nat) (s : State) : (postResult l b r v s).now = s.now := rfl
@[simp] theorem postResult_book (l : Link) (b : Byte) (r : ResultCode) (v : Nat) (s : State) : (postResult l b r v s).book = s.book := rfl
@[simp] theorem postResult_filing (l : Link) (b : Byte) (r : ResultCode) (v : Nat) (s : State) : (postResult l b r v s).filing = s.filing := rfl
@[simp] theorem postResult_nextFiling (l : Link) (b : Byte) (r : ResultCode) (v : Nat) (s : State) : (postResult l b r v s).nextFiling = s.nextFiling := rfl
@[simp] theorem postResult_round (l : Link) (b : Byte) (r : ResultCode) (v : Nat) (s : State) : (postResult l b r v s).round = s.round := rfl
@[simp] theorem postResult_drum (l : Link) (b : Byte) (r : ResultCode) (v : Nat) (s : State) : (postResult l b r v s).drum = s.drum := rfl
@[simp] theorem postResult_head (l : Link) (b : Byte) (r : ResultCode) (v : Nat) (s : State) : (postResult l b r v s).head = s.head := rfl
@[simp] theorem postResult_mount (l : Link) (b : Byte) (r : ResultCode) (v : Nat) (s : State) : (postResult l b r v s).mount = s.mount := rfl
@[simp] theorem postResult_converter (l : Link) (b : Byte) (r : ResultCode) (v : Nat) (s : State) : (postResult l b r v s).converter = s.converter := rfl
@[simp] theorem postResult_lineStore (l : Link) (b : Byte) (r : ResultCode) (v : Nat) (s : State) : (postResult l b r v s).lineStore = s.lineStore := rfl
@[simp] theorem postResult_channels (l : Link) (b : Byte) (r : ResultCode) (v : Nat) (s : State) : (postResult l b r v s).channels = s.channels := rfl
@[simp] theorem postResult_log (l : Link) (b : Byte) (r : ResultCode) (v : Nat) (s : State) : (postResult l b r v s).log = s.log := rfl
@[simp] theorem postResult_printer (l : Link) (b : Byte) (r : ResultCode) (v : Nat) (s : State) : (postResult l b r v s).printer = s.printer := rfl
@[simp] theorem postResult_store (l : Link) (b : Byte) (r : ResultCode) (v : Nat) (s : State) : (postResult l b r v s).store = s.store := rfl
@[simp] theorem postResult_clock (l : Link) (b : Byte) (r : ResultCode) (v : Nat) (s : State) : (postResult l b r v s).clock = s.clock := rfl
@[simp] theorem postResult_pins (l : Link) (b : Byte) (r : ResultCode) (v : Nat) (s : State) : (postResult l b r v s).pins = s.pins := rfl
@[simp] theorem postResult_selectDue (l : Link) (b : Byte) (r : ResultCode) (v : Nat) (s : State) : (postResult l b r v s).selectDue = s.selectDue := rfl
@[simp] theorem postResult_free (l : Link) (b : Byte) (r : ResultCode) (v : Nat) (s : State) : (postResult l b r v s).free = s.free := rfl
@[simp] theorem postResult_pending (l : Link) (b : Byte) (r : ResultCode) (v : Nat) (s : State) : (postResult l b r v s).pending = s.pending := rfl

@[simp] theorem setAssembly_now (l : Link) (a : Assembly) (s : State) : (setAssembly l a s).now = s.now := rfl
@[simp] theorem setAssembly_book (l : Link) (a : Assembly) (s : State) : (setAssembly l a s).book = s.book := rfl
@[simp] theorem setAssembly_filing (l : Link) (a : Assembly) (s : State) : (setAssembly l a s).filing = s.filing := rfl
@[simp] theorem setAssembly_nextFiling (l : Link) (a : Assembly) (s : State) : (setAssembly l a s).nextFiling = s.nextFiling := rfl
@[simp] theorem setAssembly_round (l : Link) (a : Assembly) (s : State) : (setAssembly l a s).round = s.round := rfl
@[simp] theorem setAssembly_drum (l : Link) (a : Assembly) (s : State) : (setAssembly l a s).drum = s.drum := rfl
@[simp] theorem setAssembly_head (l : Link) (a : Assembly) (s : State) : (setAssembly l a s).head = s.head := rfl
@[simp] theorem setAssembly_mount (l : Link) (a : Assembly) (s : State) : (setAssembly l a s).mount = s.mount := rfl
@[simp] theorem setAssembly_converter (l : Link) (a : Assembly) (s : State) : (setAssembly l a s).converter = s.converter := rfl
@[simp] theorem setAssembly_lineStore (l : Link) (a : Assembly) (s : State) : (setAssembly l a s).lineStore = s.lineStore := rfl
@[simp] theorem setAssembly_channels (l : Link) (a : Assembly) (s : State) : (setAssembly l a s).channels = s.channels := rfl
@[simp] theorem setAssembly_log (l : Link) (a : Assembly) (s : State) : (setAssembly l a s).log = s.log := rfl
@[simp] theorem setAssembly_printer (l : Link) (a : Assembly) (s : State) : (setAssembly l a s).printer = s.printer := rfl
@[simp] theorem setAssembly_store (l : Link) (a : Assembly) (s : State) : (setAssembly l a s).store = s.store := rfl
@[simp] theorem setAssembly_clock (l : Link) (a : Assembly) (s : State) : (setAssembly l a s).clock = s.clock := rfl
@[simp] theorem setAssembly_pins (l : Link) (a : Assembly) (s : State) : (setAssembly l a s).pins = s.pins := rfl
@[simp] theorem setAssembly_selectDue (l : Link) (a : Assembly) (s : State) : (setAssembly l a s).selectDue = s.selectDue := rfl
@[simp] theorem setAssembly_free (l : Link) (a : Assembly) (s : State) : (setAssembly l a s).free = s.free := rfl
@[simp] theorem setAssembly_pending (l : Link) (a : Assembly) (s : State) : (setAssembly l a s).pending = s.pending := rfl

@[simp] theorem setAssembly_get (l : Link) (a : Assembly) (s : State) :
    (setAssembly l a s).links.get l = { s.links.get l with assembly := a } := by cases l <;> rfl

theorem setAssembly_get_ne {l k : Link} (a : Assembly) (s : State) (h : k ≠ l) :
    (setAssembly l a s).links.get k = s.links.get k := by simp [setAssembly, h]

@[simp] theorem setAssembly_setAssembly (l : Link) (a b : Assembly) (s : State) :
    setAssembly l b (setAssembly l a s) = setAssembly l b s := by cases l <;> rfl

/-- Setting the assembly that a link already has changes nothing. -/
theorem setAssembly_self (l : Link) (s : State) : setAssembly l (s.links.get l).assembly s = s := by cases l <;> rfl

@[simp] theorem takeAnswer_now (l : Link) (b a : List Byte) (s : State) : (takeAnswer l b a s).now = s.now := rfl
@[simp] theorem takeAnswer_book (l : Link) (b a : List Byte) (s : State) : (takeAnswer l b a s).book = s.book := rfl
@[simp] theorem takeAnswer_filing (l : Link) (b a : List Byte) (s : State) : (takeAnswer l b a s).filing = s.filing := rfl
@[simp] theorem takeAnswer_nextFiling (l : Link) (b a : List Byte) (s : State) : (takeAnswer l b a s).nextFiling = s.nextFiling := rfl
@[simp] theorem takeAnswer_round (l : Link) (b a : List Byte) (s : State) : (takeAnswer l b a s).round = s.round := rfl
@[simp] theorem takeAnswer_drum (l : Link) (b a : List Byte) (s : State) : (takeAnswer l b a s).drum = s.drum := rfl
@[simp] theorem takeAnswer_head (l : Link) (b a : List Byte) (s : State) : (takeAnswer l b a s).head = s.head := rfl
@[simp] theorem takeAnswer_mount (l : Link) (b a : List Byte) (s : State) : (takeAnswer l b a s).mount = s.mount := rfl
@[simp] theorem takeAnswer_converter (l : Link) (b a : List Byte) (s : State) : (takeAnswer l b a s).converter = s.converter := rfl
@[simp] theorem takeAnswer_lineStore (l : Link) (b a : List Byte) (s : State) : (takeAnswer l b a s).lineStore = s.lineStore := rfl
@[simp] theorem takeAnswer_channels (l : Link) (b a : List Byte) (s : State) : (takeAnswer l b a s).channels = s.channels := rfl
@[simp] theorem takeAnswer_log (l : Link) (b a : List Byte) (s : State) : (takeAnswer l b a s).log = s.log := rfl
@[simp] theorem takeAnswer_printer (l : Link) (b a : List Byte) (s : State) : (takeAnswer l b a s).printer = s.printer := rfl
@[simp] theorem takeAnswer_store (l : Link) (b a : List Byte) (s : State) : (takeAnswer l b a s).store = s.store := rfl
@[simp] theorem takeAnswer_clock (l : Link) (b a : List Byte) (s : State) : (takeAnswer l b a s).clock = s.clock := rfl
@[simp] theorem takeAnswer_pins (l : Link) (b a : List Byte) (s : State) : (takeAnswer l b a s).pins = s.pins := rfl
@[simp] theorem takeAnswer_selectDue (l : Link) (b a : List Byte) (s : State) : (takeAnswer l b a s).selectDue = s.selectDue := rfl
@[simp] theorem takeAnswer_free (l : Link) (b a : List Byte) (s : State) : (takeAnswer l b a s).free = s.free := rfl
@[simp] theorem takeAnswer_pending (l : Link) (b a : List Byte) (s : State) : (takeAnswer l b a s).pending = s.pending := rfl

@[simp] theorem noticeTo_now (l : Link) (n : Notice) (s : State) : (noticeTo l n s).now = s.now := rfl
@[simp] theorem noticeTo_book (l : Link) (n : Notice) (s : State) : (noticeTo l n s).book = s.book := rfl
@[simp] theorem noticeTo_filing (l : Link) (n : Notice) (s : State) : (noticeTo l n s).filing = s.filing := rfl
@[simp] theorem noticeTo_nextFiling (l : Link) (n : Notice) (s : State) : (noticeTo l n s).nextFiling = s.nextFiling := rfl
@[simp] theorem noticeTo_round (l : Link) (n : Notice) (s : State) : (noticeTo l n s).round = s.round := rfl
@[simp] theorem noticeTo_drum (l : Link) (n : Notice) (s : State) : (noticeTo l n s).drum = s.drum := rfl
@[simp] theorem noticeTo_head (l : Link) (n : Notice) (s : State) : (noticeTo l n s).head = s.head := rfl
@[simp] theorem noticeTo_mount (l : Link) (n : Notice) (s : State) : (noticeTo l n s).mount = s.mount := rfl
@[simp] theorem noticeTo_converter (l : Link) (n : Notice) (s : State) : (noticeTo l n s).converter = s.converter := rfl
@[simp] theorem noticeTo_lineStore (l : Link) (n : Notice) (s : State) : (noticeTo l n s).lineStore = s.lineStore := rfl
@[simp] theorem noticeTo_channels (l : Link) (n : Notice) (s : State) : (noticeTo l n s).channels = s.channels := rfl
@[simp] theorem noticeTo_log (l : Link) (n : Notice) (s : State) : (noticeTo l n s).log = s.log := rfl
@[simp] theorem noticeTo_printer (l : Link) (n : Notice) (s : State) : (noticeTo l n s).printer = s.printer := rfl
@[simp] theorem noticeTo_store (l : Link) (n : Notice) (s : State) : (noticeTo l n s).store = s.store := rfl
@[simp] theorem noticeTo_clock (l : Link) (n : Notice) (s : State) : (noticeTo l n s).clock = s.clock := rfl
@[simp] theorem noticeTo_pins (l : Link) (n : Notice) (s : State) : (noticeTo l n s).pins = s.pins := rfl
@[simp] theorem noticeTo_selectDue (l : Link) (n : Notice) (s : State) : (noticeTo l n s).selectDue = s.selectDue := rfl
@[simp] theorem noticeTo_free (l : Link) (n : Notice) (s : State) : (noticeTo l n s).free = s.free := rfl
@[simp] theorem noticeTo_pending (l : Link) (n : Notice) (s : State) : (noticeTo l n s).pending = s.pending := rfl

@[simp] theorem noticeBoth_now (n : Notice) (s : State) : (noticeBoth n s).now = s.now := rfl
@[simp] theorem noticeBoth_book (n : Notice) (s : State) : (noticeBoth n s).book = s.book := rfl
@[simp] theorem noticeBoth_filing (n : Notice) (s : State) : (noticeBoth n s).filing = s.filing := rfl
@[simp] theorem noticeBoth_nextFiling (n : Notice) (s : State) : (noticeBoth n s).nextFiling = s.nextFiling := rfl
@[simp] theorem noticeBoth_round (n : Notice) (s : State) : (noticeBoth n s).round = s.round := rfl
@[simp] theorem noticeBoth_drum (n : Notice) (s : State) : (noticeBoth n s).drum = s.drum := rfl
@[simp] theorem noticeBoth_head (n : Notice) (s : State) : (noticeBoth n s).head = s.head := rfl
@[simp] theorem noticeBoth_mount (n : Notice) (s : State) : (noticeBoth n s).mount = s.mount := rfl
@[simp] theorem noticeBoth_converter (n : Notice) (s : State) : (noticeBoth n s).converter = s.converter := rfl
@[simp] theorem noticeBoth_lineStore (n : Notice) (s : State) : (noticeBoth n s).lineStore = s.lineStore := rfl
@[simp] theorem noticeBoth_channels (n : Notice) (s : State) : (noticeBoth n s).channels = s.channels := rfl
@[simp] theorem noticeBoth_log (n : Notice) (s : State) : (noticeBoth n s).log = s.log := rfl
@[simp] theorem noticeBoth_printer (n : Notice) (s : State) : (noticeBoth n s).printer = s.printer := rfl
@[simp] theorem noticeBoth_store (n : Notice) (s : State) : (noticeBoth n s).store = s.store := rfl
@[simp] theorem noticeBoth_clock (n : Notice) (s : State) : (noticeBoth n s).clock = s.clock := rfl
@[simp] theorem noticeBoth_pins (n : Notice) (s : State) : (noticeBoth n s).pins = s.pins := rfl
@[simp] theorem noticeBoth_selectDue (n : Notice) (s : State) : (noticeBoth n s).selectDue = s.selectDue := rfl
@[simp] theorem noticeBoth_free (n : Notice) (s : State) : (noticeBoth n s).free = s.free := rfl
@[simp] theorem noticeBoth_pending (n : Notice) (s : State) : (noticeBoth n s).pending = s.pending := rfl

@[simp] theorem modLink_now (l : Link) (f : LinkState → LinkState) (s : State) : (modLink l f s).now = s.now := rfl
@[simp] theorem modLink_book (l : Link) (f : LinkState → LinkState) (s : State) : (modLink l f s).book = s.book := rfl
@[simp] theorem modLink_filing (l : Link) (f : LinkState → LinkState) (s : State) : (modLink l f s).filing = s.filing := rfl
@[simp] theorem modLink_nextFiling (l : Link) (f : LinkState → LinkState) (s : State) : (modLink l f s).nextFiling = s.nextFiling := rfl
@[simp] theorem modLink_round (l : Link) (f : LinkState → LinkState) (s : State) : (modLink l f s).round = s.round := rfl
@[simp] theorem modLink_drum (l : Link) (f : LinkState → LinkState) (s : State) : (modLink l f s).drum = s.drum := rfl
@[simp] theorem modLink_head (l : Link) (f : LinkState → LinkState) (s : State) : (modLink l f s).head = s.head := rfl
@[simp] theorem modLink_mount (l : Link) (f : LinkState → LinkState) (s : State) : (modLink l f s).mount = s.mount := rfl
@[simp] theorem modLink_converter (l : Link) (f : LinkState → LinkState) (s : State) : (modLink l f s).converter = s.converter := rfl
@[simp] theorem modLink_lineStore (l : Link) (f : LinkState → LinkState) (s : State) : (modLink l f s).lineStore = s.lineStore := rfl
@[simp] theorem modLink_channels (l : Link) (f : LinkState → LinkState) (s : State) : (modLink l f s).channels = s.channels := rfl
@[simp] theorem modLink_log (l : Link) (f : LinkState → LinkState) (s : State) : (modLink l f s).log = s.log := rfl
@[simp] theorem modLink_printer (l : Link) (f : LinkState → LinkState) (s : State) : (modLink l f s).printer = s.printer := rfl
@[simp] theorem modLink_store (l : Link) (f : LinkState → LinkState) (s : State) : (modLink l f s).store = s.store := rfl
@[simp] theorem modLink_clock (l : Link) (f : LinkState → LinkState) (s : State) : (modLink l f s).clock = s.clock := rfl
@[simp] theorem modLink_pins (l : Link) (f : LinkState → LinkState) (s : State) : (modLink l f s).pins = s.pins := rfl
@[simp] theorem modLink_selectDue (l : Link) (f : LinkState → LinkState) (s : State) : (modLink l f s).selectDue = s.selectDue := rfl
@[simp] theorem modLink_free (l : Link) (f : LinkState → LinkState) (s : State) : (modLink l f s).free = s.free := rfl
@[simp] theorem modLink_pending (l : Link) (f : LinkState → LinkState) (s : State) : (modLink l f s).pending = s.pending := rfl

@[simp] theorem jumpTo_links (t : Nat) (s : State) : (jumpTo t s).links = s.links := rfl
@[simp] theorem jumpTo_book (t : Nat) (s : State) : (jumpTo t s).book = s.book := rfl
@[simp] theorem jumpTo_filing (t : Nat) (s : State) : (jumpTo t s).filing = s.filing := rfl
@[simp] theorem jumpTo_nextFiling (t : Nat) (s : State) : (jumpTo t s).nextFiling = s.nextFiling := rfl
@[simp] theorem jumpTo_round (t : Nat) (s : State) : (jumpTo t s).round = s.round := rfl
@[simp] theorem jumpTo_drum (t : Nat) (s : State) : (jumpTo t s).drum = s.drum := rfl
@[simp] theorem jumpTo_head (t : Nat) (s : State) : (jumpTo t s).head = s.head := rfl
@[simp] theorem jumpTo_mount (t : Nat) (s : State) : (jumpTo t s).mount = s.mount := rfl
@[simp] theorem jumpTo_converter (t : Nat) (s : State) : (jumpTo t s).converter = s.converter := rfl
@[simp] theorem jumpTo_lineStore (t : Nat) (s : State) : (jumpTo t s).lineStore = s.lineStore := rfl
@[simp] theorem jumpTo_channels (t : Nat) (s : State) : (jumpTo t s).channels = s.channels := rfl
@[simp] theorem jumpTo_log (t : Nat) (s : State) : (jumpTo t s).log = s.log := rfl
@[simp] theorem jumpTo_printer (t : Nat) (s : State) : (jumpTo t s).printer = s.printer := rfl
@[simp] theorem jumpTo_store (t : Nat) (s : State) : (jumpTo t s).store = s.store := rfl
@[simp] theorem jumpTo_clock (t : Nat) (s : State) : (jumpTo t s).clock = s.clock := rfl
@[simp] theorem jumpTo_pins (t : Nat) (s : State) : (jumpTo t s).pins = s.pins := rfl
@[simp] theorem jumpTo_selectDue (t : Nat) (s : State) : (jumpTo t s).selectDue = s.selectDue := rfl
@[simp] theorem jumpTo_free (t : Nat) (s : State) : (jumpTo t s).free = s.free := rfl
@[simp] theorem jumpTo_pending (t : Nat) (s : State) : (jumpTo t s).pending = s.pending := rfl

@[simp] theorem markSelection_now (s : State) : (markSelection s).now = s.now := rfl
@[simp] theorem markSelection_links (s : State) : (markSelection s).links = s.links := rfl
@[simp] theorem markSelection_book (s : State) : (markSelection s).book = s.book := rfl
@[simp] theorem markSelection_filing (s : State) : (markSelection s).filing = s.filing := rfl
@[simp] theorem markSelection_nextFiling (s : State) : (markSelection s).nextFiling = s.nextFiling := rfl
@[simp] theorem markSelection_round (s : State) : (markSelection s).round = s.round := rfl
@[simp] theorem markSelection_drum (s : State) : (markSelection s).drum = s.drum := rfl
@[simp] theorem markSelection_head (s : State) : (markSelection s).head = s.head := rfl
@[simp] theorem markSelection_mount (s : State) : (markSelection s).mount = s.mount := rfl
@[simp] theorem markSelection_converter (s : State) : (markSelection s).converter = s.converter := rfl
@[simp] theorem markSelection_lineStore (s : State) : (markSelection s).lineStore = s.lineStore := rfl
@[simp] theorem markSelection_channels (s : State) : (markSelection s).channels = s.channels := rfl
@[simp] theorem markSelection_log (s : State) : (markSelection s).log = s.log := rfl
@[simp] theorem markSelection_printer (s : State) : (markSelection s).printer = s.printer := rfl
@[simp] theorem markSelection_store (s : State) : (markSelection s).store = s.store := rfl
@[simp] theorem markSelection_clock (s : State) : (markSelection s).clock = s.clock := rfl
@[simp] theorem markSelection_pins (s : State) : (markSelection s).pins = s.pins := rfl
@[simp] theorem markSelection_free (s : State) : (markSelection s).free = s.free := rfl
@[simp] theorem markSelection_pending (s : State) : (markSelection s).pending = s.pending := rfl

@[simp] theorem modChan_now (c : Chan) (f : Channel → Channel) (s : State) : (modChan c f s).now = s.now := rfl
@[simp] theorem modChan_links (c : Chan) (f : Channel → Channel) (s : State) : (modChan c f s).links = s.links := rfl
@[simp] theorem modChan_book (c : Chan) (f : Channel → Channel) (s : State) : (modChan c f s).book = s.book := rfl
@[simp] theorem modChan_filing (c : Chan) (f : Channel → Channel) (s : State) : (modChan c f s).filing = s.filing := rfl
@[simp] theorem modChan_nextFiling (c : Chan) (f : Channel → Channel) (s : State) : (modChan c f s).nextFiling = s.nextFiling := rfl
@[simp] theorem modChan_round (c : Chan) (f : Channel → Channel) (s : State) : (modChan c f s).round = s.round := rfl
@[simp] theorem modChan_drum (c : Chan) (f : Channel → Channel) (s : State) : (modChan c f s).drum = s.drum := rfl
@[simp] theorem modChan_head (c : Chan) (f : Channel → Channel) (s : State) : (modChan c f s).head = s.head := rfl
@[simp] theorem modChan_mount (c : Chan) (f : Channel → Channel) (s : State) : (modChan c f s).mount = s.mount := rfl
@[simp] theorem modChan_converter (c : Chan) (f : Channel → Channel) (s : State) : (modChan c f s).converter = s.converter := rfl
@[simp] theorem modChan_lineStore (c : Chan) (f : Channel → Channel) (s : State) : (modChan c f s).lineStore = s.lineStore := rfl
@[simp] theorem modChan_log (c : Chan) (f : Channel → Channel) (s : State) : (modChan c f s).log = s.log := rfl
@[simp] theorem modChan_printer (c : Chan) (f : Channel → Channel) (s : State) : (modChan c f s).printer = s.printer := rfl
@[simp] theorem modChan_store (c : Chan) (f : Channel → Channel) (s : State) : (modChan c f s).store = s.store := rfl
@[simp] theorem modChan_clock (c : Chan) (f : Channel → Channel) (s : State) : (modChan c f s).clock = s.clock := rfl
@[simp] theorem modChan_pins (c : Chan) (f : Channel → Channel) (s : State) : (modChan c f s).pins = s.pins := rfl
@[simp] theorem modChan_selectDue (c : Chan) (f : Channel → Channel) (s : State) : (modChan c f s).selectDue = s.selectDue := rfl
@[simp] theorem modChan_free (c : Chan) (f : Channel → Channel) (s : State) : (modChan c f s).free = s.free := rfl
@[simp] theorem modChan_pending (c : Chan) (f : Channel → Channel) (s : State) : (modChan c f s).pending = s.pending := rfl

@[simp] theorem modOrder_now (n : Nat) (f : Order → Order) (s : State) : (modOrder n f s).now = s.now := rfl
@[simp] theorem modOrder_links (n : Nat) (f : Order → Order) (s : State) : (modOrder n f s).links = s.links := rfl
@[simp] theorem modOrder_filing (n : Nat) (f : Order → Order) (s : State) : (modOrder n f s).filing = s.filing := rfl
@[simp] theorem modOrder_nextFiling (n : Nat) (f : Order → Order) (s : State) : (modOrder n f s).nextFiling = s.nextFiling := rfl
@[simp] theorem modOrder_round (n : Nat) (f : Order → Order) (s : State) : (modOrder n f s).round = s.round := rfl
@[simp] theorem modOrder_drum (n : Nat) (f : Order → Order) (s : State) : (modOrder n f s).drum = s.drum := rfl
@[simp] theorem modOrder_head (n : Nat) (f : Order → Order) (s : State) : (modOrder n f s).head = s.head := rfl
@[simp] theorem modOrder_mount (n : Nat) (f : Order → Order) (s : State) : (modOrder n f s).mount = s.mount := rfl
@[simp] theorem modOrder_converter (n : Nat) (f : Order → Order) (s : State) : (modOrder n f s).converter = s.converter := rfl
@[simp] theorem modOrder_lineStore (n : Nat) (f : Order → Order) (s : State) : (modOrder n f s).lineStore = s.lineStore := rfl
@[simp] theorem modOrder_channels (n : Nat) (f : Order → Order) (s : State) : (modOrder n f s).channels = s.channels := rfl
@[simp] theorem modOrder_log (n : Nat) (f : Order → Order) (s : State) : (modOrder n f s).log = s.log := rfl
@[simp] theorem modOrder_printer (n : Nat) (f : Order → Order) (s : State) : (modOrder n f s).printer = s.printer := rfl
@[simp] theorem modOrder_store (n : Nat) (f : Order → Order) (s : State) : (modOrder n f s).store = s.store := rfl
@[simp] theorem modOrder_clock (n : Nat) (f : Order → Order) (s : State) : (modOrder n f s).clock = s.clock := rfl
@[simp] theorem modOrder_pins (n : Nat) (f : Order → Order) (s : State) : (modOrder n f s).pins = s.pins := rfl
@[simp] theorem modOrder_selectDue (n : Nat) (f : Order → Order) (s : State) : (modOrder n f s).selectDue = s.selectDue := rfl
@[simp] theorem modOrder_free (n : Nat) (f : Order → Order) (s : State) : (modOrder n f s).free = s.free := rfl
@[simp] theorem modOrder_pending (n : Nat) (f : Order → Order) (s : State) : (modOrder n f s).pending = s.pending := rfl

@[simp] theorem modDest_now (n i : Nat) (f : Destination → Destination) (s : State) : (modDest n i f s).now = s.now := rfl
@[simp] theorem modDest_links (n i : Nat) (f : Destination → Destination) (s : State) : (modDest n i f s).links = s.links := rfl
@[simp] theorem modDest_filing (n i : Nat) (f : Destination → Destination) (s : State) : (modDest n i f s).filing = s.filing := rfl
@[simp] theorem modDest_nextFiling (n i : Nat) (f : Destination → Destination) (s : State) : (modDest n i f s).nextFiling = s.nextFiling := rfl
@[simp] theorem modDest_round (n i : Nat) (f : Destination → Destination) (s : State) : (modDest n i f s).round = s.round := rfl
@[simp] theorem modDest_drum (n i : Nat) (f : Destination → Destination) (s : State) : (modDest n i f s).drum = s.drum := rfl
@[simp] theorem modDest_head (n i : Nat) (f : Destination → Destination) (s : State) : (modDest n i f s).head = s.head := rfl
@[simp] theorem modDest_mount (n i : Nat) (f : Destination → Destination) (s : State) : (modDest n i f s).mount = s.mount := rfl
@[simp] theorem modDest_converter (n i : Nat) (f : Destination → Destination) (s : State) : (modDest n i f s).converter = s.converter := rfl
@[simp] theorem modDest_lineStore (n i : Nat) (f : Destination → Destination) (s : State) : (modDest n i f s).lineStore = s.lineStore := rfl
@[simp] theorem modDest_channels (n i : Nat) (f : Destination → Destination) (s : State) : (modDest n i f s).channels = s.channels := rfl
@[simp] theorem modDest_log (n i : Nat) (f : Destination → Destination) (s : State) : (modDest n i f s).log = s.log := rfl
@[simp] theorem modDest_printer (n i : Nat) (f : Destination → Destination) (s : State) : (modDest n i f s).printer = s.printer := rfl
@[simp] theorem modDest_store (n i : Nat) (f : Destination → Destination) (s : State) : (modDest n i f s).store = s.store := rfl
@[simp] theorem modDest_clock (n i : Nat) (f : Destination → Destination) (s : State) : (modDest n i f s).clock = s.clock := rfl
@[simp] theorem modDest_pins (n i : Nat) (f : Destination → Destination) (s : State) : (modDest n i f s).pins = s.pins := rfl
@[simp] theorem modDest_selectDue (n i : Nat) (f : Destination → Destination) (s : State) : (modDest n i f s).selectDue = s.selectDue := rfl
@[simp] theorem modDest_free (n i : Nat) (f : Destination → Destination) (s : State) : (modDest n i f s).free = s.free := rfl
@[simp] theorem modDest_pending (n i : Nat) (f : Destination → Destination) (s : State) : (modDest n i f s).pending = s.pending := rfl

@[simp] theorem moveOrders_now (a b : OrderState) (s : State) : (moveOrders a b s).now = s.now := rfl
@[simp] theorem moveOrders_links (a b : OrderState) (s : State) : (moveOrders a b s).links = s.links := rfl
@[simp] theorem moveOrders_filing (a b : OrderState) (s : State) : (moveOrders a b s).filing = s.filing := rfl
@[simp] theorem moveOrders_nextFiling (a b : OrderState) (s : State) : (moveOrders a b s).nextFiling = s.nextFiling := rfl
@[simp] theorem moveOrders_round (a b : OrderState) (s : State) : (moveOrders a b s).round = s.round := rfl
@[simp] theorem moveOrders_drum (a b : OrderState) (s : State) : (moveOrders a b s).drum = s.drum := rfl
@[simp] theorem moveOrders_head (a b : OrderState) (s : State) : (moveOrders a b s).head = s.head := rfl
@[simp] theorem moveOrders_mount (a b : OrderState) (s : State) : (moveOrders a b s).mount = s.mount := rfl
@[simp] theorem moveOrders_converter (a b : OrderState) (s : State) : (moveOrders a b s).converter = s.converter := rfl
@[simp] theorem moveOrders_lineStore (a b : OrderState) (s : State) : (moveOrders a b s).lineStore = s.lineStore := rfl
@[simp] theorem moveOrders_channels (a b : OrderState) (s : State) : (moveOrders a b s).channels = s.channels := rfl
@[simp] theorem moveOrders_log (a b : OrderState) (s : State) : (moveOrders a b s).log = s.log := rfl
@[simp] theorem moveOrders_printer (a b : OrderState) (s : State) : (moveOrders a b s).printer = s.printer := rfl
@[simp] theorem moveOrders_store (a b : OrderState) (s : State) : (moveOrders a b s).store = s.store := rfl
@[simp] theorem moveOrders_clock (a b : OrderState) (s : State) : (moveOrders a b s).clock = s.clock := rfl
@[simp] theorem moveOrders_pins (a b : OrderState) (s : State) : (moveOrders a b s).pins = s.pins := rfl
@[simp] theorem moveOrders_selectDue (a b : OrderState) (s : State) : (moveOrders a b s).selectDue = s.selectDue := rfl
@[simp] theorem moveOrders_free (a b : OrderState) (s : State) : (moveOrders a b s).free = s.free := rfl
@[simp] theorem moveOrders_pending (a b : OrderState) (s : State) : (moveOrders a b s).pending = s.pending := rfl

@[simp] theorem setOrderState_now (n : Nat) (a : OrderState) (s : State) : (setOrderState n a s).now = s.now := rfl
@[simp] theorem setOrderState_links (n : Nat) (a : OrderState) (s : State) : (setOrderState n a s).links = s.links := rfl
@[simp] theorem setOrderState_filing (n : Nat) (a : OrderState) (s : State) : (setOrderState n a s).filing = s.filing := rfl
@[simp] theorem setOrderState_nextFiling (n : Nat) (a : OrderState) (s : State) : (setOrderState n a s).nextFiling = s.nextFiling := rfl
@[simp] theorem setOrderState_round (n : Nat) (a : OrderState) (s : State) : (setOrderState n a s).round = s.round := rfl
@[simp] theorem setOrderState_drum (n : Nat) (a : OrderState) (s : State) : (setOrderState n a s).drum = s.drum := rfl
@[simp] theorem setOrderState_head (n : Nat) (a : OrderState) (s : State) : (setOrderState n a s).head = s.head := rfl
@[simp] theorem setOrderState_mount (n : Nat) (a : OrderState) (s : State) : (setOrderState n a s).mount = s.mount := rfl
@[simp] theorem setOrderState_converter (n : Nat) (a : OrderState) (s : State) : (setOrderState n a s).converter = s.converter := rfl
@[simp] theorem setOrderState_lineStore (n : Nat) (a : OrderState) (s : State) : (setOrderState n a s).lineStore = s.lineStore := rfl
@[simp] theorem setOrderState_channels (n : Nat) (a : OrderState) (s : State) : (setOrderState n a s).channels = s.channels := rfl
@[simp] theorem setOrderState_log (n : Nat) (a : OrderState) (s : State) : (setOrderState n a s).log = s.log := rfl
@[simp] theorem setOrderState_printer (n : Nat) (a : OrderState) (s : State) : (setOrderState n a s).printer = s.printer := rfl
@[simp] theorem setOrderState_store (n : Nat) (a : OrderState) (s : State) : (setOrderState n a s).store = s.store := rfl
@[simp] theorem setOrderState_clock (n : Nat) (a : OrderState) (s : State) : (setOrderState n a s).clock = s.clock := rfl
@[simp] theorem setOrderState_pins (n : Nat) (a : OrderState) (s : State) : (setOrderState n a s).pins = s.pins := rfl
@[simp] theorem setOrderState_selectDue (n : Nat) (a : OrderState) (s : State) : (setOrderState n a s).selectDue = s.selectDue := rfl
@[simp] theorem setOrderState_free (n : Nat) (a : OrderState) (s : State) : (setOrderState n a s).free = s.free := rfl
@[simp] theorem setOrderState_pending (n : Nat) (a : OrderState) (s : State) : (setOrderState n a s).pending = s.pending := rfl

@[simp] theorem appendRef_now (r : FilingRef) (s : State) : (appendRef r s).now = s.now := rfl
@[simp] theorem appendRef_links (r : FilingRef) (s : State) : (appendRef r s).links = s.links := rfl
@[simp] theorem appendRef_book (r : FilingRef) (s : State) : (appendRef r s).book = s.book := rfl
@[simp] theorem appendRef_nextFiling (r : FilingRef) (s : State) : (appendRef r s).nextFiling = s.nextFiling := rfl
@[simp] theorem appendRef_round (r : FilingRef) (s : State) : (appendRef r s).round = s.round := rfl
@[simp] theorem appendRef_drum (r : FilingRef) (s : State) : (appendRef r s).drum = s.drum := rfl
@[simp] theorem appendRef_head (r : FilingRef) (s : State) : (appendRef r s).head = s.head := rfl
@[simp] theorem appendRef_mount (r : FilingRef) (s : State) : (appendRef r s).mount = s.mount := rfl
@[simp] theorem appendRef_converter (r : FilingRef) (s : State) : (appendRef r s).converter = s.converter := rfl
@[simp] theorem appendRef_lineStore (r : FilingRef) (s : State) : (appendRef r s).lineStore = s.lineStore := rfl
@[simp] theorem appendRef_channels (r : FilingRef) (s : State) : (appendRef r s).channels = s.channels := rfl
@[simp] theorem appendRef_log (r : FilingRef) (s : State) : (appendRef r s).log = s.log := rfl
@[simp] theorem appendRef_printer (r : FilingRef) (s : State) : (appendRef r s).printer = s.printer := rfl
@[simp] theorem appendRef_store (r : FilingRef) (s : State) : (appendRef r s).store = s.store := rfl
@[simp] theorem appendRef_clock (r : FilingRef) (s : State) : (appendRef r s).clock = s.clock := rfl
@[simp] theorem appendRef_pins (r : FilingRef) (s : State) : (appendRef r s).pins = s.pins := rfl
@[simp] theorem appendRef_selectDue (r : FilingRef) (s : State) : (appendRef r s).selectDue = s.selectDue := rfl
@[simp] theorem appendRef_free (r : FilingRef) (s : State) : (appendRef r s).free = s.free := rfl
@[simp] theorem appendRef_pending (r : FilingRef) (s : State) : (appendRef r s).pending = s.pending := rfl

@[simp] theorem modRecord_now (n : Nat) (f : Receipt → Receipt) (s : State) : (modRecord n f s).now = s.now := rfl
@[simp] theorem modRecord_links (n : Nat) (f : Receipt → Receipt) (s : State) : (modRecord n f s).links = s.links := rfl
@[simp] theorem modRecord_book (n : Nat) (f : Receipt → Receipt) (s : State) : (modRecord n f s).book = s.book := rfl
@[simp] theorem modRecord_filing (n : Nat) (f : Receipt → Receipt) (s : State) : (modRecord n f s).filing = s.filing := rfl
@[simp] theorem modRecord_nextFiling (n : Nat) (f : Receipt → Receipt) (s : State) : (modRecord n f s).nextFiling = s.nextFiling := rfl
@[simp] theorem modRecord_round (n : Nat) (f : Receipt → Receipt) (s : State) : (modRecord n f s).round = s.round := rfl
@[simp] theorem modRecord_drum (n : Nat) (f : Receipt → Receipt) (s : State) : (modRecord n f s).drum = s.drum := rfl
@[simp] theorem modRecord_head (n : Nat) (f : Receipt → Receipt) (s : State) : (modRecord n f s).head = s.head := rfl
@[simp] theorem modRecord_mount (n : Nat) (f : Receipt → Receipt) (s : State) : (modRecord n f s).mount = s.mount := rfl
@[simp] theorem modRecord_converter (n : Nat) (f : Receipt → Receipt) (s : State) : (modRecord n f s).converter = s.converter := rfl
@[simp] theorem modRecord_lineStore (n : Nat) (f : Receipt → Receipt) (s : State) : (modRecord n f s).lineStore = s.lineStore := rfl
@[simp] theorem modRecord_channels (n : Nat) (f : Receipt → Receipt) (s : State) : (modRecord n f s).channels = s.channels := rfl
@[simp] theorem modRecord_printer (n : Nat) (f : Receipt → Receipt) (s : State) : (modRecord n f s).printer = s.printer := rfl
@[simp] theorem modRecord_store (n : Nat) (f : Receipt → Receipt) (s : State) : (modRecord n f s).store = s.store := rfl
@[simp] theorem modRecord_clock (n : Nat) (f : Receipt → Receipt) (s : State) : (modRecord n f s).clock = s.clock := rfl
@[simp] theorem modRecord_pins (n : Nat) (f : Receipt → Receipt) (s : State) : (modRecord n f s).pins = s.pins := rfl
@[simp] theorem modRecord_selectDue (n : Nat) (f : Receipt → Receipt) (s : State) : (modRecord n f s).selectDue = s.selectDue := rfl
@[simp] theorem modRecord_free (n : Nat) (f : Receipt → Receipt) (s : State) : (modRecord n f s).free = s.free := rfl
@[simp] theorem modRecord_pending (n : Nat) (f : Receipt → Receipt) (s : State) : (modRecord n f s).pending = s.pending := rfl

@[simp] theorem testRemoval_now (p : Receipt → Bool) (s : State) : (testRemoval p s).now = s.now := rfl
@[simp] theorem testRemoval_links (p : Receipt → Bool) (s : State) : (testRemoval p s).links = s.links := rfl
@[simp] theorem testRemoval_book (p : Receipt → Bool) (s : State) : (testRemoval p s).book = s.book := rfl
@[simp] theorem testRemoval_filing (p : Receipt → Bool) (s : State) : (testRemoval p s).filing = s.filing := rfl
@[simp] theorem testRemoval_nextFiling (p : Receipt → Bool) (s : State) : (testRemoval p s).nextFiling = s.nextFiling := rfl
@[simp] theorem testRemoval_round (p : Receipt → Bool) (s : State) : (testRemoval p s).round = s.round := rfl
@[simp] theorem testRemoval_drum (p : Receipt → Bool) (s : State) : (testRemoval p s).drum = s.drum := rfl
@[simp] theorem testRemoval_head (p : Receipt → Bool) (s : State) : (testRemoval p s).head = s.head := rfl
@[simp] theorem testRemoval_mount (p : Receipt → Bool) (s : State) : (testRemoval p s).mount = s.mount := rfl
@[simp] theorem testRemoval_converter (p : Receipt → Bool) (s : State) : (testRemoval p s).converter = s.converter := rfl
@[simp] theorem testRemoval_lineStore (p : Receipt → Bool) (s : State) : (testRemoval p s).lineStore = s.lineStore := rfl
@[simp] theorem testRemoval_channels (p : Receipt → Bool) (s : State) : (testRemoval p s).channels = s.channels := rfl
@[simp] theorem testRemoval_printer (p : Receipt → Bool) (s : State) : (testRemoval p s).printer = s.printer := rfl
@[simp] theorem testRemoval_store (p : Receipt → Bool) (s : State) : (testRemoval p s).store = s.store := rfl
@[simp] theorem testRemoval_clock (p : Receipt → Bool) (s : State) : (testRemoval p s).clock = s.clock := rfl
@[simp] theorem testRemoval_pins (p : Receipt → Bool) (s : State) : (testRemoval p s).pins = s.pins := rfl
@[simp] theorem testRemoval_selectDue (p : Receipt → Bool) (s : State) : (testRemoval p s).selectDue = s.selectDue := rfl
@[simp] theorem testRemoval_free (p : Receipt → Bool) (s : State) : (testRemoval p s).free = s.free := rfl
@[simp] theorem testRemoval_pending (p : Receipt → Bool) (s : State) : (testRemoval p s).pending = s.pending := rfl

@[simp] theorem modPrinter_now (f : Printer → Printer) (s : State) : (modPrinter f s).now = s.now := rfl
@[simp] theorem modPrinter_links (f : Printer → Printer) (s : State) : (modPrinter f s).links = s.links := rfl
@[simp] theorem modPrinter_book (f : Printer → Printer) (s : State) : (modPrinter f s).book = s.book := rfl
@[simp] theorem modPrinter_filing (f : Printer → Printer) (s : State) : (modPrinter f s).filing = s.filing := rfl
@[simp] theorem modPrinter_nextFiling (f : Printer → Printer) (s : State) : (modPrinter f s).nextFiling = s.nextFiling := rfl
@[simp] theorem modPrinter_round (f : Printer → Printer) (s : State) : (modPrinter f s).round = s.round := rfl
@[simp] theorem modPrinter_drum (f : Printer → Printer) (s : State) : (modPrinter f s).drum = s.drum := rfl
@[simp] theorem modPrinter_head (f : Printer → Printer) (s : State) : (modPrinter f s).head = s.head := rfl
@[simp] theorem modPrinter_mount (f : Printer → Printer) (s : State) : (modPrinter f s).mount = s.mount := rfl
@[simp] theorem modPrinter_converter (f : Printer → Printer) (s : State) : (modPrinter f s).converter = s.converter := rfl
@[simp] theorem modPrinter_lineStore (f : Printer → Printer) (s : State) : (modPrinter f s).lineStore = s.lineStore := rfl
@[simp] theorem modPrinter_channels (f : Printer → Printer) (s : State) : (modPrinter f s).channels = s.channels := rfl
@[simp] theorem modPrinter_log (f : Printer → Printer) (s : State) : (modPrinter f s).log = s.log := rfl
@[simp] theorem modPrinter_store (f : Printer → Printer) (s : State) : (modPrinter f s).store = s.store := rfl
@[simp] theorem modPrinter_clock (f : Printer → Printer) (s : State) : (modPrinter f s).clock = s.clock := rfl
@[simp] theorem modPrinter_pins (f : Printer → Printer) (s : State) : (modPrinter f s).pins = s.pins := rfl
@[simp] theorem modPrinter_selectDue (f : Printer → Printer) (s : State) : (modPrinter f s).selectDue = s.selectDue := rfl
@[simp] theorem modPrinter_free (f : Printer → Printer) (s : State) : (modPrinter f s).free = s.free := rfl
@[simp] theorem modPrinter_pending (f : Printer → Printer) (s : State) : (modPrinter f s).pending = s.pending := rfl

@[simp] theorem startCycle_now (l : Link) (w : StoreWrite) (s : State) : (startCycle l w s).now = s.now := rfl
@[simp] theorem startCycle_links (l : Link) (w : StoreWrite) (s : State) : (startCycle l w s).links = s.links := rfl
@[simp] theorem startCycle_book (l : Link) (w : StoreWrite) (s : State) : (startCycle l w s).book = s.book := rfl
@[simp] theorem startCycle_filing (l : Link) (w : StoreWrite) (s : State) : (startCycle l w s).filing = s.filing := rfl
@[simp] theorem startCycle_nextFiling (l : Link) (w : StoreWrite) (s : State) : (startCycle l w s).nextFiling = s.nextFiling := rfl
@[simp] theorem startCycle_round (l : Link) (w : StoreWrite) (s : State) : (startCycle l w s).round = s.round := rfl
@[simp] theorem startCycle_drum (l : Link) (w : StoreWrite) (s : State) : (startCycle l w s).drum = s.drum := rfl
@[simp] theorem startCycle_head (l : Link) (w : StoreWrite) (s : State) : (startCycle l w s).head = s.head := rfl
@[simp] theorem startCycle_mount (l : Link) (w : StoreWrite) (s : State) : (startCycle l w s).mount = s.mount := rfl
@[simp] theorem startCycle_converter (l : Link) (w : StoreWrite) (s : State) : (startCycle l w s).converter = s.converter := rfl
@[simp] theorem startCycle_lineStore (l : Link) (w : StoreWrite) (s : State) : (startCycle l w s).lineStore = s.lineStore := rfl
@[simp] theorem startCycle_channels (l : Link) (w : StoreWrite) (s : State) : (startCycle l w s).channels = s.channels := rfl
@[simp] theorem startCycle_log (l : Link) (w : StoreWrite) (s : State) : (startCycle l w s).log = s.log := rfl
@[simp] theorem startCycle_printer (l : Link) (w : StoreWrite) (s : State) : (startCycle l w s).printer = s.printer := rfl
@[simp] theorem startCycle_clock (l : Link) (w : StoreWrite) (s : State) : (startCycle l w s).clock = s.clock := rfl
@[simp] theorem startCycle_pins (l : Link) (w : StoreWrite) (s : State) : (startCycle l w s).pins = s.pins := rfl
@[simp] theorem startCycle_selectDue (l : Link) (w : StoreWrite) (s : State) : (startCycle l w s).selectDue = s.selectDue := rfl
@[simp] theorem startCycle_free (l : Link) (w : StoreWrite) (s : State) : (startCycle l w s).free = s.free := rfl
@[simp] theorem startCycle_pending (l : Link) (w : StoreWrite) (s : State) : (startCycle l w s).pending = s.pending := rfl

@[simp] theorem sendFrames_now (c : Chan) (fs : List ForwardFrame) (s : State) : (sendFrames c fs s).now = s.now := rfl
@[simp] theorem sendFrames_links (c : Chan) (fs : List ForwardFrame) (s : State) : (sendFrames c fs s).links = s.links := rfl
@[simp] theorem sendFrames_book (c : Chan) (fs : List ForwardFrame) (s : State) : (sendFrames c fs s).book = s.book := rfl
@[simp] theorem sendFrames_filing (c : Chan) (fs : List ForwardFrame) (s : State) : (sendFrames c fs s).filing = s.filing := rfl
@[simp] theorem sendFrames_nextFiling (c : Chan) (fs : List ForwardFrame) (s : State) : (sendFrames c fs s).nextFiling = s.nextFiling := rfl
@[simp] theorem sendFrames_round (c : Chan) (fs : List ForwardFrame) (s : State) : (sendFrames c fs s).round = s.round := rfl
@[simp] theorem sendFrames_drum (c : Chan) (fs : List ForwardFrame) (s : State) : (sendFrames c fs s).drum = s.drum := rfl
@[simp] theorem sendFrames_head (c : Chan) (fs : List ForwardFrame) (s : State) : (sendFrames c fs s).head = s.head := rfl
@[simp] theorem sendFrames_mount (c : Chan) (fs : List ForwardFrame) (s : State) : (sendFrames c fs s).mount = s.mount := rfl
@[simp] theorem sendFrames_converter (c : Chan) (fs : List ForwardFrame) (s : State) : (sendFrames c fs s).converter = s.converter := rfl
@[simp] theorem sendFrames_lineStore (c : Chan) (fs : List ForwardFrame) (s : State) : (sendFrames c fs s).lineStore = s.lineStore := rfl
@[simp] theorem sendFrames_log (c : Chan) (fs : List ForwardFrame) (s : State) : (sendFrames c fs s).log = s.log := rfl
@[simp] theorem sendFrames_printer (c : Chan) (fs : List ForwardFrame) (s : State) : (sendFrames c fs s).printer = s.printer := rfl
@[simp] theorem sendFrames_store (c : Chan) (fs : List ForwardFrame) (s : State) : (sendFrames c fs s).store = s.store := rfl
@[simp] theorem sendFrames_clock (c : Chan) (fs : List ForwardFrame) (s : State) : (sendFrames c fs s).clock = s.clock := rfl
@[simp] theorem sendFrames_pins (c : Chan) (fs : List ForwardFrame) (s : State) : (sendFrames c fs s).pins = s.pins := rfl
@[simp] theorem sendFrames_selectDue (c : Chan) (fs : List ForwardFrame) (s : State) : (sendFrames c fs s).selectDue = s.selectDue := rfl
@[simp] theorem sendFrames_free (c : Chan) (fs : List ForwardFrame) (s : State) : (sendFrames c fs s).free = s.free := rfl
@[simp] theorem sendFrames_pending (c : Chan) (fs : List ForwardFrame) (s : State) : (sendFrames c fs s).pending = s.pending := rfl

@[simp] theorem closeCall_now (c : Chan) (e : CallEnding) (s : State) : (closeCall c e s).now = s.now := rfl
@[simp] theorem closeCall_links (c : Chan) (e : CallEnding) (s : State) : (closeCall c e s).links = s.links := rfl
@[simp] theorem closeCall_book (c : Chan) (e : CallEnding) (s : State) : (closeCall c e s).book = s.book := rfl
@[simp] theorem closeCall_filing (c : Chan) (e : CallEnding) (s : State) : (closeCall c e s).filing = s.filing := rfl
@[simp] theorem closeCall_nextFiling (c : Chan) (e : CallEnding) (s : State) : (closeCall c e s).nextFiling = s.nextFiling := rfl
@[simp] theorem closeCall_round (c : Chan) (e : CallEnding) (s : State) : (closeCall c e s).round = s.round := rfl
@[simp] theorem closeCall_drum (c : Chan) (e : CallEnding) (s : State) : (closeCall c e s).drum = s.drum := rfl
@[simp] theorem closeCall_head (c : Chan) (e : CallEnding) (s : State) : (closeCall c e s).head = s.head := rfl
@[simp] theorem closeCall_mount (c : Chan) (e : CallEnding) (s : State) : (closeCall c e s).mount = s.mount := rfl
@[simp] theorem closeCall_converter (c : Chan) (e : CallEnding) (s : State) : (closeCall c e s).converter = s.converter := rfl
@[simp] theorem closeCall_lineStore (c : Chan) (e : CallEnding) (s : State) : (closeCall c e s).lineStore = s.lineStore := rfl
@[simp] theorem closeCall_log (c : Chan) (e : CallEnding) (s : State) : (closeCall c e s).log = s.log := rfl
@[simp] theorem closeCall_printer (c : Chan) (e : CallEnding) (s : State) : (closeCall c e s).printer = s.printer := rfl
@[simp] theorem closeCall_store (c : Chan) (e : CallEnding) (s : State) : (closeCall c e s).store = s.store := rfl
@[simp] theorem closeCall_clock (c : Chan) (e : CallEnding) (s : State) : (closeCall c e s).clock = s.clock := rfl
@[simp] theorem closeCall_pins (c : Chan) (e : CallEnding) (s : State) : (closeCall c e s).pins = s.pins := rfl
@[simp] theorem closeCall_selectDue (c : Chan) (e : CallEnding) (s : State) : (closeCall c e s).selectDue = s.selectDue := rfl
@[simp] theorem closeCall_free (c : Chan) (e : CallEnding) (s : State) : (closeCall c e s).free = s.free := rfl
@[simp] theorem closeCall_pending (c : Chan) (e : CallEnding) (s : State) : (closeCall c e s).pending = s.pending := rfl

@[simp] theorem headHome_now (s : State) : (headHome s).now = s.now := rfl
@[simp] theorem headHome_links (s : State) : (headHome s).links = s.links := rfl
@[simp] theorem headHome_book (s : State) : (headHome s).book = s.book := rfl
@[simp] theorem headHome_filing (s : State) : (headHome s).filing = s.filing := rfl
@[simp] theorem headHome_nextFiling (s : State) : (headHome s).nextFiling = s.nextFiling := rfl
@[simp] theorem headHome_round (s : State) : (headHome s).round = s.round := rfl
@[simp] theorem headHome_drum (s : State) : (headHome s).drum = s.drum := rfl
@[simp] theorem headHome_mount (s : State) : (headHome s).mount = s.mount := rfl
@[simp] theorem headHome_converter (s : State) : (headHome s).converter = s.converter := rfl
@[simp] theorem headHome_lineStore (s : State) : (headHome s).lineStore = s.lineStore := rfl
@[simp] theorem headHome_channels (s : State) : (headHome s).channels = s.channels := rfl
@[simp] theorem headHome_log (s : State) : (headHome s).log = s.log := rfl
@[simp] theorem headHome_printer (s : State) : (headHome s).printer = s.printer := rfl
@[simp] theorem headHome_store (s : State) : (headHome s).store = s.store := rfl
@[simp] theorem headHome_clock (s : State) : (headHome s).clock = s.clock := rfl
@[simp] theorem headHome_pins (s : State) : (headHome s).pins = s.pins := rfl
@[simp] theorem headHome_free (s : State) : (headHome s).free = s.free := rfl
@[simp] theorem headHome_pending (s : State) : (headHome s).pending = s.pending := rfl

end Machine
end Sys2Proof
end

