-- ==== Sys2Proof/Laws/Frames.lean ====
section
/-! SUPPORT. What each shared operation can change, said once: `Moves ps s t` for the parts `ps` it may touch. A statement
about a composed operation follows from these by `Moves.trans` and `Moves.mono`. -/

namespace Sys2Proof.Machine

theorem Moves.refl (ps : List Part) (s : State) : Moves ps s s := by
  intro p _; cases p <;> rfl

theorem Moves.trans {ps : List Part} {s t u : State} (h : Moves ps s t) (k : Moves ps t u) : Moves ps s u := by
  intro p hp
  have a := h p hp
  have b := k p hp
  cases p <;> exact b.trans a

theorem Moves.mono {ps qs : List Part} {s t : State} (h : Moves ps s t) (hs : ps ⊆ qs) : Moves qs s t :=
  fun p hp => h p fun hm => hp (hs hm)

/-- A step after a start, both within the parts listed. -/
theorem Moves.andThen {ps qs rs : List Part} {s t u : State} (h : Moves ps s t) (k : Moves qs t u) (hp : ps ⊆ rs)
    (hq : qs ⊆ rs) : Moves rs s u := (h.mono hp).trans (k.mono hq)

/-! ### Updates of one part -/

theorem postResult_moves (l : Link) (b : Byte) (r : ResultCode) (v : Nat) (s : State) :
    Moves [.links] s (postResult l b r v s) := by
  intro p hp; cases p <;> first | rfl | exact absurd (by decide) hp

theorem setAssembly_moves (l : Link) (a : Assembly) (s : State) : Moves [.links] s (setAssembly l a s) := by
  intro p hp; cases p <;> first | rfl | exact absurd (by decide) hp

theorem takeAnswer_moves (l : Link) (b a : List Byte) (s : State) : Moves [.links] s (takeAnswer l b a s) := by
  intro p hp; cases p <;> first | rfl | exact absurd (by decide) hp

theorem noticeTo_moves (l : Link) (n : Notice) (s : State) : Moves [.links] s (noticeTo l n s) := by
  intro p hp; cases p <;> first | rfl | exact absurd (by decide) hp

theorem noticeBoth_moves (n : Notice) (s : State) : Moves [.links] s (noticeBoth n s) := by
  intro p hp; cases p <;> first | rfl | exact absurd (by decide) hp

theorem jumpTo_moves (t : Nat) (s : State) : Moves [.now] s (jumpTo t s) := by
  intro p hp; cases p <;> first | rfl | exact absurd (by decide) hp

theorem jumpPast_moves (t : Timer) (n : Nat) (s : State) : Moves [.now] s (jumpPast t n s) := by
  unfold jumpPast; split
  · exact Moves.refl _ _
  · exact jumpTo_moves _ _

theorem markSelection_moves (s : State) : Moves [.selectDue] s (markSelection s) := by
  intro p hp; cases p <;> first | rfl | exact absurd (by decide) hp

theorem modChan_moves (c : Chan) (f : Channel → Channel) (s : State) : Moves [.channels] s (modChan c f s) := by
  intro p hp; cases p <;> first | rfl | exact absurd (by decide) hp

theorem modOrder_moves (n : Nat) (f : Order → Order) (s : State) : Moves [.book] s (modOrder n f s) := by
  intro p hp; cases p <;> first | rfl | exact absurd (by decide) hp

theorem modDest_moves (n i : Nat) (f : Destination → Destination) (s : State) : Moves [.book] s (modDest n i f s) :=
  modOrder_moves _ _ _

theorem setOrderState_moves (n : Nat) (a : OrderState) (s : State) : Moves [.book] s (setOrderState n a s) :=
  modOrder_moves _ _ _

theorem moveOrders_moves (a b : OrderState) (s : State) : Moves [.book] s (moveOrders a b s) := by
  intro p hp; cases p <;> first | rfl | exact absurd (by decide) hp

theorem appendRef_moves (r : FilingRef) (s : State) : Moves [.filing] s (appendRef r s) := by
  intro p hp; cases p <;> first | rfl | exact absurd (by decide) hp

theorem modRecord_moves (f : Nat) (g : Receipt → Receipt) (s : State) : Moves [.log] s (modRecord f g s) := by
  intro p hp; cases p <;> first | rfl | exact absurd (by decide) hp

theorem testRemoval_moves (q : Receipt → Bool) (s : State) : Moves [.log] s (testRemoval q s) := by
  intro p hp; cases p <;> first | rfl | exact absurd (by decide) hp

theorem dropPending_moves (s : State) : Moves [.log] s (dropPending s) := by
  intro p hp; cases p <;> first | rfl | exact absurd (by decide) hp

theorem modPrinter_moves (f : Printer → Printer) (s : State) : Moves [.printer] s (modPrinter f s) := by
  intro p hp; cases p <;> first | rfl | exact absurd (by decide) hp

theorem startCycle_moves (l : Link) (w : StoreWrite) (s : State) : Moves [.store] s (startCycle l w s) := by
  intro p hp; cases p <;> first | rfl | exact absurd (by decide) hp

theorem sendFrames_moves (c : Chan) (fs : List ForwardFrame) (s : State) : Moves [.channels] s (sendFrames c fs s) :=
  modChan_moves _ _ _

theorem closeCall_moves (c : Chan) (e : CallEnding) (s : State) : Moves [.channels] s (closeCall c e s) := by
  intro p hp; cases p <;> first | rfl | exact absurd (by decide) hp

theorem enterAnnounce_moves (c : Chan) (s : State) : Moves [.channels] s (enterAnnounce c s) := modChan_moves _ _ _

/-! ### The drum, the head and the mount -/

theorem cutDrive_moves (s : State) : Moves [.drum] s (cutDrive s) := by
  unfold cutDrive; split
  · intro p hp; cases p <;> first | rfl | exact absurd (by decide) hp
  · exact Moves.refl _ _

theorem spinCommand_moves (k : LpmClass) (s : State) : Moves [.drum] s (spinCommand k s) := by
  intro p hp; cases p <;> first | rfl | exact absurd (by decide) hp

theorem startIdle_moves (s : State) : Moves [.drum] s (startIdle s) := by
  unfold startIdle; split
  · intro p hp; cases p <;> first | rfl | exact absurd (by decide) hp
  · exact Moves.refl _ _

theorem headHome_moves (s : State) : Moves [.head, .selectDue] s (headHome s) := by
  intro p hp; cases p <;> first | rfl | exact absurd (by decide) hp

theorem startReturn_moves (s : State) : Moves [.head, .selectDue] s (startReturn s) := by
  unfold startReturn; split
  · exact headHome_moves _
  · intro p hp; cases p <;> first | rfl | exact absurd (by decide) hp

theorem commandReturn_moves (s : State) : Moves [.head, .selectDue] s (commandReturn s) := by
  unfold commandReturn; split
  · exact startReturn_moves _
  · exact startReturn_moves _
  · exact Moves.refl _ _
  · exact Moves.refl _ _

theorem requestMount_moves (tag n : Nat) (s : State) : Moves [.links, .drum, .mount] s (requestMount tag n s) := by
  refine (cutDrive_moves s).andThen (qs := [.links, .mount]) ?_ (by decide) (by decide)
  intro p hp; cases p <;> first | rfl | exact absurd (by decide) hp

theorem withdrawMountRequest_moves (s : State) : Moves [.links, .mount, .selectDue] s (withdrawMountRequest s) := by
  unfold withdrawMountRequest; split
  · intro p hp; cases p <;> first | rfl | exact absurd (by decide) hp
  · exact Moves.refl _ _

theorem requestUnmount_moves (s : State) : Moves [.links, .drum, .mount] s (requestUnmount s) := by
  unfold requestUnmount; split
  · refine (cutDrive_moves s).andThen (qs := [.links, .mount]) ?_ (by decide) (by decide)
    intro p hp; cases p <;> first | rfl | exact absurd (by decide) hp
  · exact Moves.refl _ _

/-! ### Orders -/

theorem leaveBook_moves (n : Nat) (s : State) : Moves [.links, .book, .selectDue] s (leaveBook n s) := by
  intro p hp; cases p <;> first | rfl | exact absurd (by decide) hp

theorem finishOrder_moves (n : Nat) (s : State) : Moves [.links, .book, .selectDue] s (finishOrder n s) := by
  unfold finishOrder; split
  · exact (setOrderState_moves _ _ _).mono (by decide)
  · exact leaveBook_moves _ _

theorem settleOrder_moves (n : Nat) (s : State) : Moves [.links, .book, .selectDue] s (settleOrder n s) := by
  unfold settleOrder; split
  · exact Moves.refl _ _
  · split
    · exact finishOrder_moves _ _
    · exact Moves.refl _ _

/-! ### Rounds -/

/-- The parts that closing a round may change. -/
abbrev closeParts : List Part := [.links, .book, .round, .drum, .mount, .selectDue]

theorem closeRound_moves (s : State) : Moves closeParts s (closeRound s) := by
  have h1 : Moves closeParts s (markSelection (startIdle { s with round := Round.none })) := by
    have h0 : Moves [.round] s { s with round := Round.none } := by
      intro p hp; cases p <;> first | rfl | exact absurd (by decide) hp
    exact (h0.andThen (startIdle_moves _) (rs := closeParts) (by decide) (by decide)).trans
      ((markSelection_moves _).mono (by decide))
  unfold closeRound
  dsimp only
  split
  · exact h1
  · split
    · exact h1
    · split
      · exact h1.trans (((requestUnmount_moves _).mono (by decide)).trans ((finishOrder_moves _ _).mono (by decide)))
      · exact h1

theorem closeIfDone_moves (s : State) : Moves closeParts s (closeIfDone s) := by
  unfold closeIfDone; split
  · exact closeRound_moves _
  · exact Moves.refl _ _

theorem startScanning_moves (s : State) : Moves [.round, .head, .converter, .lineStore] s (startScanning s) := by
  intro p hp; cases p <;> first | rfl | exact absurd (by decide) hp

theorem testStart_moves (s : State) : Moves [.round, .head, .converter, .lineStore] s (testStart s) := by
  unfold testStart; split
  · exact startScanning_moves _
  · exact Moves.refl _ _

theorem cutScanShort_moves (s : State) : Moves [.round, .lineStore, .head, .selectDue] s (cutScanShort s) := by
  have h0 : Moves [.round, .lineStore] s
      { s with round := { s.round with state := .draining }, lineStore := flushLines s.lineStore } := by
    intro p hp; cases p <;> first | rfl | exact absurd (by decide) hp
  exact h0.andThen (commandReturn_moves _) (by decide) (by decide)

theorem drainOut_moves (s : State) : Moves [.lineStore, .head, .selectDue] s (drainOut s) := by
  have h0 : Moves [.lineStore] s { s with lineStore := flushLines s.lineStore } := by
    intro p hp; cases p <;> first | rfl | exact absurd (by decide) hp
  unfold drainOut
  dsimp only
  split
  · exact h0.andThen (commandReturn_moves _) (by decide) (by decide)
  · exact h0.mono (by decide)

/-- The parts that a member's leaving may change. -/
abbrev leaveParts : List Part :=
  [.links, .book, .round, .drum, .head, .mount, .converter, .lineStore, .selectDue]

theorem afterLeaving_moves (s : State) : Moves leaveParts s (afterLeaving s) := by
  unfold afterLeaving
  split
  · exact Moves.refl _ _
  · split
    · exact (closeRound_moves _).mono (by decide)
    · exact (testStart_moves _).mono (by decide)
  · split
    · exact (cutScanShort_moves _).andThen (closeIfDone_moves _) (by decide) (by decide)
    · exact Moves.refl _ _
  · split
    · exact (drainOut_moves _).andThen (closeIfDone_moves _) (by decide) (by decide)
    · exact Moves.refl _ _

theorem leaveRound_moves (c : Chan) (s : State) : Moves leaveParts s (leaveRound c s) := by
  unfold leaveRound; split
  · refine Moves.andThen (ps := [.round, .lineStore]) ?_ (afterLeaving_moves _) (by decide) (by decide)
    intro p hp; cases p <;> first | rfl | exact absurd (by decide) hp
  · exact Moves.refl _ _

theorem reportOutcome_moves (c : Chan) (o : CallOutcome) (r : Option Report) (s : State) :
    Moves [.links, .book, .filing, .selectDue] s (reportOutcome c o r s) := by
  unfold reportOutcome
  dsimp only
  split
  · exact Moves.refl _ _
  · split
    · exact Moves.refl _ _
    · split
      · split
        · exact (modDest_moves _ _ _ _).mono (by decide)
        · exact (((modDest_moves _ _ _ _).andThen (appendRef_moves _ _) (rs := [.book, .filing]) (by decide)
            (by decide)).mono (by decide)).trans ((settleOrder_moves _ _).mono (by decide))
      · exact Moves.refl _ _

/-- The parts that the end of a call may change. -/
abbrev endCallParts : List Part :=
  [.links, .book, .filing, .round, .drum, .head, .mount, .converter, .lineStore, .channels, .selectDue]

theorem endWithOutcome_moves (c : Chan) (o : CallOutcome) (r : Option Report) (s : State) :
    Moves endCallParts s (endWithOutcome c o r s) :=
  (((reportOutcome_moves c o r s).andThen (closeCall_moves c (.outcome o) _) (rs := endCallParts) (by decide)
    (by decide))).trans ((leaveRound_moves _ _).mono (by decide))

theorem returnDest_moves (n i : Nat) (s : State) : Moves [.book, .selectDue] s (returnDest n i s) := by
  unfold returnDest; split
  · exact Moves.refl _ _
  · split
    · exact (modDest_moves _ _ _ _).andThen (markSelection_moves _) (by decide) (by decide)
    · exact Moves.refl _ _

theorem returnMember_moves (c : Chan) (s : State) : Moves [.book, .selectDue] s (returnMember c s) := by
  unfold returnMember; split
  · exact returnDest_moves _ _ _
  · exact Moves.refl _ _

theorem returnMembers_moves (s : State) : Moves [.book, .selectDue] s (returnMembers s) :=
  (((returnMember_moves _ _).trans (returnMember_moves _ _)).trans (returnMember_moves _ _)).trans
    (returnMember_moves _ _)

theorem releaseMember_moves (c : Chan) (s : State) : Moves [.round, .lineStore, .channels] s (releaseMember c s) := by
  unfold releaseMember; split
  · refine Moves.andThen (ps := [.round, .lineStore]) ?_ (closeCall_moves _ _ _) (by decide) (by decide)
    intro p hp; cases p <;> first | rfl | exact absurd (by decide) hp
  · exact Moves.refl _ _

theorem releaseMembers_moves (s : State) : Moves [.round, .lineStore, .channels] s (releaseMembers s) :=
  (((releaseMember_moves _ _).trans (releaseMember_moves _ _)).trans (releaseMember_moves _ _)).trans
    (releaseMember_moves _ _)

/-- The parts that the abort procedure may change. -/
abbrev abortParts : List Part :=
  [.links, .book, .round, .drum, .head, .mount, .lineStore, .channels, .selectDue]

theorem abortRound_moves (s : State) : Moves abortParts s (abortRound s) := by
  unfold abortRound; split
  · exact Moves.refl _ _
  · exact (releaseMembers_moves _).andThen (closeRound_moves _) (by decide) (by decide)
  · exact ((releaseMembers_moves _).andThen (cutScanShort_moves _) (rs := abortParts) (by decide) (by decide)).trans
      ((closeIfDone_moves _).mono (by decide))
  · exact ((releaseMembers_moves _).andThen (drainOut_moves _) (rs := abortParts) (by decide) (by decide)).trans
      ((closeIfDone_moves _).mono (by decide))

theorem abortForFault_moves (k : DrumCause) (s : State) : Moves abortParts s (abortForFault k s) :=
  ((returnMembers_moves s).andThen (abortRound_moves _) (rs := abortParts) (by decide) (by decide)).trans
    ((noticeBoth_moves _ _).mono (by decide))

theorem raiseTrouble_moves (c : Chan) (n : Nat) (s : State) : Moves endCallParts s (raiseTrouble c n s) := by
  unfold raiseTrouble
  dsimp only
  have h2 : Moves [.links, .channels] s
      (if (s.channels.get c).trouble < 48 ∧ 48 ≤ (s.channels.get c).trouble + n ∧
          (s.channels.get c).caution = .armed then
        match (s.channels.get c).call with
        | none => modChan c (fun ch => { ch with trouble := (s.channels.get c).trouble + n }) s
        | some k =>
          noticeBoth (.lineTrouble c ((s.channels.get c).trouble + n) k.order k.dest)
            (modChan c (fun ch => { ch with caution := .disarmed })
              (modChan c (fun ch => { ch with trouble := (s.channels.get c).trouble + n }) s))
      else modChan c (fun ch => { ch with trouble := (s.channels.get c).trouble + n }) s) := by
    split
    · split
      · exact (modChan_moves _ _ _).mono (by decide)
      · exact ((modChan_moves _ _ _).trans (modChan_moves _ _ _)).andThen (noticeBoth_moves _ _) (by decide) (by decide)
    · exact (modChan_moves _ _ _).mono (by decide)
  split
  · exact (h2.mono (by decide)).trans (endWithOutcome_moves _ _ _ _)
  · exact h2.mono (by decide)

/-! ### Selection -/

theorem beginCall_moves (c : Chan) (n i : Nat) (s : State) : Moves [.book, .channels] s (beginCall c n i s) := by
  unfold beginCall; split
  · exact Moves.refl _ _
  · split
    · exact Moves.refl _ _
    · dsimp only
      split
      · intro p hp; cases p <;> first | rfl | exact absurd (by decide) hp
      · intro p hp; cases p <;> first | rfl | exact absurd (by decide) hp

theorem failDest_moves (n : Nat) (s : State) (i : Nat) : Moves [.book, .filing] s (failDest n s i) :=
  (modDest_moves _ _ _ _).andThen (appendRef_moves _ _) (by decide) (by decide)

theorem foldl_failDest_moves (n : Nat) (is : List Nat) (s : State) : Moves [.book, .filing] s (is.foldl (failDest n) s) := by
  induction is generalizing s with
  | nil => exact Moves.refl _ _
  | cons i rest ih => exact (failDest_moves n s i).trans (ih _)

theorem assignMember_moves (n : Nat) (c : Chan) (m : Option Nat) (s : State) : Moves [.book] s (assignMember n c m s) := by
  unfold assignMember; split
  · exact Moves.refl _ _
  · exact modDest_moves _ _ _ _

theorem beginMember_moves (n : Nat) (c : Chan) (m : Option Nat) (s : State) :
    Moves [.book, .channels] s (beginMember n c m s) := by
  unfold beginMember; split
  · exact Moves.refl _ _
  · exact beginCall_moves _ _ _ _

theorem forMembers_moves {ps : List Part} {f : Chan → Option Nat → State → State}
    (h : ∀ c m s, Moves ps s (f c m s)) (m : PerChan (Option Nat)) (s : State) : Moves ps s (forMembers f m s) :=
  (((h _ _ _).trans (h _ _ _)).trans (h _ _ _)).trans (h _ _ _)

/-- The parts that the forming of a round may change. -/
abbrev formParts : List Part := [.book, .round, .head, .drum, .channels]

theorem formRound_moves (n samples : Nat) (w : Walk) (s : State) : Moves formParts s (formRound n samples w s) := by
  have h1 : Moves formParts s (forMembers (assignMember n) w.members s) :=
    (forMembers_moves (assignMember_moves n) _ _).mono (by decide)
  unfold formRound
  dsimp only
  refine (h1.trans ?_).trans ((forMembers_moves (beginMember_moves n) _ _).mono (by decide))
  intro p hp; cases p <;> first | rfl | exact absurd (by decide) hp

/-- The parts that a selection may change. -/
abbrev selectParts : List Part :=
  [.links, .book, .filing, .round, .drum, .head, .mount, .channels, .selectDue]

theorem assemble_moves (n : Nat) (s : State) : Moves selectParts s (assemble n s).1 := by
  unfold assemble; split
  · split
    · exact Moves.refl _ _
    · rename_i o _
      have hw : Moves selectParts s ((walkOrder s o).failed.foldl (failDest n) s) :=
        (foldl_failDest_moves n _ s).mono (by decide)
      dsimp only
      split
      · split
        · exact hw
        · exact hw.trans ((settleOrder_moves _ _).mono (by decide))
      · exact (hw.trans ((formRound_moves _ _ _ _).mono (by decide))).trans ((settleOrder_moves _ _).mono (by decide))
  · exact Moves.refl _ _

theorem actOnChoice_moves (o : Order) (s : State) : Moves selectParts s (actOnChoice o s).1 := by
  unfold actOnChoice; split
  · exact Moves.refl _ _
  · split
    · exact ((moveOrders_moves _ _ _).trans (setOrderState_moves _ _ _)).mono (by decide)
    · split
      · exact Moves.refl _ _
      · exact ((((moveOrders_moves _ _ _).trans (moveOrders_moves _ _ _)).trans (setOrderState_moves _ _ _)).mono
          (by decide)).trans ((requestMount_moves _ _ _).mono (by decide))

theorem selectOrder_moves (fuel : Nat) (s : State) : Moves selectParts s (selectOrder fuel s) := by
  induction fuel generalizing s with
  | zero => exact Moves.refl _ _
  | succ n ih =>
    unfold selectOrder
    split
    · exact Moves.refl _ _
    · dsimp only
      split
      · split
        · exact ((actOnChoice_moves _ _).trans (assemble_moves _ _)).trans (ih _)
        · exact (actOnChoice_moves _ _).trans (assemble_moves _ _)
      · exact actOnChoice_moves _ _

theorem finishStep_moves (s : State) : Moves selectParts s (finishStep s) := by
  unfold finishStep
  dsimp only
  have h0 : ∀ t : State, Moves [.selectDue] t { t with selectDue := false } := by
    intro t p hp; cases p <;> first | rfl | exact absurd (by decide) hp
  split
  · exact (selectOrder_moves _ _).trans ((h0 _).mono (by decide))
  · exact (h0 _).mono (by decide)

/-- With the drum not free the end of a step makes no selection (R15). -/
theorem finishStep_busy (s : State) (h : drumFree s = false) : finishStep s = { s with selectDue := false } := by
  simp [finishStep, h]

/-- A step in which no event of R15 or R27 was met ends as it is. -/
theorem finishStep_idle (s : State) (h : s.selectDue = false) : finishStep s = s := by
  cases s; simp_all [finishStep]

theorem finishStep_selectDue (s : State) : (finishStep s).selectDue = false := rfl

end Sys2Proof.Machine
end

