-- ==== Sys2Proof/Laws/LinkLines.lean ====
section
/-! SUPPORT. What the events on the lines of a link do to its assembly, said once for a run of bits and for a byte (R175, R176). -/

namespace Sys2Proof.Machine

@[simp] theorem execRow_none (s : State) : execRow none s = .next s := rfl

@[simp] theorem execRow_some (i : Instr) (s : State) : execRow (some i) s = exec i s := rfl

@[simp] theorem linkEvents_nil (l : Link) (s : State) : linkEvents l [] s = .next s := rfl

/-- One event, then the rest. -/
theorem linkEvents_cons {l : Link} {e : LinkEvent} {s t : State} (rest : List LinkEvent) (h : linkEvent l e s = .next t) :
    linkEvents l (e :: rest) s = linkEvents l rest t := by simp only [linkEvents, h]

/-- Events that reach a state, then the rest. -/
theorem linkEvents_append {l : Link} : ∀ {before : List LinkEvent} {s t : State} (rest : List LinkEvent),
    linkEvents l before s = .next t → linkEvents l (before ++ rest) s = linkEvents l rest t
  | [], s, t, rest, h => by cases h; rfl
  | e :: before, s, t, rest, h => by
    cases he : linkEvent l e s with
    | next u =>
      rw [linkEvents_cons before he] at h
      rw [List.cons_append, linkEvents_cons _ he]
      exact linkEvents_append rest h
    | fault r => simp [linkEvents, he] at h
    | refused r => simp [linkEvents, he] at h

/-- No copy is due inside a byte (R176). -/
@[simp] theorem copyDue_bits (l : Link) (bytes : List Byte) (b : Bool) (bits : List Bool) (a : Option (List Byte)) (p : Nat) :
    copyDue l (.receiving bytes (b :: bits) a p) = none := by
  cases bytes <;> rfl

/-- No copy is due while one is being shifted out (R176). -/
@[simp] theorem copyDue_taken (l : Link) (bytes : List Byte) (bits : List Bool) (a : List Byte) (p : Nat) :
    copyDue l (.receiving bytes bits (some a) p) = none := by
  cases bytes <;> cases bits <;> rfl

/-- The bits of a partial byte are taken one after the other (R175). -/
theorem linkEvents_partial (l : Link) (bytes : List Byte) (more : List Bool) : ∀ (bits : List Bool) (s : State),
    (s.links.get l).assembly = .receiving bytes bits none 0 → bits.length + more.length < 8 →
    linkEvents l (more.map .clock) s = .next (setAssembly l (.receiving bytes (bits ++ more) none 0) s) := by
  induction more with
  | nil => intro bits s ha _; simpa [← ha] using (setAssembly_self l s).symm
  | cons b more ih =>
    intro bits s ha hl
    have hl' : bits.length + 1 + more.length < 8 := by simp at hl; omega
    have hs : sampleBit b (s.links.get l).assembly = .receiving bytes (bits ++ [b]) none 0 := by
      rw [ha]; simp [sampleBit, show bits.length < 7 by omega]
    have hc : copyDue l (.receiving bytes (bits ++ [b]) none 0) = none := by cases bits <;> simp
    have he : linkEvent l (.clock b) s = .next (setAssembly l (.receiving bytes (bits ++ [b]) none 0) s) := by
      simp only [linkEvent, hs, hc, execRow_none]
    rw [List.map_cons, linkEvents_cons _ he, ih (bits ++ [b]) _ (by simp) (by simpa using hl')]
    simp

theorem ofMsbFirst_msbFirst (b : Byte) : ofMsbFirst 8 (msbFirst b) = b := by
  revert b; decide

/-- The eight bits of a byte, most significant first, are that byte; with it a copy may be due (R175, R176). -/
theorem linkEvents_byte (l : Link) (bytes : List Byte) (b : Byte) (s : State)
    (ha : (s.links.get l).assembly = .receiving bytes [] none 0) :
    linkEvents l ((msbFirst b).map .clock) s =
      execRow (copyDue l (.receiving (bytes ++ [b]) [] none 0)) (setAssembly l (.receiving (bytes ++ [b]) [] none 0) s) := by
  obtain ⟨first, last, hm, hf⟩ : ∃ first last, msbFirst b = first ++ [last] ∧ first.length = 7 :=
    ⟨[b.getLsbD 7, b.getLsbD 6, b.getLsbD 5, b.getLsbD 4, b.getLsbD 3, b.getLsbD 2, b.getLsbD 1], b.getLsbD 0, rfl, rfl⟩
  have h1 := linkEvents_partial l bytes first [] s ha (by simp [hf])
  have hb : ofMsbFirst 8 (first ++ [last]) = b := by rw [← hm]; exact ofMsbFirst_msbFirst b
  rw [hm, List.map_append, linkEvents_append _ h1]
  have hs : sampleBit last (.receiving bytes ([] ++ first) none 0) = .receiving (bytes ++ [b]) [] none 0 := by
    simp [sampleBit, hf, hb]
  simp only [List.map_cons, List.map_nil, linkEvents, linkEvent, setAssembly_get, hs, setAssembly_setAssembly]
  split <;> simp_all

end Sys2Proof.Machine
end

