-- ==== Sys2Proof/Laws/BackLine.lean ====
section
/-! SUPPORT. What bit times on a back channel do to its reception and which rows they complete, said once for a byte, for a rest
between bytes and for an idle (R112, R185). -/

namespace Sys2Proof.Machine

/-! ### Receptions -/

theorem receiveRows_append (c : Chan) (more : List Bool) : ∀ (levels : List Bool) (r : Reception),
    receiveRows c (levels ++ more) r = receiveRows c levels r ++ receiveRows c more (receiveLevels levels r)
  | [], _ => rfl
  | h :: levels, r => by
    simp only [List.cons_append, receiveRows, receiveRows_append c more levels, List.append_assoc]; rfl

theorem receiveLevels_append (levels more : List Bool) (r : Reception) :
    receiveLevels (levels ++ more) r = receiveLevels more (receiveLevels levels r) := List.foldl_append ..

/-- The rows that one more byte of a run completes (R185). -/
def byteRows (c : Chan) (b : Byte) : Option (List Byte) → List Instr
  | none => []
  | some run => (openRunRows c (run ++ [b])).drop (openRunRows c run).length

/-- The ten levels of a byte are that byte, and its rows come with the stop bit (R185). -/
theorem receive_byte (c : Chan) (b : Byte) (idle : Nat) (run : Option (List Byte)) :
    receiveLevels (backByteLevels b) { idle := idle, byte := none, run := run } =
        { idle := 0, byte := none, run := run.map (· ++ [b]) } ∧
      receiveRows c (backByteLevels b) { idle := idle, byte := none, run := run } = byteRows c b run := by
  obtain ⟨b7, b6, b5, b4, b3, b2, b1, b0, hm⟩ : ∃ b7 b6 b5 b4 b3 b2 b1 b0, msbFirst b = [b7, b6, b5, b4, b3, b2, b1, b0] :=
    ⟨_, _, _, _, _, _, _, _, rfl⟩
  have hb : ofMsbFirst 8 [b7, b6, b5, b4, b3, b2, b1, b0] = b := hm ▸ ofMsbFirst_msbFirst b
  unfold backByteLevels
  rw [hm]
  constructor
  · simp [receiveLevels, receiveLevel, hb]
  · cases run <;> simp [receiveRows, receiveLevel, levelRows, byteRows, hb]

/-- A rest of less than ten bit times completes nothing (R185). -/
theorem receive_rest (c : Chan) (run : Option (List Byte)) : ∀ (n idle : Nat), idle + n < 10 →
    receiveLevels (List.replicate n true) { idle := idle, byte := none, run := run } = { idle := idle + n, byte := none, run := run } ∧
      receiveRows c (List.replicate n true) { idle := idle, byte := none, run := run } = []
  | 0, _, _ => ⟨rfl, rfl⟩
  | n + 1, idle, h => by
    have hl : receiveLevel true { idle := idle, byte := none, run := run } = { idle := idle + 1, byte := none, run := run } := by
      simp [receiveLevel, idleBits, show ¬ 10 ≤ idle + 1 by omega, show min 10 (idle + 1) = idle + 1 by omega]
    have hr : levelRows c true { idle := idle, byte := none, run := run } = [] := by
      cases run <;> simp [levelRows, idleBits, show ¬ 10 ≤ idle + 1 by omega]
    obtain ⟨a, b⟩ := receive_rest c run n (idle + 1) (by omega)
    constructor
    · rw [List.replicate_succ, receiveLevels, List.foldl_cons, hl, ← receiveLevels, a]; congr 1; omega
    · rw [List.replicate_succ, receiveRows, hl, hr, b]; rfl

/-- An idle line stays ready (R185). -/
theorem receive_ready (c : Chan) : ∀ n : Nat,
    receiveLevels (List.replicate n true) Reception.ready = Reception.ready ∧ receiveRows c (List.replicate n true) Reception.ready = []
  | 0 => ⟨rfl, rfl⟩
  | n + 1 => by
    obtain ⟨a, b⟩ := receive_ready c n
    have hr : levelRows c true Reception.ready = [] := rfl
    exact ⟨by rw [List.replicate_succ, receiveLevels, List.foldl_cons]; exact a,
      by rw [List.replicate_succ, receiveRows, hr]; exact b⟩

/-- The rows that the end of a run completes: a short frame (R185). -/
def idleRows (c : Chan) : Option (List Byte) → List Instr
  | none => []
  | some run => (backChannelRows c run).drop (openRunRows c run).length

/-- The tenth bit time of idle ends the run of bytes and leaves the line ready (R185). -/
theorem receive_idle (c : Chan) (run : Option (List Byte)) : ∀ (n idle : Nat), idle < 10 → 10 ≤ idle + n →
    receiveLevels (List.replicate n true) { idle := idle, byte := none, run := run } = Reception.ready ∧
      receiveRows c (List.replicate n true) { idle := idle, byte := none, run := run } = idleRows c run
  | 0, _, h, k => by omega
  | n + 1, idle, h, k => by
    rw [List.replicate_succ, receiveLevels, List.foldl_cons, ← receiveLevels, receiveRows]
    by_cases hi : idle = 9
    · subst hi
      have hl : receiveLevel true { idle := 9, byte := none, run := run } = Reception.ready := rfl
      have hr : levelRows c true { idle := 9, byte := none, run := run } = idleRows c run := by
        cases run <;> simp [levelRows, idleRows, idleBits]
      obtain ⟨a, b⟩ := receive_ready c n
      exact ⟨by rw [hl, a], by rw [hl, hr, b, List.append_nil]⟩
    · obtain ⟨a, b⟩ := receive_rest c run 1 idle (by omega)
      obtain ⟨d, e⟩ := receive_idle c run n (idle + 1) (by omega) (by omega)
      have hl : receiveLevel true { idle := idle, byte := none, run := run } = { idle := idle + 1, byte := none, run := run } := a
      have hr : levelRows c true { idle := idle, byte := none, run := run } = [] := by simpa [receiveRows] using b
      exact ⟨by rw [hl, d], by rw [hl, hr, e, List.nil_append]⟩

/-- A run of bytes never loses a row as it grows (R185). -/
theorem openRunRows_grow (c : Chan) (run : List Byte) (b : Byte) :
    openRunRows c run ++ byteRows c b (some run) = openRunRows c (run ++ [b]) := by
  suffices h : ∃ rest, openRunRows c (run ++ [b]) = openRunRows c run ++ rest by
    obtain ⟨rest, h⟩ := h
    simp [byteRows, h]
  cases run with
  | nil => exact ⟨_, rfl⟩
  | cons k run =>
    simp only [List.cons_append, openRunRows]
    cases hk : backKindOfByte k with
    | none => exact ⟨[], by simp [backChannelRows, hk]⟩
    | some kind =>
      simp only [List.length_cons, List.length_append, List.length_nil]
      by_cases h2 : run.length + 1 < backFrameSize kind
      · rw [if_pos h2]; exact ⟨_, rfl⟩
      · by_cases h1 : run.length + 1 + 1 < backFrameSize kind
        · omega
        · rw [if_neg h1, if_neg h2]
          have ht : (k :: (run ++ [b])).take (backFrameSize kind) = (k :: run).take (backFrameSize kind) := by
            rw [← List.cons_append]; exact List.take_append_of_le_length (by simpa using h2)
          simp only [backChannelRows, hk, List.length_cons, List.length_append, List.length_nil, if_neg h1, if_neg h2, ht]
          by_cases he : run.length + 1 = backFrameSize kind
          · exact ⟨[.framingFailure c], by rw [if_neg (by omega), if_pos he]; simp⟩
          · exact ⟨[], by rw [if_neg (by omega), if_neg he]; simp⟩

/-- A run that an idle has ended is the rows of R185 whatever it has been while it was open. -/
theorem openRunRows_close (c : Chan) (run : List Byte) : openRunRows c run ++ idleRows c (some run) = backChannelRows c run := by
  unfold idleRows openRunRows
  cases run with
  | nil => rfl
  | cons k run =>
    simp only
    cases hk : backKindOfByte k with
    | none => simp
    | some kind => simp only; split <;> simp

/-- Bytes with rests of less than ten bit times between them are one run (R185). -/
theorem receive_bytes (c : Chan) : ∀ (bytes : List (Byte × Nat)) (run : List Byte) (idle : Nat), (∀ x ∈ bytes, x.2 < 10) →
    ∃ i, i < 10 ∧
      receiveLevels (bytes.flatMap fun x => backByteLevels x.1 ++ List.replicate x.2 true) { idle := idle, byte := none, run := some run } =
        { idle := if bytes = [] then idle else i, byte := none, run := some (run ++ bytes.map Prod.fst) } ∧
      openRunRows c run ++
          receiveRows c (bytes.flatMap fun x => backByteLevels x.1 ++ List.replicate x.2 true) { idle := idle, byte := none, run := some run } =
        openRunRows c (run ++ bytes.map Prod.fst)
  | [], run, idle, _ => ⟨0, by omega, by simp [receiveLevels], by simp [receiveRows]⟩
  | x :: bytes, run, idle, h => by
    obtain ⟨a, b⟩ := receive_byte c x.1 idle (some run)
    obtain ⟨d, e⟩ := receive_rest c (some (run ++ [x.1])) x.2 0 (by have := h x (by simp); omega)
    obtain ⟨i, hi, f, g⟩ := receive_bytes c bytes (run ++ [x.1]) (0 + x.2) (fun y hy => h y (by simp [hy]))
    refine ⟨if bytes = [] then x.2 else i, ?_, ?_, ?_⟩
    · have := h x (by simp); split <;> omega
    · rw [List.flatMap_cons, receiveLevels_append, receiveLevels_append, a]
      simp only [Option.map_some]
      rw [d, f]; simp
    · rw [List.flatMap_cons, receiveRows_append, receiveRows_append, receiveLevels_append, a, b]
      simp only [Option.map_some]
      rw [d, e, List.append_nil, ← List.append_assoc, openRunRows_grow, g]; simp

/-- A discarded frame is still discarded while less than ten bit times of idle fall (R112, R185). -/
theorem receive_discarded (c : Chan) : ∀ (bytes : List (Byte × Nat)) (idle : Nat), (∀ x ∈ bytes, x.2 < 10) →
    (∃ i, receiveLevels (bytes.flatMap fun x => backByteLevels x.1 ++ List.replicate x.2 true) { idle := idle, byte := none, run := none } =
        { idle := i, byte := none, run := none }) ∧
      receiveRows c (bytes.flatMap fun x => backByteLevels x.1 ++ List.replicate x.2 true) { idle := idle, byte := none, run := none } = []
  | [], idle, _ => ⟨⟨idle, rfl⟩, rfl⟩
  | x :: bytes, idle, h => by
    obtain ⟨a, b⟩ := receive_byte c x.1 idle none
    obtain ⟨d, e⟩ := receive_rest c none x.2 0 (by have := h x (by simp); omega)
    obtain ⟨f, g⟩ := receive_discarded c bytes (0 + x.2) (fun y hy => h y (by simp [hy]))
    rw [List.flatMap_cons, receiveLevels_append, receiveRows_append, receiveLevels_append, receiveRows_append, a, b]
    simp only [Option.map_none]
    rw [d, e]
    exact ⟨f, by rw [g]; rfl⟩

/-! ### The data input of a channel -/

theorem setReception_moves (c : Chan) (r : Reception) (s : State) : Moves [.channels] s (setReception c r s) := modChan_moves _ _ _

@[simp] theorem setReception_get (c : Chan) (r : Reception) (s : State) :
    (setReception c r s).channels.get c = { s.channels.get c with reception := r } := by
  simp [setReception, modChan]

@[simp] theorem setReception_setReception (c : Chan) (r q : Reception) (s : State) :
    setReception c r (setReception c q s) = setReception c r s := by
  cases c <;> rfl

theorem setReception_self (c : Chan) (s : State) : setReception c (s.channels.get c).reception s = s := by
  cases c <;> rfl

@[simp] theorem execRows_nil (s : State) : execRows [] s = .next s := rfl

/-- Bit times that complete no row change the reception alone, in a state that reads the back channel (R112). -/
theorem backLevels_quiet (c : Chan) : ∀ (levels : List Bool) (s : State), readsBack (s.channels.get c).state = true →
    receiveRows c levels (s.channels.get c).reception = [] →
    backLevels c levels s = .next (setReception c (receiveLevels levels (s.channels.get c).reception) s)
  | [], s, _, _ => by simp [backLevels, receiveLevels, setReception_self]
  | high :: levels, s, hr, h => by
    simp only [receiveRows, List.append_eq_nil_iff] at h
    have := backLevels_quiet c levels (setReception c (receiveLevel high (s.channels.get c).reception) s) (by simpa using hr)
      (by simpa using h.2)
    simp only [backLevels, backLevel, hr, if_pos, h.1, execRows_nil, this]
    simp [receiveLevels]

/-- Bit times that reach a state, then the rest. -/
theorem backLevels_append {c : Chan} : ∀ {before : List Bool} {s t : State} (rest : List Bool),
    backLevels c before s = .next t → backLevels c (before ++ rest) s = backLevels c rest t
  | [], s, t, rest, h => by cases h; rfl
  | high :: before, s, t, rest, h => by
    cases he : backLevel c high s with
    | next u =>
      simp only [backLevels, he] at h
      simp only [List.cons_append, backLevels, he]
      exact backLevels_append rest h
    | fault r => simp [backLevels, he] at h
    | refused r => simp [backLevels, he] at h

/-- In a state that does not read the back channel every frame is discarded without effect (R112). -/
theorem backLevels_unread (c : Chan) : ∀ (levels : List Bool) (s : State), readsBack (s.channels.get c).state = false →
    levels ≠ [] → ∃ r, backLevels c levels s = .next (setReception c (discardFrame r) s)
  | [], _, _, h => absurd rfl h
  | [high], s, hr, _ => ⟨_, by simp [backLevels, backLevel, hr]; rfl⟩
  | high :: next :: levels, s, hr, _ => by
    obtain ⟨r, h⟩ := backLevels_unread c (next :: levels)
      (setReception c (discardFrame (receiveLevel high (s.channels.get c).reception)) s) (by simpa using hr) (by simp)
    exact ⟨r, by rw [backLevels, backLevel, hr]; simpa using h⟩

/-- Bit times of which only the last completes rows execute those rows (R112). -/
theorem backLevels_last (c : Chan) (levels : List Bool) (high : Bool) (s : State) (hr : readsBack (s.channels.get c).state = true)
    (h : receiveRows c levels (s.channels.get c).reception = []) :
    backLevels c (levels ++ [high]) s =
      execRows (receiveRows c (levels ++ [high]) (s.channels.get c).reception)
        (setReception c (receiveLevels (levels ++ [high]) (s.channels.get c).reception) s) := by
  rw [backLevels_append _ (backLevels_quiet c levels s hr h), receiveRows_append, h, receiveLevels_append]
  simp only [backLevels, backLevel, setReception_get, hr, if_pos, setReception_setReception, receiveRows, List.append_nil,
    List.nil_append, receiveLevels, List.foldl_cons, List.foldl_nil]
  split <;> simp_all

end Sys2Proof.Machine
end

