-- ==== Sys2Proof/Laws/Lines.lean ====
section
/-! SUPPORT. The line store keeps its canonical form (spec/05 R83, R93): every operation on it, one lemma each. -/

namespace Sys2Proof.Machine

/-- A lower bound below the first number of a rising list bounds all of it. -/
theorem risingNumbers_cons {h : HeldLine} {l : List HeldLine} :
    risingNumbers (h :: l) = true ↔ (∀ x ∈ l, h.number < x.number) ∧ risingNumbers l = true := by
  induction l generalizing h with
  | nil => simp [risingNumbers]
  | cons a rest ih =>
    simp only [risingNumbers, Bool.and_eq_true, decide_eq_true_eq, List.mem_cons]
    constructor
    · rintro ⟨h1, h2⟩
      refine ⟨?_, h2⟩
      rintro x (rfl | hx)
      · exact h1
      · exact Nat.lt_trans h1 ((ih.mp h2).1 x hx)
    · rintro ⟨h1, h2⟩
      exact ⟨h1 a (.inl rfl), h2⟩

theorem mem_insertLine {h x : HeldLine} {l : List HeldLine} : x ∈ insertLine h l ↔ x = h ∨ x ∈ l := by
  induction l with
  | nil => simp [insertLine]
  | cons a rest ih =>
    unfold insertLine
    split
    · simp
    · simp only [List.mem_cons, ih]
      constructor
      · rintro (h1 | h1 | h1) <;> simp [h1]
      · rintro (h1 | h1 | h1) <;> simp [h1]

theorem length_insertLine (h : HeldLine) (l : List HeldLine) : (insertLine h l).length = l.length + 1 := by
  induction l with
  | nil => rfl
  | cons a rest ih => unfold insertLine; split <;> simp [ih]

theorem risingNumbers_insertLine {h : HeldLine} {l : List HeldLine} (hr : risingNumbers l = true)
    (hn : ∀ x ∈ l, x.number ≠ h.number) : risingNumbers (insertLine h l) = true := by
  induction l with
  | nil => rfl
  | cons a rest ih =>
    have ha := risingNumbers_cons.mp hr
    unfold insertLine
    split
    · rename_i hlt
      refine risingNumbers_cons.mpr ⟨?_, hr⟩
      intro x hx
      rcases List.mem_cons.mp hx with rfl | hx
      · exact hlt
      · exact Nat.lt_trans hlt (ha.1 x hx)
    · rename_i hge
      refine risingNumbers_cons.mpr ⟨?_, ih ha.2 fun x hx => hn x (List.mem_cons_of_mem _ hx)⟩
      intro x hx
      rcases mem_insertLine.mp hx with rfl | hx
      · have := hn a (List.mem_cons_self ..)
        omega
      · exact ha.1 x hx

/-- The canonical form in three parts. -/
theorem LineStore.wf_iff (ls : LineStore) :
    ls.wf = true ↔ ls.held.length ≤ slotCount ∧ risingNumbers ls.held = true ∧ ∀ h ∈ ls.held, anyMark h.marks = true := by
  simp [LineStore.wf, and_assoc]

theorem findLine_none {ls : LineStore} {n : Nat} : findLine ls n = none ↔ ∀ h ∈ ls.held, h.number ≠ n := by
  simp [findLine]

/-- A filing request keeps the canonical form (R85, R86). -/
theorem fileLine_wf (n : Nat) (levels : List Nat) (marks : PerChan Bool) (ls : LineStore) (h : ls.wf = true) :
    (fileLine n levels marks ls).1.wf = true := by
  unfold fileLine
  split
  · exact h
  · rename_i hf
    split
    · rename_i hroom
      split
      · rename_i hm
        obtain ⟨h1, h2, h3⟩ := (LineStore.wf_iff ls).mp h
        have hnone : findLine ls n = none := by simpa using hf
        refine (LineStore.wf_iff _).mpr ⟨?_, risingNumbers_insertLine h2 (findLine_none.mp hnone), ?_⟩
        · simp only [length_insertLine]; omega
        · intro x hx
          rcases mem_insertLine.mp hx with rfl | hx
          · exact hm
          · exact h3 x hx
      · exact h
    · exact h

theorem mem_releaseWhere {c : Chan} {p : Nat → Bool} {x : HeldLine} {l : List HeldLine} (hx : x ∈ releaseWhere c p l) :
    ∃ y ∈ l, x.number = y.number ∧ x.levels = y.levels ∧ (x.marks = y.marks ∨ (p y.number = true ∧ x.marks = y.marks.set c false ∧
      anyMark x.marks = true)) := by
  induction l with
  | nil => simp [releaseWhere] at hx
  | cons a rest ih =>
    have lift : x ∈ releaseWhere c p rest → ∃ y ∈ a :: rest, x.number = y.number ∧ x.levels = y.levels ∧
        (x.marks = y.marks ∨ (p y.number = true ∧ x.marks = y.marks.set c false ∧ anyMark x.marks = true)) := by
      intro h
      obtain ⟨y, hy, h1⟩ := ih h
      exact ⟨y, List.mem_cons_of_mem _ hy, h1⟩
    simp only [releaseWhere] at hx
    split at hx
    · rename_i hp
      split at hx
      · rename_i hm
        rcases List.mem_cons.mp hx with rfl | hx
        · exact ⟨a, List.mem_cons_self .., rfl, rfl, .inr ⟨hp, rfl, hm⟩⟩
        · exact lift hx
      · exact lift hx
    · rcases List.mem_cons.mp hx with rfl | hx
      · exact ⟨_, List.mem_cons_self .., rfl, rfl, .inl rfl⟩
      · exact lift hx

theorem length_releaseWhere (c : Chan) (p : Nat → Bool) (l : List HeldLine) : (releaseWhere c p l).length ≤ l.length := by
  induction l with
  | nil => simp [releaseWhere]
  | cons a rest ih =>
    simp only [releaseWhere]
    split
    · split <;> simp only [List.length_cons] <;> omega
    · simp only [List.length_cons]; omega

theorem risingNumbers_releaseWhere (c : Chan) (p : Nat → Bool) {l : List HeldLine} (h : risingNumbers l = true) :
    risingNumbers (releaseWhere c p l) = true := by
  induction l with
  | nil => rfl
  | cons a rest ih =>
    obtain ⟨h1, h2⟩ := risingNumbers_cons.mp h
    have below : ∀ x ∈ releaseWhere c p rest, a.number < x.number := by
      intro x hx
      obtain ⟨y, hy, hn, _⟩ := mem_releaseWhere hx
      exact hn ▸ h1 y hy
    simp only [releaseWhere]
    split
    · split
      · exact risingNumbers_cons.mpr ⟨below, ih h2⟩
      · exact ih h2
    · exact risingNumbers_cons.mpr ⟨below, ih h2⟩

/-- A release keeps the canonical form (R89 to R93). -/
theorem releaseWhere_wf (c : Chan) (p : Nat → Bool) (ls : LineStore) (h : ls.wf = true) :
    LineStore.wf { ls with held := releaseWhere c p ls.held } = true := by
  obtain ⟨h1, h2, h3⟩ := (LineStore.wf_iff ls).mp h
  refine (LineStore.wf_iff _).mpr ⟨Nat.le_trans (length_releaseWhere c p _) h1, risingNumbers_releaseWhere c p h2, ?_⟩
  intro x hx
  obtain ⟨y, hy, _, _, hm | ⟨_, _, hm⟩⟩ := mem_releaseWhere hx
  · rw [hm]; exact h3 y hy
  · exact hm

theorem releaseMark_wf (c : Chan) (n : Nat) (ls : LineStore) (h : ls.wf = true) : (releaseMark c n ls).wf = true :=
  releaseWhere_wf _ _ _ h

theorem releaseAll_wf (c : Chan) (ls : LineStore) (h : ls.wf = true) : (releaseAll c ls).wf = true :=
  releaseWhere_wf _ _ _ h

/-! ### The marks of one channel (R92) -/

/-- No held line is marked by a channel. -/
def Unmarked (c : Chan) (ls : LineStore) : Prop := ∀ h ∈ ls.held, h.marks.get c = false

/-- A channel without marks is answered NO (R88). -/
theorem Unmarked.askLine {c : Chan} {ls : LineStore} (h : Unmarked c ls) (m : Nat) : askLine c m ls = none := by
  unfold Machine.askLine
  split
  · rfl
  · rename_i x hx; rw [h x (List.mem_of_find?_eq_some hx)]; rfl

theorem flushLines_unmarked (c : Chan) (ls : LineStore) : Unmarked c (flushLines ls) := by intro h hh; cases hh

/-- The release of every mark of one channel leaves it without marks, and gives none to another. -/
theorem releaseAll_unmarked (c d : Chan) (ls : LineStore) (h : d = c ∨ Unmarked d ls) : Unmarked d (releaseAll c ls) := by
  unfold Unmarked releaseAll
  intro x hx
  dsimp only at hx
  obtain ⟨y, hy, hm⟩ : ∃ y ∈ ls.held, x.marks = y.marks.set c false := by
    clear h
    revert hx
    generalize ls.held = l
    induction l with
    | nil => intro hx; cases hx
    | cons a rest ih =>
      intro hx
      simp only [releaseWhere, if_true] at hx
      split at hx
      · rcases List.mem_cons.mp hx with rfl | hx
        · exact ⟨a, List.mem_cons_self .., rfl⟩
        · obtain ⟨y, hy, e⟩ := ih hx; exact ⟨y, List.mem_cons_of_mem _ hy, e⟩
      · obtain ⟨y, hy, e⟩ := ih hx; exact ⟨y, List.mem_cons_of_mem _ hy, e⟩
  rw [hm]
  by_cases hd : d = c
  · subst hd; simp
  · rw [PerChan.get_set_ne _ _ hd]; exact (h.resolve_left hd) y hy

/-- A flush leaves the canonical form (R94). -/
theorem flushLines_wf (ls : LineStore) : (flushLines ls).wf = true := by
  simp [LineStore.wf, flushLines, risingNumbers]

theorem reset_lineStore_wf : State.reset.lineStore.wf = true := by decide

end Sys2Proof.Machine
end

