-- ==== Sys2Proof/Laws/Orders.lean ====
section
/-! SUPPORT. What the lookups of orders and destinations give after each change of the book, and the numbers of R2 and R23. -/

namespace Sys2Proof.Machine

theorem postResult_posted (l : Link) (b : Byte) (r : ResultCode) (v : Nat) (s : State) :
    Posted l b r v s (postResult l b r v s) := by
  refine ⟨?_, fun k hk => ?_⟩
  · cases l <;> rfl
  · cases l <;> cases k <;> first | rfl | exact absurd rfl hk

/-- A refusal is a result record and nothing else. -/
theorem refused_of_eq {i : Instr} {l : Link} {b : Byte} {r : ResultCode} {s : State}
    (h : exec i s = .next (postResult l b r 0 s)) : RefusedWith i l b r s :=
  ⟨_, h, postResult_posted _ _ _ _ _, postResult_moves _ _ _ _ _⟩

/-! ### Lookups by order number -/

theorem find_map_if {α : Type} (p : α → Bool) (q : α → Prop) [DecidablePred q] (f : α → α)
    (hp : ∀ x, p (if q x then f x else x) = p x) (xs : List α) :
    (xs.map fun x => if q x then f x else x).find? p = (xs.find? p).map fun x => if q x then f x else x := by
  induction xs with
  | nil => rfl
  | cons x rest ih =>
    simp only [List.map_cons, List.find?_cons, hp]
    cases p x <;> simp [ih]

theorem findOrder_number {s : State} {n : Nat} {o : Order} (h : findOrder s n = some o) : o.number = n := by
  simpa using List.find?_some h

theorem findOrder_mem {s : State} {n : Nat} {o : Order} (h : findOrder s n = some o) : o ∈ s.book.orders :=
  List.mem_of_find?_eq_some h

theorem findOrder_none {s : State} {n : Nat} (h : findOrder s n = none) : ∀ o ∈ s.book.orders, o.number ≠ n := by
  intro o ho; simpa using List.find?_eq_none.mp h o ho

@[simp] theorem findOrder_modOrder (n m : Nat) (f : Order → Order) (hf : ∀ o, (f o).number = o.number) (s : State) :
    findOrder (modOrder n f s) m = if m = n then (findOrder s m).map f else findOrder s m := by
  have h := find_map_if (fun o : Order => o.number == m) (fun o => o.number = n) f
    (by intro x; split <;> simp [hf]) s.book.orders
  show (s.book.orders.map fun o => if o.number = n then f o else o).find? _ = _
  rw [h]
  cases hs : s.book.orders.find? (fun o => o.number == m) with
  | none => simp [findOrder, hs]
  | some o =>
    have ho : o.number = m := by simpa using List.find?_some hs
    by_cases hm : m = n
    · subst hm; simp [findOrder, hs, ho]
    · simp [findOrder, hs, ho, hm]

@[simp] theorem findOrder_moveOrders (a b : OrderState) (m : Nat) (s : State) :
    findOrder (moveOrders a b s) m = (findOrder s m).map fun o => if o.state = a then { o with state := b } else o :=
  find_map_if (fun o : Order => o.number == m) (fun o => o.state = a) (fun o => { o with state := b })
    (by intro x; split <;> rfl) s.book.orders

@[simp] theorem findOrder_setOrderState (n m : Nat) (st : OrderState) (s : State) :
    findOrder (setOrderState n st s) m =
      if m = n then (findOrder s m).map fun o => { o with state := st } else findOrder s m :=
  findOrder_modOrder n m (fun o => { o with state := st }) (fun _ => rfl) s

@[simp] theorem findOrder_modDest (n i m : Nat) (f : Destination → Destination) (s : State) :
    findOrder (modDest n i f s) m =
      if m = n then (findOrder s m).map fun o => { o with dests := o.dests.modify i f } else findOrder s m :=
  findOrder_modOrder n m (fun o => { o with dests := o.dests.modify i f }) (fun _ => rfl) s

theorem findDest_modDest (n i : Nat) (f : Destination → Destination) (s : State) :
    findDest (modDest n i f s) n i = (findDest s n i).map f := by
  unfold findDest
  rw [findOrder_modDest]
  cases findOrder s n <;> simp

theorem findDest_modDest_ne (n i m j : Nat) (f : Destination → Destination) (s : State) (h : m = n → j ≠ i) :
    findDest (modDest n i f s) m j = findDest s m j := by
  unfold findDest
  rw [findOrder_modDest]
  by_cases hm : m = n
  · subst hm
    have hj := h rfl
    cases findOrder s m with
    | none => simp
    | some o => simp [Ne.symm hj]
  · simp [hm]

theorem modOrder_only (n : Nat) (f : Order → Order) (hf : ∀ o, (f o).number = o.number) (s : State) :
    OnlyOrder n s (modOrder n f s) := by
  refine ⟨?_, rfl, rfl, fun m hm => by simp [findOrder_modOrder n m f hf, hm]⟩
  show (s.book.orders.map _).map _ = _
  rw [List.map_map]
  refine List.map_congr_left fun o _ => ?_
  show (if o.number = n then f o else o).number = o.number
  split <;> simp [hf]

/-- An order out of the book. -/
theorem findOrder_leaveBook (n m : Nat) (s : State) :
    findOrder (leaveBook n s) m = if m = n then none else findOrder s m := by
  show (s.book.orders.filter fun o => o.number ≠ n).find? _ = _
  rw [List.find?_filter]
  by_cases hm : m = n
  · subst hm
    rw [if_pos rfl, List.find?_eq_none]
    intro o _; by_cases h : o.number = m <;> simp [h]
  · rw [if_neg hm]
    unfold findOrder
    congr 1
    funext o
    by_cases h : o.number = m
    · have hn : o.number ≠ n := by rw [h]; exact hm
      simp [h, hm]
    · simp [h]

/-! ### Numbers in use -/

theorem next_number {limit start : Nat} (h1 : 1 ≤ start) (h2 : start ≤ limit) :
    (if start = limit then 1 else start + 1) - 1 = start % limit := by
  split
  · rename_i h; simp [h]
  · rw [Nat.mod_eq_of_lt (by omega)]; omega

/-- The search of R2 and R23 gives the first free number, if its fuel passes every number in use. -/
theorem freeNumber_first (limit : Nat) (used : List Nat) (fuel start : Nat) (h1 : 1 ≤ start) (h2 : start ≤ limit)
    (hf : freeNumber limit used fuel start ∉ used) : FirstFree limit start used (freeNumber limit used fuel start) := by
  have h0 : (start - 1 + 0) % limit + 1 = start := by
    rw [Nat.add_zero, Nat.mod_eq_of_lt (by omega)]; omega
  induction fuel generalizing start with
  | zero => exact ⟨0, h0.symm, hf, by intro i hi; omega⟩
  | succ n ih =>
    rw [freeNumber] at hf ⊢
    by_cases hu : used.contains start = true
    · rw [if_pos hu] at hf ⊢
      have hs : 1 ≤ (if start = limit then 1 else start + 1) ∧ (if start = limit then 1 else start + 1) ≤ limit := by
        split <;> omega
      obtain ⟨j, hj, hn, hi⟩ := ih _ hs.1 hs.2 hf
        (by rw [Nat.add_zero, Nat.mod_eq_of_lt (by omega)]; omega)
      have hk : ∀ k, ((if start = limit then 1 else start + 1) - 1 + k) % limit = (start - 1 + (k + 1)) % limit := by
        intro k; rw [next_number h1 h2, Nat.mod_add_mod]; congr 1; omega
      refine ⟨j + 1, by rw [← hk]; exact hj, hn, fun i hi' => ?_⟩
      cases i with
      | zero => rw [h0]; simpa using hu
      | succ i => rw [← hk]; exact hi i (by omega)
    · rw [if_neg hu] at hf ⊢
      exact ⟨0, h0.symm, hf, by intro i hi; omega⟩

theorem length_le_of_subset {α : Type} [DecidableEq α] :
    ∀ (xs ys : List α), xs.Nodup → (∀ x ∈ xs, x ∈ ys) → xs.length ≤ ys.length
  | [], _, _, _ => Nat.zero_le _
  | x :: rest, ys, hn, hs => by
    have hx : x ∈ ys := hs x (by simp)
    have ih := length_le_of_subset rest (ys.erase x) (List.nodup_cons.mp hn).2 (by
      intro y hy
      refine (List.mem_erase_of_ne ?_).mpr (hs y (by simp [hy]))
      rintro rfl; exact (List.nodup_cons.mp hn).1 hy)
    have hl := List.length_erase_of_mem hx
    have : 0 < ys.length := List.length_pos_of_mem hx
    simp only [List.length_cons]; omega

/-- Where the search of R2 or R23 ends on a number in use, every number it passed is in use. -/
theorem freeNumber_passed (limit : Nat) (used : List Nat) (fuel start : Nat) (h1 : 1 ≤ start) (h2 : start ≤ limit)
    (hf : freeNumber limit used fuel start ∈ used) : ∀ i, i < fuel → (start - 1 + i) % limit + 1 ∈ used := by
  induction fuel generalizing start with
  | zero => intro i hi; omega
  | succ n ih =>
    rw [freeNumber] at hf
    have hu : used.contains start = true := by
      by_cases hu : used.contains start = true
      · exact hu
      · rw [if_neg hu] at hf; simp [hf] at hu
    rw [if_pos hu] at hf
    have hs : 1 ≤ (if start = limit then 1 else start + 1) ∧ (if start = limit then 1 else start + 1) ≤ limit := by
      split <;> omega
    intro i hi
    cases i with
    | zero =>
      have h0 : (start - 1 + 0) % limit + 1 = start := by
        rw [Nat.add_zero, Nat.mod_eq_of_lt (by omega)]; omega
      rw [h0]; simpa using hu
    | succ i =>
      have hk : ((if start = limit then 1 else start + 1) - 1 + i) % limit = (start - 1 + (i + 1)) % limit := by
        rw [next_number h1 h2, Nat.mod_add_mod]; congr 1; omega
      rw [← hk]; exact ih _ hs.1 hs.2 hf i (by omega)

/-- With fewer numbers in use than there are, the search of R2 and R23 finds one that is not in use. -/
theorem freeNumber_free (limit : Nat) (used : List Nat) (start : Nat) (h1 : 1 ≤ start) (h2 : start ≤ limit)
    (hl : used.length < limit) : FirstFree limit start used (freeNumber limit used (used.length + 1) start) := by
  refine freeNumber_first limit used _ start h1 h2 fun hf => ?_
  have hp := freeNumber_passed limit used _ start h1 h2 hf
  have hn : ((List.range (used.length + 1)).map fun i => (start - 1 + i) % limit + 1).Nodup := by
    refine List.pairwise_map.mpr (List.Pairwise.imp_of_mem ?_ List.pairwise_lt_range)
    intro a b ha hb hab h
    rw [List.mem_range] at ha hb
    have h' : (start - 1 + a) % limit = (start - 1 + b) % limit := by omega
    have hd : (start - 1 + b) / limit ≤ (start - 1 + a) / limit + 1 := by
      have := Nat.div_le_div_right (c := limit) (show start - 1 + b ≤ start - 1 + a + limit by omega)
      rwa [Nat.add_div_right _ (by omega)] at this
    have ea := Nat.div_add_mod (start - 1 + a) limit
    have eb := Nat.div_add_mod (start - 1 + b) limit
    have hle : (start - 1 + a) / limit ≤ (start - 1 + b) / limit := Nat.div_le_div_right (by omega)
    rcases Nat.lt_or_ge ((start - 1 + a) / limit) ((start - 1 + b) / limit) with hlt | hge
    · have : (start - 1 + b) / limit = (start - 1 + a) / limit + 1 := by omega
      rw [this, Nat.mul_add] at eb; omega
    · have : (start - 1 + b) / limit = (start - 1 + a) / limit := by omega
      rw [this] at eb; omega
  have := length_le_of_subset _ used hn (by
    intro x hx
    obtain ⟨i, hi, rfl⟩ := List.mem_map.mp hx
    exact hp i (List.mem_range.mp hi))
  simp only [List.length_map, List.length_range] at this
  omega

end Sys2Proof.Machine
end

