-- ==== Sys2Proof/Laws/Rounds.lean ====
section
/-! SUPPORT. What the abort procedure and the end of a call leave behind, and the notices of both links. -/

namespace Sys2Proof.Machine

/-! ### Notices -/

theorem noticeBoth_noticed (n : Notice) (s : State) : NoticedToBoth n (noticeBoth n s) := by
  intro l; cases l <;> simp [noticeBoth, noticeTo, placeNotice, judgeAttention, PerLink.get, PerLink.set]

theorem noticeBoth_result (n : Notice) (s : State) (l : Link) :
    ((noticeBoth n s).links.get l).result = (s.links.get l).result := by
  cases l <;> simp [noticeBoth, noticeTo, placeNotice, judgeAttention, PerLink.get, PerLink.set]

theorem noticeBoth_other (l : Link) (n : Notice) (s : State) (k : NoticeKind) (h : k ≠ n.kind) :
    ((noticeBoth n s).links.get l).notices.get k = (s.links.get l).notices.get k := by
  cases l <;> simp [noticeBoth, noticeTo, placeNotice, judgeAttention, PerLink.get, PerLink.set, h]

theorem postResult_result (l k : Link) (b : Byte) (r : ResultCode) (v : Nat) (s : State) :
    ((postResult l b r v s).links.get k).result =
      if k = l then { command := b, code := r, value := v } else (s.links.get k).result := by
  cases l <;> cases k <;> rfl

theorem postResult_notices (l k : Link) (b : Byte) (r : ResultCode) (v : Nat) (s : State) :
    ((postResult l b r v s).links.get k).notices = (s.links.get k).notices := by
  cases l <;> cases k <;> rfl

/-! ### The release of the members -/

/-- The channel that the end of a call leaves (R115, R116). -/
def closedChannel (c : Chan) (e : CallEnding) (s : State) : Channel := (closeCall c e s).channels.get c

theorem closeCall_get_ne {c d : Chan} (e : CallEnding) (s : State) (h : d ≠ c) :
    (closeCall c e s).channels.get d = s.channels.get d := by
  simp [closeCall, h]

/-- What a call leaves depends on the time, the book and the channel alone. -/
theorem closedChannel_congr {c : Chan} {e : CallEnding} {s t : State} (h1 : t.now = s.now) (h2 : t.book = s.book)
    (h3 : t.channels.get c = s.channels.get c) : closedChannel c e t = closedChannel c e s := by
  have hf : ∀ ch, closingFrames t ch = closingFrames s ch := by
    intro ch; unfold closingFrames findOrder; rw [h2]
  simp only [closedChannel, closeCall, PerChan.get_set, h1, h3, hf]

theorem releaseMember_spec (c : Chan) (s : State) :
    (∀ d, (releaseMember c s).round.members.get d = if d = c then none else s.round.members.get d) ∧
    (releaseMember c s).round.state = s.round.state ∧ (releaseMember c s).round.order = s.round.order ∧
    (releaseMember c s).round.scanComplete = s.round.scanComplete ∧
    (releaseMember c s).lineStore.depth = s.lineStore.depth ∧
    ∀ d, (releaseMember c s).channels.get d =
      if d = c ∧ (s.round.members.get d).isSome = true then closedChannel d .released s else s.channels.get d := by
  unfold releaseMember
  split
  · rename_i h
    refine ⟨?_, rfl, rfl, rfl, rfl, ?_⟩
    · intro d; by_cases hd : d = c
      · subst hd; simp
      · simp [hd]
    · intro d; by_cases hd : d = c
      · subst hd
        rw [if_pos ⟨rfl, h⟩]
        exact closedChannel_congr rfl rfl rfl
      · rw [if_neg (by simp [hd]), closeCall_get_ne _ _ hd]
  · rename_i h
    refine ⟨?_, rfl, rfl, rfl, rfl, ?_⟩
    · intro d; by_cases hd : d = c
      · subst hd; simpa using h
      · simp [hd]
    · intro d; by_cases hd : d = c
      · subst hd; simp [h]
      · simp [hd]

theorem releaseMembers_spec (s : State) :
    (∀ d, (releaseMembers s).round.members.get d = none) ∧ (releaseMembers s).round.state = s.round.state ∧
    (releaseMembers s).round.order = s.round.order ∧ (releaseMembers s).round.scanComplete = s.round.scanComplete ∧
    (releaseMembers s).lineStore.depth = s.lineStore.depth ∧
    ∀ d, (releaseMembers s).channels.get d =
      if (s.round.members.get d).isSome = true then closedChannel d .released s else s.channels.get d := by
  have a := releaseMember_spec .c1 s
  have b := releaseMember_spec .c2 (releaseMember .c1 s)
  have c := releaseMember_spec .c3 (releaseMember .c2 (releaseMember .c1 s))
  have d := releaseMember_spec .c4 (releaseMember .c3 (releaseMember .c2 (releaseMember .c1 s)))
  have m : ∀ c s, Moves [.round, .lineStore, .channels] s (releaseMember c s) := releaseMember_moves
  have m1 := m .c1 s
  have m2 := m1.trans (m .c2 _)
  have m3 := m2.trans (m .c3 _)
  refine ⟨?_, ?_, ?_, ?_, ?_, ?_⟩
  · intro x
    show (releaseMember .c4 _).round.members.get x = none
    rw [d.1, c.1, b.1, a.1]; cases x <;> simp
  · show (releaseMember .c4 _).round.state = _
    rw [d.2.1, c.2.1, b.2.1, a.2.1]
  · show (releaseMember .c4 _).round.order = _
    rw [d.2.2.1, c.2.2.1, b.2.2.1, a.2.2.1]
  · show (releaseMember .c4 _).round.scanComplete = _
    rw [d.2.2.2.1, c.2.2.2.1, b.2.2.2.1, a.2.2.2.1]
  · show (releaseMember .c4 _).lineStore.depth = _
    rw [d.2.2.2.2.1, c.2.2.2.2.1, b.2.2.2.2.1, a.2.2.2.2.1]
  · intro x
    show (releaseMember .c4 _).channels.get x = _
    cases x
    · simp only [d.2.2.2.2.2, c.2.2.2.2.2, b.2.2.2.2.2, a.2.2.2.2.2]; simp
    · have e : closedChannel .c2 .released (releaseMember .c1 s) = closedChannel .c2 .released s :=
        closedChannel_congr (m1 .now (by decide)) (m1 .book (by decide)) (by rw [a.2.2.2.2.2]; simp)
      simp only [d.2.2.2.2.2, c.2.2.2.2.2, b.2.2.2.2.2, a.2.2.2.2.2, a.1]; simp [e]
    · have e : closedChannel .c3 .released (releaseMember .c2 (releaseMember .c1 s)) = closedChannel .c3 .released s :=
        closedChannel_congr (m2 .now (by decide)) (m2 .book (by decide)) (by rw [b.2.2.2.2.2, a.2.2.2.2.2]; simp)
      simp only [d.2.2.2.2.2, c.2.2.2.2.2, b.2.2.2.2.2, a.2.2.2.2.2, b.1, a.1]; simp [e]
    · have e : closedChannel .c4 .released (releaseMember .c3 (releaseMember .c2 (releaseMember .c1 s))) =
          closedChannel .c4 .released s :=
        closedChannel_congr (m3 .now (by decide)) (m3 .book (by decide))
          (by rw [c.2.2.2.2.2, b.2.2.2.2.2, a.2.2.2.2.2]; simp)
      simp only [d.2.2.2.2.2, c.2.2.2.2.2, b.2.2.2.2.2, a.2.2.2.2.2, c.1, b.1, a.1]; simp [e]

theorem releaseMember_unmarked (c d : Chan) (s : State) (h : Unmarked d s.lineStore ∨ (d = c ∧ s.round.members.get c ≠ none)) :
    Unmarked d (releaseMember c s).lineStore := by
  unfold releaseMember
  split
  · exact releaseAll_unmarked c d _ (h.symm.imp And.left id)
  · rename_i hn; exact h.resolve_right (fun k => k.2 (by simpa using hn))

/-- The marks of every member are gone with it (R92). -/
theorem releaseMembers_unmarked (c : Chan) (s : State) (h : s.round.members.get c ≠ none) :
    Unmarked c (releaseMembers s).lineStore := by
  have keep : ∀ e t, Unmarked c t.lineStore → Unmarked c (releaseMember e t).lineStore :=
    fun e t k => releaseMember_unmarked e c t (.inl k)
  have still : ∀ e t, e ≠ c → t.round.members.get c ≠ none → (releaseMember e t).round.members.get c ≠ none := by
    intro e t he ht; rw [(releaseMember_spec e t).1, if_neg (Ne.symm he)]; exact ht
  have go : ∀ t, t.round.members.get c ≠ none → Unmarked c (releaseMember c t).lineStore :=
    fun t k => releaseMember_unmarked c c t (.inr ⟨rfl, k⟩)
  unfold releaseMembers
  cases c
  · exact keep _ _ (keep _ _ (keep _ _ (go _ h)))
  · exact keep _ _ (keep _ _ (go _ (still _ _ (by decide) h)))
  · exact keep _ _ (go _ (still _ _ (by decide) (still _ _ (by decide) h)))
  · exact go _ (still _ _ (by decide) (still _ _ (by decide) (still _ _ (by decide) h)))

/-- The frames that the end of a call leaves on the line and behind it (R116). -/
theorem closedChannel_frames (c : Chan) (e : CallEnding) (s : State) :
    ClosingFramesFollow s s.now (s.channels.get c) (closedChannel c e s) := by
  simp only [closedChannel, closeCall, PerChan.get_set]
  refine ⟨fun h => by simp [h], fun h k o hk ho => ?_⟩
  cases hl : (s.channels.get c).onLine <;> simp [h, hl, closingFrames, hk, ho, clearPicture]

theorem discardFrame_discarded (r : Reception) : FrameDiscarded r (discardFrame r) := by
  unfold FrameDiscarded discardFrame; split <;> simp_all

/-- A back-channel frame in progress does not outlive the call (R112). -/
theorem closedChannel_discarded (c : Chan) (e : CallEnding) (s : State) :
    FrameDiscarded (s.channels.get c).reception (closedChannel c e s).reception := by
  have h : (closedChannel c e s).reception = discardFrame (s.channels.get c).reception := by
    simp only [closedChannel, closeCall, PerChan.get_set]; split <;> rfl
  rw [h]; exact discardFrame_discarded _

/-- The channel that the abort releases is as R38 and R116 say. -/
theorem closedChannel_released (c : Chan) (s : State) : ReleasedMember s (s.channels.get c) (closedChannel c .released s) := by
  refine ⟨?_, ?_, ?_, ?_, ?_, ?_, ?_, ?_, ?_, ?_, ?_, ?_, ?_, ?_, ?_, ?_, ?_, ?_, closedChannel_frames c _ s, closedChannel_discarded c _ s⟩ <;>
    (simp only [closedChannel, closeCall, PerChan.get_set]; split <;> simp [clearPicture])

/-! ### The abort procedure -/

theorem requestUnmount_members (s : State) : (requestUnmount s).round = s.round :=
  requestUnmount_moves s .round (by decide)

theorem finishOrder_round (n : Nat) (s : State) : (finishOrder n s).round = s.round :=
  finishOrder_moves n s .round (by decide)

/-- A closed round's record (R26, R37). -/
theorem closeRound_round (s : State) : (closeRound s).round = Round.none := by
  have h1 : (markSelection (startIdle { s with round := Round.none })).round = Round.none := by
    show (startIdle _).round = _
    exact startIdle_moves { s with round := Round.none } .round (by decide)
  unfold closeRound
  dsimp only
  split
  · exact h1
  · split
    · exact h1
    · split
      · rw [finishOrder_round, requestUnmount_members]; exact h1
      · exact h1

theorem noMembers_iff (r : Round) : noMembers r = true ↔ ∀ c, r.members.get c = none := by
  simp only [noMembers, List.all_eq_true, Option.isNone_iff_eq_none]
  exact ⟨fun h c => h c (by cases c <;> decide), fun h c _ => h c⟩

theorem closeIfDone_round (s : State) :
    (closeIfDone s).round =
      if s.round.state = .draining ∧ noMembers s.round = true ∧ (s.head.state = .home ∨ s.head.state = .fault) then Round.none
      else s.round := by
  unfold closeIfDone
  by_cases h : s.round.state = .draining ∧ noMembers s.round = true ∧ (s.head.state = .home ∨ s.head.state = .fault)
  · rw [if_pos (by simpa using ⟨⟨h.1, h.2.1⟩, h.2.2⟩), if_pos h, closeRound_round]
  · rw [if_neg (by intro hh; apply h; simpa [and_assoc] using hh), if_neg h]

/-- A round aborted, before its close is judged: the members released, the scan cut short or drained (R38, R39). -/
def emptied (s : State) : State :=
  match s.round.state with
  | .closed => s
  | .assembling => releaseMembers s
  | .scanning => cutScanShort (releaseMembers s)
  | .draining => drainOut (releaseMembers s)

theorem emptied_moves (s : State) : Moves [.round, .head, .lineStore, .channels, .selectDue] s (emptied s) := by
  have m := releaseMembers_moves s
  unfold emptied; split
  · exact Moves.refl _ _
  · exact m.mono (by decide)
  · exact m.andThen (cutScanShort_moves _) (by decide) (by decide)
  · exact m.andThen (drainOut_moves _) (by decide) (by decide)

/-- The head after a command to return home (R59). -/
theorem commandReturn_head (s : State) :
    (commandReturn s).head =
      if s.head.state = .scanning ∨ s.head.state = .home then
        if s.pins.home then { s.head with state := .home, position := 0, returnTimer := none }
        else { s.head with state := .returning, returnTimer := some s.now }
      else s.head := by
  unfold commandReturn startReturn headHome
  cases h : s.head.state <;> simp <;> split <;> rfl

/-- All that an open round is after its members were released, before its close is judged (R38, R39, R92). -/
theorem emptied_spec (s : State) (ho : s.round.state ≠ .closed) :
    noMembers (emptied s).round = true ∧ (emptied s).round.order = s.round.order ∧
    (emptied s).round.state = (if s.round.state = .assembling then .assembling else .draining) ∧
    (emptied s).round.scanComplete = s.round.scanComplete ∧
    (∀ c, (emptied s).channels.get c =
      if (s.round.members.get c).isSome = true then closedChannel c .released s else s.channels.get c) ∧
    (emptied s).lineStore.depth = s.lineStore.depth ∧
    (s.round.state = .scanning ∨ s.round.state = .draining → (emptied s).lineStore.held = []) ∧
    (∀ c, s.round.members.get c ≠ none → Unmarked c (emptied s).lineStore) ∧
    (emptied s).head =
      if (s.round.state ≠ .assembling ∧ s.head.state = .scanning) ∨ (s.round.state = .scanning ∧ s.head.state = .home) then
        if s.pins.home then { s.head with state := .home, position := 0, returnTimer := none }
        else { s.head with state := .returning, returnTimer := some s.now }
      else s.head := by
  obtain ⟨m1, m2, m3, m4, m5, m6⟩ := releaseMembers_spec s
  have nm : noMembers (releaseMembers s).round = true := (noMembers_iff _).mpr m1
  have mv := releaseMembers_moves s
  have eh : (releaseMembers s).head = s.head := mv .head (by decide)
  have ep : (releaseMembers s).pins = s.pins := mv .pins (by decide)
  have en : (releaseMembers s).now = s.now := mv .now (by decide)
  have um := releaseMembers_unmarked
  cases hs : s.round.state with
  | closed => exact absurd hs ho
  | assembling =>
    have e : emptied s = releaseMembers s := by unfold emptied; rw [hs]
    rw [e]
    exact ⟨nm, m3, by rw [m2, hs]; rfl, m4, m6, m5, by simp, fun c h => um c s h, by simp [eh]⟩
  | scanning =>
    have e : emptied s = cutScanShort (releaseMembers s) := by unfold emptied; rw [hs]
    have el : (cutScanShort (releaseMembers s)).lineStore = flushLines (releaseMembers s).lineStore :=
      commandReturn_moves _ .lineStore (by decide)
    have er : (cutScanShort (releaseMembers s)).round = { (releaseMembers s).round with state := .draining } :=
      commandReturn_moves _ .round (by decide)
    have ec : (cutScanShort (releaseMembers s)).channels = (releaseMembers s).channels := cutScanShort_moves _ .channels (by decide)
    rw [e, er, el, ec]
    refine ⟨nm, m3, by simp, m4, m6, m5, fun _ => rfl, fun c _ => flushLines_unmarked c _, ?_⟩
    unfold cutScanShort
    rw [commandReturn_head]
    simp [eh, ep, en]
  | draining =>
    have e : emptied s = drainOut (releaseMembers s) := by unfold emptied; rw [hs]
    have el : (drainOut (releaseMembers s)).lineStore = flushLines (releaseMembers s).lineStore := by
      unfold drainOut; dsimp only; split
      · exact commandReturn_moves _ .lineStore (by decide)
      · rfl
    have er : (drainOut (releaseMembers s)).round = (releaseMembers s).round := drainOut_moves _ .round (by decide)
    have ec : (drainOut (releaseMembers s)).channels = (releaseMembers s).channels := drainOut_moves _ .channels (by decide)
    rw [e, er, el, ec]
    refine ⟨nm, m3, by simp [m2, hs], m4, m6, m5, fun _ => rfl, fun c _ => flushLines_unmarked c _, ?_⟩
    unfold drainOut
    dsimp only
    rw [eh]
    by_cases hd : s.head.state = .scanning
    · simp only [hd, beq_self_eq_true, if_true]
      rw [commandReturn_head]
      simp [ep, en, hd]
    · simp [hd]

theorem closeIfDone_eq (s : State) :
    closeIfDone s =
      if s.round.state = .draining ∧ noMembers s.round = true ∧ (s.head.state = .home ∨ s.head.state = .fault) then closeRound s
      else s := by
  unfold closeIfDone
  congr 1
  simp [and_assoc]

/-- The abort procedure closes the round at once, or leaves it DRAINING for the head to return (R36, R39). -/
theorem abortRound_eq (s : State) (ho : s.round.state ≠ .closed) :
    (ClosesAtOnce s → abortRound s = closeRound (emptied s)) ∧
    (¬ ClosesAtOnce s → abortRound s = emptied s ∧ s.round.state ≠ .assembling) := by
  obtain ⟨e1, _, e3, _, _, _, _, _, e9⟩ := emptied_spec s ho
  have ha : s.round.state ≠ .assembling → abortRound s = closeIfDone (emptied s) := by
    intro h; unfold abortRound emptied; cases hs : s.round.state <;> simp_all
  by_cases hs : s.round.state = .assembling
  · refine ⟨fun _ => by unfold abortRound emptied; rw [hs], fun h => absurd (.inl hs) h⟩
  · rw [ha hs, closeIfDone_eq, e1, e3, if_neg hs]
    have key : ClosesAtOnce s ↔ (emptied s).head.state = .home ∨ (emptied s).head.state = .fault := by
      rw [e9]; unfold ClosesAtOnce
      cases hr : s.round.state <;> cases hh : s.head.state <;> cases hp : s.pins.home <;> simp_all
    refine ⟨fun h => if_pos ⟨rfl, rfl, key.mp h⟩, fun h => ⟨if_neg (fun k => h (key.mpr k.2.2)), hs⟩⟩

/-- An abort that leaves the round open changes no drum, mount, order or notice (R39, R41). -/
theorem abortRound_open (s : State) (ho : s.round.state ≠ .closed) (h : ¬ ClosesAtOnce s) :
    Moves [.round, .head, .lineStore, .channels, .selectDue] s (abortRound s) := by
  rw [((abortRound_eq s ho).2 h).1]
  exact emptied_moves s

/-- The abort procedure as R38 and R39 describe it. -/
theorem abortRound_aborted (s : State) (ho : s.round.state ≠ .closed) : Aborted s (abortRound s) := by
  obtain ⟨e1, e2, e3, e4, e5, e6, e7, e8, e9⟩ := emptied_spec s ho
  obtain ⟨a1, a2⟩ := abortRound_eq s ho
  have cm := closeRound_moves (emptied s)
  have same : (abortRound s).channels = (emptied s).channels ∧ (abortRound s).lineStore = (emptied s).lineStore ∧
      (abortRound s).head = (emptied s).head := by
    by_cases h : ClosesAtOnce s
    · rw [a1 h]; exact ⟨cm .channels (by decide), cm .lineStore (by decide), cm .head (by decide)⟩
    · rw [(a2 h).1]; exact ⟨rfl, rfl, rfl⟩
  obtain ⟨s1, s2, s3⟩ := same
  have closed : ClosesAtOnce s → (abortRound s).round = Round.none := fun h => by rw [a1 h, closeRound_round]
  unfold Aborted
  rw [s1, s2, s3, e6]
  refine ⟨fun c => ?_, fun c hc => by rw [e5]; simp [hc], fun c hc => ⟨?_, fun m => (e8 c hc).askLine m⟩, rfl, ?_, e7, closed, ?_⟩
  · by_cases h : ClosesAtOnce s
    · rw [closed h]; cases c <;> rfl
    · rw [(a2 h).1]; exact (noMembers_iff _).mp e1 c
  · rw [e5, if_pos (Option.isSome_iff_ne_none.mpr hc)]; exact closedChannel_released c s
  · rw [e9]; split <;> (try split) <;> rfl
  · have open_ : s.pins.home = false ∨ s.head.state = .returning → s.head.state ≠ .home → s.head.state ≠ .fault →
        s.round.state ≠ .assembling → (abortRound s).round = (emptied s).round := by
      intro h1 h2 h3 h4
      rw [(a2 (by unfold ClosesAtOnce; rcases h1 with h1 | h1 <;> simp_all)).1]
    cases hs : s.round.state with
    | closed => exact absurd hs ho
    | assembling => intro _; rw [e9]; simp [hs]
    | scanning =>
      intro hd
      refine ⟨?_, fun hp => ?_⟩
      · unfold HeadCommandedHome; rw [s3, e9]
        cases hp : s.pins.home <;> simp [hs, hd]
      · rw [open_ (.inl hp) (by simp [hd]) (by simp [hd]) (by simp [hs])]
        exact ⟨by rw [e3]; simp [hs], e4⟩
    | draining =>
      refine ⟨fun hd => ⟨?_, fun hp => ?_⟩, fun hd => ⟨?_, ?_⟩, fun hd => ?_⟩
      · unfold HeadCommandedHome; rw [s3, e9]
        cases hp : s.pins.home <;> simp [hs, hd]
      · rw [open_ (.inl hp) (by simp [hd]) (by simp [hd]) (by simp [hs]), e3]; simp [hs]
      · rw [e9]; simp [hs, hd]
      · rw [open_ (.inr hd) (by simp [hd]) (by simp [hd]) (by simp [hs]), e3]; simp [hs]
      · rw [e9]; simp [hs, hd]

/-! ### The members' destinations -/

theorem findOrder_congr {s t : State} (h : t.book = s.book) (n : Nat) : findOrder t n = findOrder s n := by
  unfold findOrder; rw [h]

theorem findDest_congr {s t : State} (h : t.book = s.book) (n i : Nat) : findDest t n i = findDest s n i := by
  unfold findDest; rw [findOrder_congr h]

/-- A destination returned to READY where it was ASSIGNED or SENDING (R21). -/
def returnedDest (d : Destination) : Destination :=
  if d.state = .assigned ∨ d.state = .sending then { d with state := .ready, channel := none } else d

theorem returnedDest_idem (d : Destination) : returnedDest (returnedDest d) = returnedDest d := by
  unfold returnedDest
  by_cases h : d.state = .assigned ∨ d.state = .sending
  · rw [if_pos h, if_neg (by simp)]
  · rw [if_neg h, if_neg h]

/-- The order of a destination returned to READY keeps everything else (R21). -/
theorem returnDest_dests (n i m : Nat) (s : State) :
    findOrder (returnDest n i s) m =
      (findOrder s m).map fun o => { o with dests := if m = n then o.dests.modify i returnedDest else o.dests } := by
  have keep : ∀ o : Order, m ≠ n → { o with dests := if m = n then o.dests.modify i returnedDest else o.dests } = o := by
    intro o h; rw [if_neg h]
  by_cases hm : m = n
  · subst hm
    simp only [if_true]
    have same : ∀ o : Order, o.dests.modify i returnedDest = o.dests → { o with dests := o.dests.modify i returnedDest } = o := by
      intro o h; rw [h]
    unfold returnDest findDest
    cases ho : findOrder s m with
    | none => simpa using ho
    | some o =>
      cases hd : o.dests[i]? with
      | none =>
        simp only [hd, ho, Option.map_some]
        rw [same o (List.modify_eq_self (List.getElem?_eq_none_iff.mp hd))]
      | some d =>
        simp only [hd, Option.map_some]
        by_cases hs : d.state = .assigned ∨ d.state = .sending
        · rw [if_pos hs]
          refine (findOrder_modDest m i m _ s).trans ?_
          rw [if_pos rfl, ho, Option.map_some]
          congr 2
          apply List.ext_getElem?
          intro j
          simp only [List.getElem?_modify]
          by_cases hj : i = j
          · subst hj; simp [hd, returnedDest, hs]
          · simp [hj]
        · rw [if_neg hs, ho, same]
          apply List.ext_getElem?
          intro j
          simp only [List.getElem?_modify]
          by_cases hj : i = j
          · subst hj; simp [hd, returnedDest, hs]
          · simp [hj]
  · simp only [keep _ hm, Option.map_id']
    unfold returnDest
    split
    · rfl
    · split
      · exact (findOrder_modDest n i m _ s).trans (if_neg hm)
      · rfl

/-- The destination of a member returned to READY, where the order is the round's. -/
def memberDests (s : State) (c : Chan) (m : Nat) (ds : List Destination) : List Destination :=
  match s.round.members.get c with
  | some i => if s.round.order = some m then ds.modify i returnedDest else ds
  | none => ds

theorem returnMember_dests (c : Chan) (s : State) (m : Nat) :
    findOrder (returnMember c s) m = (findOrder s m).map fun o => { o with dests := memberDests s c m o.dests } := by
  unfold returnMember memberDests
  cases s.round.members.get c with
  | none => simp
  | some i =>
    cases s.round.order with
    | none => simp
    | some n =>
      dsimp only
      rw [returnDest_dests]
      by_cases h : m = n
      · subst h; simp
      · simp [h, Ne.symm h]

theorem memberDests_get (s : State) (c : Chan) (m : Nat) (ds : List Destination) (j : Nat) :
    (memberDests s c m ds)[j]? =
      if s.round.order = some m ∧ s.round.members.get c = some j then ds[j]?.map returnedDest else ds[j]? := by
  unfold memberDests
  cases s.round.members.get c with
  | none => simp
  | some i =>
    by_cases h : s.round.order = some m
    · by_cases hj : i = j
      · subst hj; simp [h]
      · simp [h, hj]
    · simp [h]

/-- The return of the members' destinations to READY (R21, R41 to R45). -/
theorem returnMembers_returned (s : State) : MembersReturned s (returnMembers s) := by
  have r : ∀ c s, (returnMember c s).round = s.round := fun c s => returnMember_moves c s .round (by decide)
  have m : ∀ c t ds n, t.round = s.round → memberDests t c n ds = memberDests s c n ds := by
    intro c t ds n h; unfold memberDests; rw [h]
  intro n _
  have e : findOrder (returnMembers s) n = (findOrder s n).map fun o =>
      { o with dests := memberDests s .c4 n (memberDests s .c3 n (memberDests s .c2 n (memberDests s .c1 n o.dests))) } := by
    unfold returnMembers
    simp only [returnMember_dests, Option.map_map]
    congr 1
    funext o
    simp only [Function.comp_apply]
    rw [m .c4 _ _ _ (by simp only [r]), m .c3 _ _ _ (by simp only [r]), m .c2 _ _ _ (by simp only [r])]
  refine ⟨fun h => by rw [e, h]; rfl, fun o ho => ⟨_, by rw [e, ho]; rfl, rfl, ?_, fun i d hd => ⟨?_, ?_⟩⟩⟩
  · have len : ∀ c ds, (memberDests s c n ds).length = ds.length := by
      intro c ds; unfold memberDests; split
      · split
        · exact List.length_modify _ _ _
        · rfl
      · rfl
    simp only [len]
  all_goals
    have go : ∀ c ds x, ds[i]? = some x → (memberDests s c n ds)[i]? =
        some (if s.round.order = some n ∧ s.round.members.get c = some i then returnedDest x else x) := by
      intro c ds x hx
      rw [memberDests_get, hx]
      split <;> rfl
    rw [go _ _ _ (go _ _ _ (go _ _ _ (go _ _ _ hd)))]
  · rintro ⟨h1, ⟨c, h2⟩, h3⟩
    rw [← show returnedDest d = { d with state := .ready, channel := none } from if_pos h3]
    have idem := returnedDest_idem d
    cases c <;> simp only [h1, h2, true_and, if_true] <;> repeat' split
    all_goals simp only [idem]
  · intro h
    have none : ∀ c, s.round.order = some n ∧ s.round.members.get c = some i → returnedDest d = d := fun c hc =>
      if_neg fun h3 => h ⟨hc.1, ⟨c, hc.2⟩, h3⟩
    have one : ∀ c, (if s.round.order = some n ∧ s.round.members.get c = some i then returnedDest d else d) = d := by
      intro c; split
      · exact none c ‹_›
      · rfl
    rw [one, one, one, one]

theorem returnMembers_state (s : State) (m : Nat) :
    (findOrder (returnMembers s) m).map Order.state = (findOrder s m).map Order.state := by
  simp only [returnMembers, returnMember_dests, Option.map_map]
  rfl

/-- Whether an abort closes the round at once depends on these parts alone. -/
theorem closesAtOnce_congr {s t : State} (h1 : t.round = s.round) (h2 : t.head = s.head) (h3 : t.pins.home = s.pins.home) :
    ClosesAtOnce t ↔ ClosesAtOnce s := by
  unfold ClosesAtOnce
  rw [h1, h2, h3]

/-- An abort for a device fault that leaves the round open touches no drum and no mount, and no order's state (R42 to R45). -/
theorem abortForFault_open (cause : DrumCause) (s : State) (ho : s.round.state ≠ .closed) (h : ¬ ClosesAtOnce s) :
    Moves [.links, .book, .round, .head, .lineStore, .channels, .selectDue] s (abortForFault cause s) ∧
      OrdersKeepState s (abortForFault cause s) := by
  have m := returnMembers_moves s
  have er : (returnMembers s).round = s.round := m .round (by decide)
  have same : ClosesAtOnce (returnMembers s) ↔ ClosesAtOnce s :=
    closesAtOnce_congr er (m .head (by decide)) (by rw [m .pins (by decide)])
  have a := abortRound_open (returnMembers s) (by rw [er]; exact ho) (fun k => h (same.mp k))
  have b : Moves [.links] (abortRound (returnMembers s)) (abortForFault cause s) := noticeBoth_moves _ _
  refine ⟨(m.andThen a (rs := [.book, .round, .head, .lineStore, .channels, .selectDue]) (by decide) (by decide)).andThen b
    (by decide) (by decide), fun n => ?_⟩
  rw [show findOrder (abortForFault cause s) n = findOrder (returnMembers s) n from
    (findOrder_congr (b .book (by decide)) n).trans (findOrder_congr (a .book (by decide)) n)]
  exact returnMembers_state s n

/-! ### The book through an abort -/

/-- The close of a round whose order is not WITHDRAWING leaves the book, the mount and the notices (R37). -/
theorem closeRound_quiet (s : State)
    (h : ∀ n o, s.round.order = some n → findOrder s n = some o → o.state ≠ .withdrawing) :
    Moves [.round, .drum, .selectDue] s (closeRound s) := by
  have h1 : Moves [.round, .drum, .selectDue] s (markSelection (startIdle { s with round := Round.none })) := by
    have h0 : Moves [.round] s { s with round := Round.none } := by
      intro p hp; cases p <;> first | rfl | exact absurd (by decide) hp
    exact (h0.andThen (startIdle_moves _) (rs := [.round, .drum, .selectDue]) (by decide) (by decide)).trans
      ((markSelection_moves _).mono (by decide))
  unfold closeRound
  dsimp only
  split
  · exact h1
  · rename_i n hn
    split
    · exact h1
    · rename_i o ho
      have hf : findOrder s n = some o := by
        rw [← ho]
      rw [if_neg (h n o hn hf)]; exact h1

theorem closeIfDone_quiet (s : State)
    (h : ∀ n o, s.round.order = some n → findOrder s n = some o → o.state ≠ .withdrawing) :
    Moves [.round, .drum, .selectDue] s (closeIfDone s) := by
  unfold closeIfDone; split
  · exact closeRound_quiet s h
  · exact Moves.refl _ _

/-- The parts that the abort of a round changes where its order is not WITHDRAWING. -/
abbrev quietAbortParts : List Part := [.round, .drum, .head, .lineStore, .channels, .selectDue]

theorem abortRound_quiet (s : State)
    (h : ∀ n o, s.round.order = some n → findOrder s n = some o → o.state ≠ .withdrawing) :
    Moves quietAbortParts s (abortRound s) := by
  have m := releaseMembers_moves s
  have hr : (releaseMembers s).round.order = s.round.order := (releaseMembers_spec s).2.2.1
  unfold abortRound; split
  · exact Moves.refl _ _
  · refine m.andThen (closeRound_quiet _ ?_) (by decide) (by decide)
    intro n o hn ho
    exact h n o (hr ▸ hn) ((findOrder_congr (m .book (by decide)) n) ▸ ho)
  · have k := cutScanShort_moves (releaseMembers s)
    have e : (cutScanShort (releaseMembers s)).round.order = s.round.order := by
      have : (cutScanShort (releaseMembers s)).round = { (releaseMembers s).round with state := .draining } :=
        commandReturn_moves _ .round (by decide)
      rw [this]; exact hr
    refine (m.andThen k (rs := quietAbortParts) (by decide) (by decide)).trans ((closeIfDone_quiet _ ?_).mono (by decide))
    intro n o hn ho
    have b : (cutScanShort (releaseMembers s)).book = s.book := (k .book (by decide)).trans (m .book (by decide))
    exact h n o (e ▸ hn) ((findOrder_congr b n) ▸ ho)
  · have k := drainOut_moves (releaseMembers s)
    have e : (drainOut (releaseMembers s)).round.order = s.round.order := by
      rw [show (drainOut (releaseMembers s)).round = _ from k .round (by decide)]; exact hr
    refine (m.andThen k (rs := quietAbortParts) (by decide) (by decide)).trans ((closeIfDone_quiet _ ?_).mono (by decide))
    intro n o hn ho
    have b : (drainOut (releaseMembers s)).book = s.book := (k .book (by decide)).trans (m .book (by decide))
    exact h n o (e ▸ hn) ((findOrder_congr b n) ▸ ho)

/-! ### The close of a round -/

theorem cutDrive_drum (s : State) :
    (cutDrive s).drum =
      if turning s.drum then
        { s.drum with state := .coasting, target := none, lockTimer := none, idleTimer := none, coastTimer := some s.now }
      else s.drum := by unfold cutDrive; split <;> rfl

theorem startIdle_drum (s : State) :
    (startIdle s).drum = if turning s.drum then { s.drum with idleTimer := some s.now } else s.drum := by
  unfold startIdle; split <;> rfl

theorem turning_iff (d : Drum) : turning d = true ↔ d.state = .spinning ∨ d.state = .locked := by simp [turning]

theorem cutDrive_cut (s : State) : DriveCut s (cutDrive s) := by
  unfold DriveCut; rw [cutDrive_drum]; simp only [turning_iff]; split <;> rfl

theorem finishOrder_finished (n : Nat) (s : State) (o : Order) (h : findOrder s n = some o) :
    ((∃ r ∈ s.filing, r.order = n) → findOrder (finishOrder n s) n = some { o with state := .filing }) ∧
      ((∀ r ∈ s.filing, r.order ≠ n) →
        findOrder (finishOrder n s) n = none ∧ NoticedToBoth (.orderDone n) (finishOrder n s)) := by
  unfold finishOrder
  refine ⟨fun hr => ?_, fun hr => ?_⟩
  · rw [if_pos (by simpa using hr), findOrder_setOrderState, if_pos rfl, h]; rfl
  · rw [if_neg (by simpa using hr)]
    exact ⟨by rw [findOrder_leaveBook, if_pos rfl], noticeBoth_noticed _ _⟩

/-- A notice of one kind stays while others are noticed (R178). -/
theorem NoticedToBoth.notice {m : Notice} {s : State} (h : NoticedToBoth m s) (n : Notice) (hk : m.kind ≠ n.kind) :
    NoticedToBoth m (noticeBoth n s) := fun l => by rw [noticeBoth_other l n s _ hk]; exact h l

theorem finishOrder_keeps_mount_notice (n tag : Nat) (s : State) (h : NoticedToBoth (.mountRequest .unmount tag none) s) :
    NoticedToBoth (.mountRequest .unmount tag none) (finishOrder n s) := by
  unfold finishOrder; split
  · exact h
  · exact NoticedToBoth.notice h (.orderDone n) (by simp [Notice.kind])

/-- An order that is finished leaves the others as they are (R24). -/
theorem findOrder_finishOrder (n m : Nat) (s : State) (h : m ≠ n) : findOrder (finishOrder n s) m = findOrder s m := by
  unfold finishOrder; split
  · rw [findOrder_setOrderState, if_neg h]
  · rw [findOrder_leaveBook, if_neg h]

/-- The close of a round changes its WITHDRAWING order alone (R37). -/
theorem closeRound_find (s : State) (m : Nat) (h : NotAbandoned s m) : findOrder (closeRound s) m = findOrder s m := by
  have b : (markSelection (startIdle { s with round := Round.none })).book = s.book := startIdle_moves _ .book (by decide)
  unfold closeRound
  dsimp only
  split
  · exact findOrder_congr b m
  · rename_i n hn
    split
    · exact findOrder_congr b m
    · rename_i o ho
      split
      · rename_i hw
        rw [findOrder_finishOrder n m _ (fun e => h (e.symm ▸ hn) o (e.symm ▸ ho) hw)]
        exact (findOrder_congr (requestUnmount_moves _ .book (by decide)) m).trans (findOrder_congr b m)
      · exact findOrder_congr b m

/-- The close of a round as R37 and R55 describe it. -/
theorem closeRound_closed (s : State) : RoundClosed s (closeRound s) := by
  have idle : (startIdle { s with round := Round.none }).drum =
      if s.drum.state = .spinning ∨ s.drum.state = .locked then { s.drum with idleTimer := some s.now } else s.drum := by
    rw [startIdle_drum]; simp only [turning_iff]
  have quietMoves := startIdle_moves { s with round := Round.none }
  refine ⟨closeRound_round s, ?_, fun h => ?_, closeRound_find s, fun n o hn ho hw => ?_⟩
  · have due : ∀ t : State, t.selectDue = true → ∀ n, (finishOrder n t).selectDue = true := by
      intro t ht n; unfold finishOrder; split
      · exact ht
      · rfl
    unfold closeRound
    dsimp only
    split
    · rfl
    · split
      · rfl
      · split
        · exact due _ ((requestUnmount_moves (markSelection (startIdle { s with round := Round.none })) .selectDue (by decide)).trans rfl) _
        · rfl
  · have e : closeRound s = markSelection (startIdle { s with round := Round.none }) := by
      unfold closeRound
      dsimp only
      split
      · rfl
      · rename_i n hn
        split
        · rfl
        · rename_i o ho
          rw [if_neg (h n o hn ho)]
    rw [e]
    exact ⟨quietMoves .mount (by decide), quietMoves .book (by decide), idle⟩
  · have e : closeRound s = finishOrder n (requestUnmount (markSelection (startIdle { s with round := Round.none }))) := by
      unfold closeRound
      dsimp only
      rw [hn]; dsimp only; rw [ho]; dsimp only; rw [if_pos hw]
    have fm := fun t => finishOrder_moves n t
    rw [e]
    refine ⟨fun tag ht => ?_, fun hm => ?_, ?_⟩
    rotate_left
    · have eq : requestUnmount (markSelection (startIdle { s with round := Round.none })) =
          markSelection (startIdle { s with round := Round.none }) := by
        have : (markSelection (startIdle { s with round := Round.none })).mount = s.mount := quietMoves .mount (by decide)
        unfold requestUnmount; rw [this]; split
        · exact absurd ‹_› (hm _)
        · rfl
      rw [eq]
      exact ⟨(fm _ .mount (by decide)).trans (quietMoves .mount (by decide)), (fm _ .drum (by decide)).trans idle⟩
    rotate_left
    · have mt : (markSelection (startIdle { s with round := Round.none })).mount = .mounted tag :=
        (quietMoves .mount (by decide)).trans ht
      have eq : requestUnmount (markSelection (startIdle { s with round := Round.none })) =
          noticeBoth (.mountRequest .unmount tag none)
            { cutDrive (markSelection (startIdle { s with round := Round.none })) with mount := .unmountRequested tag } := by
        unfold requestUnmount; rw [mt]
      rw [eq]
      refine ⟨fm _ .mount (by decide), ?_, finishOrder_keeps_mount_notice _ _ _ (noticeBoth_noticed _ _)⟩
      unfold DriveCut
      have ed := idle
      revert ed
      rw [show (finishOrder n _).drum = _ from fm _ .drum (by decide)]
      show _ → if _ then (cutDrive (markSelection (startIdle { s with round := Round.none }))).drum = _ else
        (cutDrive (markSelection (startIdle { s with round := Round.none }))).drum = _
      rw [cutDrive_drum, show (markSelection (startIdle { s with round := Round.none })).now = s.now from
        quietMoves .now (by decide)]
      generalize startIdle { s with round := Round.none } = x
      intro ed
      rw [show (markSelection x).drum = x.drum from rfl, ed]
      cases h : s.drum.state <;> simp [turning, h]
    · have b : (requestUnmount (markSelection (startIdle { s with round := Round.none }))).book = s.book :=
        (requestUnmount_moves _ .book (by decide)).trans (quietMoves .book (by decide))
      have f : (requestUnmount (markSelection (startIdle { s with round := Round.none }))).filing = s.filing :=
        (requestUnmount_moves _ .filing (by decide)).trans (quietMoves .filing (by decide))
      have k := finishOrder_finished n _ o ((findOrder_congr b n).trans ho)
      rw [f] at k
      exact k

/-- What the close of a round leaves depends on these parts alone. -/
theorem RoundClosed.from {s t u : State} (h : RoundClosed t u) (hr : t.round.order = s.round.order) (hb : t.book = s.book)
    (hm : t.mount = s.mount) (hd : t.drum = s.drum) (hn : t.now = s.now) (hf : t.filing = s.filing) : RoundClosed s u := by
  unfold RoundClosed DriveCut NotAbandoned findOrder at *
  rw [hr, hb, hm, hd, hn, hf] at h
  exact h

/-- An abort that closes the round at once has the effects of the close (R36, R37). -/
theorem abortRound_closed (s : State) (h : ClosesAtOnce s) : RoundClosed s (abortRound s) := by
  have ho : s.round.state ≠ .closed := by
    intro k; unfold ClosesAtOnce at h; rw [k] at h; simp at h
  have m := emptied_moves s
  rw [(abortRound_eq s ho).1 h]
  exact (closeRound_closed _).from (emptied_spec s ho).2.1 (m .book (by decide)) (m .mount (by decide)) (m .drum (by decide))
    (m .now (by decide)) (m .filing (by decide))

end Sys2Proof.Machine
end

