-- ==== Sys2Proof/Laws/Calls.lean ====
section
/-! SUPPORT. What the end of a call, the identification of a station and the trouble count can do: each says once all of it. -/

namespace Sys2Proof.Machine

theorem afterLeaving_members (c : Chan) (s : State) (h : s.round.members.get c = none) : (afterLeaving s).round.members.get c = none := by
  have nn : Round.none.members.get c = none := by cases c <;> rfl
  have cd : ∀ t : State, t.round.members.get c = none → (closeIfDone t).round.members.get c = none := by
    intro t ht; rw [closeIfDone_round]; split
    · exact nn
    · exact ht
  unfold afterLeaving; split
  · exact h
  · split
    · rw [closeRound_round]; exact nn
    · unfold testStart; split
      · exact h
      · exact h
  · split
    · apply cd
      rw [show (cutScanShort s).round = { s.round with state := .draining } from commandReturn_moves _ .round (by decide)]; exact h
    · exact h
  · split
    · apply cd
      rw [show (drainOut s).round = s.round from drainOut_moves s .round (by decide)]; exact h
    · exact h

theorem leaveRound_members (c : Chan) (s : State) : (leaveRound c s).round.members.get c = none := by
  unfold leaveRound; split
  · exact afterLeaving_members _ _ (by simp)
  · rename_i h; simpa using h

theorem afterLeaving_unmarked (c : Chan) (s : State) (h : Unmarked c s.lineStore) : Unmarked c (afterLeaving s).lineStore := by
  have cd : ∀ t : State, (closeIfDone t).lineStore = t.lineStore := fun t => closeIfDone_moves t .lineStore (by decide)
  unfold afterLeaving; split
  · exact h
  · split
    · rw [show (closeRound s).lineStore = _ from closeRound_moves _ .lineStore (by decide)]; exact h
    · unfold testStart; split
      · exact h
      · exact h
  · split
    · rw [cd, show (cutScanShort s).lineStore = flushLines s.lineStore from commandReturn_moves _ .lineStore (by decide)]
      exact flushLines_unmarked _ _
    · exact h
  · split
    · rw [cd]; unfold drainOut; dsimp only; split
      · rw [show (commandReturn _).lineStore = _ from commandReturn_moves _ .lineStore (by decide)]
        exact flushLines_unmarked _ _
      · exact flushLines_unmarked _ _
    · exact h

/-- A member that leaves holds no mark (R33, R92). -/
theorem leaveRound_unmarked (c : Chan) (s : State) (h : s.round.members.get c ≠ none) : Unmarked c (leaveRound c s).lineStore := by
  unfold leaveRound
  rw [if_pos (Option.isSome_iff_ne_none.mpr h)]
  exact afterLeaving_unmarked _ _ (releaseAll_unmarked c c _ (.inl rfl))

/-- A member that leaves changes no order but a WITHDRAWING one whose round it closes (R37). -/
theorem leaveRound_find (c : Chan) (s : State) (n : Nat) (h : NotAbandoned s n) : findOrder (leaveRound c s) n = findOrder s n := by
  have done : ∀ t : State, t.round.order = s.round.order → t.book = s.book → findOrder (closeIfDone t) n = findOrder s n := by
    intro t hr hb
    have k : NotAbandoned t n := fun e o ho => h (hr ▸ e) o ((findOrder_congr hb n) ▸ ho)
    rw [closeIfDone_eq]; split
    · exact (closeRound_find t n k).trans (findOrder_congr hb n)
    · exact findOrder_congr hb n
  unfold leaveRound; split
  · unfold afterLeaving; split
    · rfl
    · split
      · exact closeRound_find _ n h
      · exact findOrder_congr (testStart_moves _ .book (by decide)) n
    · split
      · refine done _ ?_ (cutScanShort_moves _ .book (by decide))
        rw [show (cutScanShort _).round = _ from commandReturn_moves _ .round (by decide)]
      · rfl
    · split
      · refine done _ ?_ (drainOut_moves _ .book (by decide))
        rw [show (drainOut _).round = _ from drainOut_moves _ .round (by decide)]
      · rfl
  · rfl

/-- Every order that the book of `s` holds is in the book of `t`, with as many lines. -/
def KeepsLines (s t : State) : Prop := ∀ n o, findOrder s n = some o → ∃ x, findOrder t n = some x ∧ x.lines = o.lines

/-- Two channels agree in all that the end of a call keeps or continues (R115, R116). -/
def SameLine (a b : Channel) : Prop :=
  owesClosing a.state = owesClosing b.state ∧ a.call = b.call ∧ a.onLine = b.onLine ∧ a.runStart = b.runStart ∧ a.runBytes = b.runBytes ∧
    a.hook = b.hook ∧ a.service = b.service ∧ a.reception = b.reception

/-- The parts that change before a call is closed: the destination it served, its channel, and what is noticed (R18, R118). -/
abbrev callParts : List Part := [.now, .links, .book, .filing, .channels, .selectDue]

theorem OnlyCalledDest.keepsLines {c : Chan} {s t : State} (h : OnlyCalledDest c s t) : KeepsLines s t := by
  intro n o ho
  cases hk : (s.channels.get c).call with
  | none => exact ⟨o, by rw [findOrder_congr (h.1 hk).1]; exact ho, rfl⟩
  | some k =>
    obtain ⟨⟨_, _, _, h1⟩, _, h2⟩ := h.2 k hk
    by_cases hn : n = k.order
    · obtain ⟨x, hx, e, _⟩ := h2 o (hn ▸ ho)
      exact ⟨x, hn ▸ hx, by rw [e]⟩
    · exact ⟨o, (h1 n hn).trans ho, rfl⟩

/-- An order that is not WITHDRAWING in an open round is none after the destination of a call was placed. -/
theorem OnlyCalledDest.notAbandoned {c : Chan} {s t : State} (h : OnlyCalledDest c s t) (hr : t.round = s.round) {n : Nat}
    (hn : NotAbandoned s n) : NotAbandoned t n := by
  intro e o ho hw
  rw [hr] at e
  cases hk : (s.channels.get c).call with
  | none => exact hn e o ((findOrder_congr (h.1 hk).1 n) ▸ ho) hw
  | some k =>
    obtain ⟨⟨h0, _, _, h1⟩, _, h2⟩ := h.2 k hk
    by_cases hk' : n = k.order
    · cases hf : findOrder s n with
      | some x =>
        obtain ⟨y, hy, _, _, _, hs⟩ := h2 x (hk' ▸ hf)
        rw [← hk', ho] at hy
        cases hy
        rcases hs with hs | hs
        · exact hn e x hf (hs ▸ hw)
        · rw [hs.1] at hw; cases hw
      | none =>
        have : n ∈ s.book.orders.map Order.number :=
          h0 ▸ List.mem_map.mpr ⟨o, findOrder_mem ho, findOrder_number ho⟩
        obtain ⟨y, hy, e'⟩ := List.mem_map.mp this
        exact findOrder_none hf y hy e'
    · exact hn e o ((h1 n hk') ▸ ho) hw

/-- A call ended from a state `t` that was reached from `s` by placing its destination has ended from `s` as R115 and R116 say. -/
theorem leaveRound_callEnded (c : Chan) (e : CallEnding) {s t : State} (hm : Moves callParts s t) (ho : OnlyChannel c s t)
    (hb : OnlyCalledDest c s t) (hc : SameLine (t.channels.get c) (s.channels.get c)) :
    CallEnded c e s (leaveRound c (closeCall c e t)) := by
  have hr : t.round = s.round := hm .round (by decide)
  have lv := leaveRound_moves c (closeCall c e t)
  have hch : (leaveRound c (closeCall c e t)).channels.get c = closedChannel c e t := by
    rw [show (leaveRound c (closeCall c e t)).channels = (closeCall c e t).channels from lv .channels (by decide)]; rfl
  have hn : (leaveRound c (closeCall c e t)).now = t.now := lv .now (by decide)
  obtain ⟨a1, a2, a3, a4, a5, a6, a7, a8⟩ := hc
  have fr : ClosingFramesFollow s t.now (s.channels.get c) (closedChannel c e t) := by
    obtain ⟨f1, f2⟩ := closedChannel_frames c e t
    rw [a1] at f1 f2
    rw [a2, a3, a4, a5] at f2
    refine ⟨f1, fun h k o hk hf => ?_⟩
    obtain ⟨x, hx, hlines⟩ := hb.keepsLines _ _ hf
    have := f2 h k x hk hx
    rw [hlines] at this
    exact this
  unfold CallEnded
  rw [hch, hn, ← a8, ← hr, ← a6, ← a2, ← a7]
  refine ⟨?_, ?_, ?_, ?_, ?_, ?_, ?_, ?_, ?_, ?_, ?_, fr, leaveRound_members _ _,
    fun h m => (leaveRound_unmarked c (closeCall c e t) h).askLine m, closedChannel_discarded c e t, closeCall c e t,
    hm.andThen (closeCall_moves c e t) (by decide) (by decide), fun d hd => ?_, hb, Moves.refl _ _, lv .filing (by decide),
    fun n h => leaveRound_find c _ n (hb.notAbandoned hr h)⟩
  rotate_right
  · rw [closeCall_get_ne _ _ hd, ho d hd]
  all_goals (simp only [closedChannel, closeCall, PerChan.get_set]; split <;> simp [clearPicture])

/-- The end of a call on one channel leaves the other three as they are. -/
theorem leaveRound_onlyChannel (c : Chan) (e : CallEnding) (s : State) : OnlyChannel c s (leaveRound c (closeCall c e s)) := by
  intro d hd
  rw [show (leaveRound c (closeCall c e s)).channels = (closeCall c e s).channels from leaveRound_moves _ _ .channels (by decide)]
  exact closeCall_get_ne _ _ hd

/-- A book and a queue left as they are. -/
theorem OnlyCalledDest.of_book {c : Chan} {s t : State} (hb : t.book = s.book) (hf : t.filing = s.filing) : OnlyCalledDest c s t :=
  ⟨fun _ => ⟨hb, hf⟩, fun k _ => ⟨by unfold OnlyOrder findOrder; rw [hb]; exact ⟨rfl, rfl, rfl, fun _ _ => rfl⟩, .inl hf, fun o ho =>
    ⟨o, (findOrder_congr hb _).trans ho, rfl, rfl, fun _ _ => rfl, .inl rfl⟩⟩⟩

/-- What the placing of a destination changes depends on the book, the queue and the call alone. -/
theorem OnlyCalledDest.from {c : Chan} {s t u : State} (h : OnlyCalledDest c t u) (hb : t.book = s.book) (hf : t.filing = s.filing)
    (hc : (t.channels.get c).call = (s.channels.get c).call) : OnlyCalledDest c s u := by
  unfold OnlyCalledDest OnlyOrder findOrder at *
  rw [hb, hf, hc] at h
  exact h

/-- A change of the destination that the call serves. -/
theorem modDest_onlyCalledDest {c : Chan} {k : Call} (f : Destination → Destination) {s : State} (hk : (s.channels.get c).call = some k) :
    OnlyCalledDest c s (modDest k.order k.dest f s) := by
  refine ⟨fun h => absurd (hk.symm.trans h) (by simp), fun k' hk' => ?_⟩
  obtain rfl : k = k' := by simpa using hk.symm.trans hk'
  refine ⟨modOrder_only k.order (fun o => { o with dests := o.dests.modify k.dest f }) (fun _ => rfl) s, .inl rfl, fun o ho =>
    ⟨{ o with dests := o.dests.modify k.dest f }, by rw [findOrder_modDest, if_pos rfl, ho]; rfl, rfl, ?_, ?_, .inl rfl⟩⟩
  · simp
  · intro j hj; simp [hj.symm]

/-- The destination made FINAL, its reference queued and its order settled (R18, R24). -/
theorem settleReferred_onlyCalledDest {c : Chan} {k : Call} (f : Destination → Destination) {s : State}
    (hk : (s.channels.get c).call = some k) :
    OnlyCalledDest c s (settleOrder k.order (appendRef { order := k.order, dest := k.dest, channel := some c } (modDest k.order k.dest f s))) := by
  obtain ⟨o1, _, o3⟩ := (modDest_onlyCalledDest f hk).2 k hk
  refine ⟨fun h => absurd (hk.symm.trans h) (by simp), fun k' hk' => ?_⟩
  obtain rfl : k = k' := by simpa using hk.symm.trans hk'
  generalize ha : appendRef { order := k.order, dest := k.dest, channel := some c } (modDest k.order k.dest f s) = a
  have hb : a.book = (modDest k.order k.dest f s).book := ha ▸ rfl
  have hf : a.filing = s.filing ++ [{ order := k.order, dest := k.dest, channel := some c }] := ha ▸ rfl
  have o1 : OnlyOrder k.order s a := by
    unfold OnlyOrder findOrder at *; rw [hb]; exact o1
  have stays : ∀ o, findOrder s k.order = some o → ∃ x, findOrder a k.order = some x ∧ x = { o with state := x.state, dests := x.dests } ∧
      x.dests.length = o.dests.length ∧ (∀ j, j ≠ k.dest → x.dests[j]? = o.dests[j]?) ∧
      (x.state = o.state ∨ (x.state = .filing ∧ o.state ≠ .withdrawing ∧ ∀ y ∈ x.dests, y.state = .final)) := by
    intro o ho
    obtain ⟨x, hx, hs⟩ := o3 o ho
    exact ⟨x, (findOrder_congr hb _).trans hx, hs⟩
  unfold settleOrder
  split
  · exact ⟨o1, .inr hf, stays⟩
  · rename_i y hy
    split
    · rename_i hall
      unfold finishOrder
      rw [if_pos (by rw [hf]; simp)]
      refine ⟨?_, .inr hf, fun o ho => ⟨{ y with state := .filing }, by rw [findOrder_setOrderState, if_pos rfl, hy]; rfl, ?_⟩⟩
      · obtain ⟨m1, m2, m3, m4⟩ := modOrder_only k.order (fun o => { o with state := OrderState.filing }) (fun _ => rfl) a
        obtain ⟨p1, p2, p3, p4⟩ := o1
        exact ⟨m1.trans p1, m2.trans p2, m3.trans p3, fun m h => (m4 m h).trans (p4 m h)⟩
      · obtain ⟨x, hx, e1, e2, e3, e4⟩ := stays o ho
        obtain rfl : y = x := by simpa using hy.symm.trans hx
        simp only [Bool.and_eq_true, bne_iff_ne, List.all_eq_true, isFinal, beq_iff_eq] at hall
        have hw : o.state ≠ .withdrawing := by
          rcases e4 with h | h
          · exact h ▸ hall.2
          · exact h.2.1
        exact ⟨by rw [e1], e2, e3, .inr ⟨rfl, hw, hall.1⟩⟩
    · exact ⟨o1, .inr hf, stays⟩

/-- The destination of a call returned to READY (R21, R118). -/
theorem returnDest_onlyCalledDest {c : Chan} {k : Call} {s : State} (hk : (s.channels.get c).call = some k) :
    OnlyCalledDest c s (returnDest k.order k.dest s) := by
  unfold returnDest; split
  · exact .of_book rfl rfl
  · split
    · exact modDest_onlyCalledDest _ hk
    · exact .of_book rfl rfl

theorem reportOutcome_onlyCalledDest (c : Chan) (oc : CallOutcome) (rep : Option Report) (s : State) :
    OnlyCalledDest c s (reportOutcome c oc rep s) := by
  unfold reportOutcome
  dsimp only
  split
  · exact .of_book rfl rfl
  · rename_i k hk
    split
    · exact .of_book rfl rfl
    · split
      · split
        · exact modDest_onlyCalledDest _ hk
        · exact settleReferred_onlyCalledDest _ hk
      · exact .of_book rfl rfl

/-- A call that ends with an outcome in a state that differs from `s` outside the book and the queue alone. -/
theorem endWithOutcome_callEnded (c oc rep) {s t : State} (hm : Moves callParts s t) (ho : OnlyChannel c s t) (hb : t.book = s.book)
    (hf : t.filing = s.filing) (hc : SameLine (t.channels.get c) (s.channels.get c)) :
    CallEnded c (.outcome oc) s (endWithOutcome c oc rep t) := by
  have e : (reportOutcome c oc rep t).channels = t.channels := reportOutcome_moves _ _ _ _ .channels (by decide)
  refine leaveRound_callEnded c _ (hm.andThen (reportOutcome_moves c oc rep t) (by decide) (by decide)) (fun d hd => ?_)
    ((reportOutcome_onlyCalledDest c oc rep t).from hb hf hc.2.1) (by rw [e]; exact hc)
  rw [e]; exact ho d hd

theorem endWithOutcome_onlyChannel (c oc rep) (s : State) : OnlyChannel c s (endWithOutcome c oc rep s) := by
  intro d hd
  unfold endWithOutcome
  rw [leaveRound_onlyChannel c _ _ d hd, show (reportOutcome c oc rep s).channels = s.channels from reportOutcome_moves _ _ _ _ .channels (by decide)]

/-- All that an ended call (R115, R129) leaves behind. -/
theorem endWithOutcome_spec (c oc rep) (s : State) : CallEnded c (.outcome oc) s (endWithOutcome c oc rep s) ∧ OnlyChannel c s (endWithOutcome c oc rep s) ∧ Moves callEndParts s (endWithOutcome c oc rep s) :=
  ⟨endWithOutcome_callEnded c oc rep (Moves.refl _ _) (fun _ _ => rfl) rfl rfl ⟨rfl, rfl, rfl, rfl, rfl, rfl, rfl, rfl⟩,
    endWithOutcome_onlyChannel _ _ _ _, endWithOutcome_moves _ _ _ _⟩

/-- What stays readable of the ended call: its trouble count, its last fault code and its station code. -/
theorem endWithOutcome_keeps (c oc rep) (s : State) : ((endWithOutcome c oc rep s).channels.get c).trouble = (s.channels.get c).trouble ∧
  ((endWithOutcome c oc rep s).channels.get c).fault = (s.channels.get c).fault ∧ ((endWithOutcome c oc rep s).channels.get c).station = (s.channels.get c).station := by
  have e : (endWithOutcome c oc rep s).channels = (closeCall c (.outcome oc) (reportOutcome c oc rep s)).channels := leaveRound_moves _ _ .channels (by decide)
  have e2 : (reportOutcome c oc rep s).channels = s.channels := reportOutcome_moves _ _ _ _ .channels (by decide)
  rw [e]; simp only [closeCall, PerChan.get_set, e2]
  split <;> simp [clearPicture]

/-- The comparison under the mask (R106), bit by bit. -/
theorem codeMatches_iff (code : Word) (e : Entry) : codeMatches code e = true ↔ CodeAgrees e code := by
  unfold codeMatches CodeAgrees
  simp only [beq_iff_eq]
  constructor
  · intro h b hb hm
    have := congrArg (fun x => x.getLsbD b) h
    simp [hm] at this; exact this
  · intro h; apply BitVec.eq_of_getLsbD_eq; intro b hb
    have := h b hb
    simp only [BitVec.getLsbD_and, BitVec.getLsbD_xor, BitVec.getLsbD_zero]
    cases hm : e.mask.getLsbD b
    · simp
    · rw [this hm]; simp

/-- Identification (R106): the lowest entry that agrees. -/
theorem identify_iff (st : Store) (code : Word) (i : Nat) : identify st code = some i ↔ Identifies st code i := by
  unfold identify Identifies
  have v : ∀ j, (match validEntry st j with | none => false | some e => codeMatches code e) = true ↔ ∃ e, readEntry st j = .valid e ∧ CodeAgrees e code := by
    intro j; unfold validEntry
    cases h : readEntry st j <;> simp [codeMatches_iff]
  rw [List.find?_range_eq_some]
  constructor
  · rintro ⟨h1, h2, h3⟩
    refine ⟨by simpa using h2, (v i).mp h1, ?_⟩
    intro j hj e he hc
    have := h3 j hj
    have q := (v j).mpr ⟨e, he, hc⟩
    cases (congrArg not q).symm.trans this
  · rintro ⟨h1, h2, h3⟩
    refine ⟨(v i).mpr h2, by simpa using h1, ?_⟩
    intro j hj
    rcases Bool.eq_false_or_eq_true (match validEntry st j with | none => false | some e => codeMatches code e) with hx | hx
    · obtain ⟨e, he, hc⟩ := (v j).mp hx
      exact absurd hc (h3 j hj e he)
    · exact congrArg not hx

theorem modChan_onlyChannel (c : Chan) (f) (s t : State) (h : t.channels = (modChan c f s).channels) : OnlyChannel c s t := by
  intro d hd; rw [h]; exact modChan_get_ne _ _ hd

theorem finishStep_not_due (s : State) (h : s.selectDue = false) : finishStep s = s := by
  unfold finishStep; rw [h]; cases s; simp_all

/-- The frames a channel state takes (R113), as the table of pairs. -/
theorem expects_iff (st : ChanState) (k : BackKind) : expects st k = true ↔ (st, k) ∈ expectedKinds := by
  cases st <;> cases k <;> simp [expects, expectedKinds]

/-- A frame that agrees with the entry and that the state expects has the effect of its kind (R112, R113). -/
theorem receiveFrame_taken (c : Chan) (code : Word) (kind : BackKind) (act) (s : State) (k : Call) (hk : (s.channels.get c).call = some k) (ha : CodeAgrees k.entry code)
  (he : ((s.channels.get c).state, kind) ∈ expectedKinds) : receiveFrame c code kind act s = act s := by
  have hr : readsBack (s.channels.get c).state = true := by
    revert he; generalize (s.channels.get c).state = st; cases st <;> cases kind <;> simp [expectedKinds, readsBack]
  unfold receiveFrame testFrame; simp [hr, hk, (codeMatches_iff _ _).mpr ha, (expects_iff _ _).mpr he]

/-- A trouble count that stays under 128 (R134): the count, the caution and its notice. -/
theorem raiseTrouble_rises (c : Chan) (n : Nat) (k : Call) (s : State) (hk : (s.channels.get c).call = some k) (ht : (s.channels.get c).trouble + n < 128) :
  TroubleRises c n k (s.channels.get c) s (raiseTrouble c n s) ∧ OnlyChannel c s (raiseTrouble c n s) ∧ Moves [.links, .channels] s (raiseTrouble c n s) ∧
  (raiseTrouble c n s).channels.get c = { s.channels.get c with trouble := (s.channels.get c).trouble + n, caution := ((raiseTrouble c n s).channels.get c).caution } := by
  unfold raiseTrouble TroubleRises; dsimp only
  rw [if_neg (by omega)]
  split
  · rw [hk]; dsimp only
    have e : ∀ t : State, ∀ n, (noticeBoth n t).channels = t.channels := fun _ _ => rfl
    refine ⟨⟨?_, ?_, ?_⟩, ?_, ?_, ?_⟩
    · rw [e]; simp [modChan_get]
    · rw [e]; simp [modChan_get]
    · exact noticeBoth_noticed _ _
    · intro d hd; rw [e, modChan_get_ne _ _ hd, modChan_get_ne _ _ hd]
    · intro p hp; cases p <;> first | rfl | exact absurd (by decide) hp
    · rw [e]; simp [modChan_get, hk]
  · refine ⟨⟨?_, ?_, ?_⟩, ?_, ?_, ?_⟩
    · simp [modChan_get]
    · simp [modChan_get]
    · rfl
    · intro d hd; rw [modChan_get_ne _ _ hd]
    · intro p hp; cases p <;> first | rfl | exact absurd (by decide) hp
    · simp [modChan_get]

/-- A trouble count that reaches 128 drops the call (R136). -/
theorem raiseTrouble_drops (c : Chan) (n : Nat) (s : State) (ht : 128 ≤ (s.channels.get c).trouble + n) (h48 : 48 ≤ (s.channels.get c).trouble) :
  CallEnded c (.outcome .dropped) s (raiseTrouble c n s) ∧ OnlyChannel c s (raiseTrouble c n s) ∧ Moves callEndParts s (raiseTrouble c n s) ∧
  ((raiseTrouble c n s).channels.get c).trouble = (s.channels.get c).trouble + n ∧ ((raiseTrouble c n s).channels.get c).fault = (s.channels.get c).fault := by
  have e : raiseTrouble c n s = endWithOutcome c .dropped none (modChan c (fun ch => { ch with trouble := (s.channels.get c).trouble + n }) s) := by
    unfold raiseTrouble; dsimp only; rw [if_pos ht, if_neg (by omega)]
  rw [e]
  refine ⟨endWithOutcome_callEnded _ _ _ ((modChan_moves _ _ _).mono (by decide)) (fun d hd => modChan_get_ne _ _ hd) rfl rfl
    (by rw [modChan_get]; exact ⟨rfl, rfl, rfl, rfl, rfl, rfl, rfl, rfl⟩), ?_, ?_, ?_, ?_⟩
  · intro d hd; rw [endWithOutcome_onlyChannel _ _ _ _ d hd, modChan_get_ne _ _ hd]
  · exact (show Moves [.channels] s _ by (intro p hp; cases p <;> first | rfl | exact absurd (by decide) hp)).andThen (endWithOutcome_moves _ _ _ _) (by decide) (by decide)
  · rw [(endWithOutcome_keeps _ _ _ _).1, modChan_get]
  · rw [(endWithOutcome_keeps _ _ _ _).2.1, modChan_get]

end Sys2Proof.Machine
end

