-- ==== Sys2Proof/Laws/Log.lean ====
section
/-! SUPPORT. The receipt log (spec/08): what a change of one record, a removal test and a printer setting that turns disabled do to
every record, in a log of distinct filing numbers. -/

namespace Sys2Proof.Machine

theorem modRecord_log (f : Nat) (g : Receipt → Receipt) (s : State) :
    (modRecord f g s).log = s.log.map fun r => if r.filing = f then g r else r := rfl

theorem testRecord_log (f : Nat) (s : State) :
    (testRecord f s).log = s.log.filter fun r => !(r.filing == f && removable s r) := rfl

theorem findReceipt_eq (s : State) (f : Nat) : findReceipt s f = s.log.find? fun r => r.filing == f := rfl

theorem findReceipt_filing {s : State} {f : Nat} {r : Receipt} (h : findReceipt s f = some r) : r.filing = f := by
  simpa using List.find?_some h

theorem findReceipt_mem {s : State} {f : Nat} {r : Receipt} (h : findReceipt s f = some r) : r ∈ s.log :=
  List.mem_of_find?_eq_some h

/-- The removal test of the model is the three conditions of R146. -/
theorem removable_iff (s : State) (r : Receipt) : removable s r = true ↔ Removable s r := by
  unfold removable releasedBy slipDone Removable ReleasedOn
  simp only [Bool.and_eq_true, Bool.or_eq_true, Bool.not_eq_true', beq_iff_eq]
  constructor
  · rintro ⟨⟨a, b⟩, c⟩
    exact ⟨fun l => by cases l <;> assumption, c⟩
  · rintro ⟨a, c⟩
    exact ⟨⟨a .desk, a .dispatch⟩, c⟩

/-- A change that keeps filing numbers keeps them distinct. -/
theorem map_filing (f : Nat) (g : Receipt → Receipt) (hg : ∀ r, (g r).filing = r.filing) (log : List Receipt) :
    (log.map fun r => if r.filing = f then g r else r).map Receipt.filing = log.map Receipt.filing := by
  rw [List.map_map]
  apply List.map_congr_left
  intro r _
  simp only [Function.comp_apply]
  split <;> simp [hg]

/-- A changed record is found changed, and the others as they were. -/
theorem findReceipt_modRecord (f : Nat) (g : Receipt → Receipt) (hg : ∀ r, (g r).filing = r.filing) (s : State) (k : Nat) :
    findReceipt (modRecord f g s) k = if k = f then (findReceipt s k).map g else findReceipt s k := by
  simp only [findReceipt_eq, modRecord_log]
  generalize s.log = log
  induction log with
  | nil => simp
  | cons r rest ih =>
    simp only [List.map_cons, List.find?_cons]
    by_cases hr : r.filing = k
    · subst hr
      by_cases hk : r.filing = f
      · simp [hk, hg]
      · simp [hk]
    · have : ((if r.filing = f then g r else r).filing == k) = false := by
        split <;> simp [hg, hr]
      have hr' : (r.filing == k) = false := by simpa using hr
      rw [this, ih, hr']

/-- In a log of distinct filing numbers only the tested record can go, and it goes exactly when it is removable. -/
theorem findReceipt_testRecord (f : Nat) (s : State) (h : RecordsDistinct s) (k : Nat) :
    findReceipt (testRecord f s) k =
      if k = f then (findReceipt s k).filter (fun r => !removable s r) else findReceipt s k := by
  simp only [findReceipt_eq, testRecord_log]
  unfold RecordsDistinct at h
  revert h
  generalize s.log = log
  induction log with
  | nil => simp
  | cons r rest ih =>
    intro h
    rw [List.map_cons, List.nodup_cons] at h
    have ih := ih h.2
    have absent : rest.find? (fun x => x.filing == r.filing) = none := by
      rw [List.find?_eq_none]
      intro x hx hxe
      exact h.1 (List.mem_map.mpr ⟨x, hx, by simpa using hxe⟩)
    have absent' : (rest.filter fun x => !(x.filing == f && removable s x)).find? (fun x => x.filing == r.filing) = none := by
      rw [List.find?_eq_none] at absent ⊢
      intro x hx
      exact absent x (List.mem_filter.mp hx).1
    by_cases hk : r.filing = k
    · subst hk
      by_cases hf : r.filing = f
      · subst hf
        cases hr : removable s r
        · simp [hr, Option.filter]
        · simp only [List.filter_cons, hr, beq_self_eq_true, Bool.and_self, Bool.not_true, Bool.false_eq_true, if_false,
            List.find?_cons, if_true]
          rw [absent']
          simp [Option.filter, hr]
      · simp [hf]
    · have e : ((r :: rest).filter fun x => !(x.filing == f && removable s x)).find? (fun x => x.filing == k) =
          (rest.filter fun x => !(x.filing == f && removable s x)).find? (fun x => x.filing == k) := by
        rw [List.filter_cons]
        split
        · rw [List.find?_cons_of_neg (by simpa using hk)]
        · rfl
      rw [e, ih, List.find?_cons_of_neg (by simpa using hk)]

/-! ### What leaves the log -/

theorem LogShrinks.trans {s t u : State} (h : LogShrinks s t) (k : LogShrinks t u) : LogShrinks s u := List.Sublist.trans k h

theorem LogShrinks.distinct {s t : State} (h : LogShrinks s t) (hd : RecordsDistinct s) : RecordsDistinct t := List.Nodup.sublist h hd

theorem modRecord_shrinks (f : Nat) (g : Receipt → Receipt) (hg : ∀ r, (g r).filing = r.filing) (s : State) :
    LogShrinks s (modRecord f g s) := by
  have e : (modRecord f g s).log.map Receipt.filing = s.log.map Receipt.filing := map_filing f g hg s.log
  simp only [LogShrinks, e, List.Sublist.refl]

theorem testRecord_shrinks (f : Nat) (s : State) : LogShrinks s (testRecord f s) := List.filter_sublist.map _

/-- A removal test that finds its record not removable removes nothing. -/
theorem testRecord_kept (f : Nat) (s : State) (h : ∀ r ∈ s.log, r.filing = f → removable s r = false) : (testRecord f s).log = s.log := by
  rw [testRecord_log, List.filter_eq_self]
  intro r hr
  by_cases hf : r.filing = f
  · simp [h r hr hf]
  · simp [hf]

/-- What dropping the PENDING records makes of one record (R161). -/
def droppedRecord (s : State) (r : Receipt) : Option Receipt :=
  if r.slip = .pending then if removable s { r with slip := .notRequired } then none else some { r with slip := .notRequired } else some r

theorem dropPending_log (s : State) : (dropPending s).log = s.log.filterMap (droppedRecord s) := rfl

theorem droppedRecord_filing {s : State} {r x : Receipt} (h : droppedRecord s r = some x) : x.filing = r.filing := by
  unfold droppedRecord at h
  split at h
  · split at h
    · cases h
    · cases h; rfl
  · cases h; rfl

theorem dropPending_shrinks (s : State) : LogShrinks s (dropPending s) := by
  unfold LogShrinks
  rw [dropPending_log]
  generalize s.log = log
  induction log with
  | nil => exact List.Sublist.refl _
  | cons r rest ih =>
    rw [List.filterMap_cons]
    split
    · exact ih.cons _
    · rename_i x hx
      rw [List.map_cons, List.map_cons, droppedRecord_filing hx]
      exact ih.cons_cons _

theorem dropPending_none (s : State) : ∀ r ∈ (dropPending s).log, r.slip ≠ .pending := by
  intro r hr
  rw [dropPending_log, List.mem_filterMap] at hr
  obtain ⟨x, -, h⟩ := hr
  unfold droppedRecord at h
  split at h
  · split at h
    · cases h
    · cases h; simp
  · rename_i hp; cases h; exact hp

theorem findReceipt_dropPending (s : State) (h : RecordsDistinct s) (g : Nat) :
    findReceipt (dropPending s) g = (findReceipt s g).bind (droppedRecord s) := by
  simp only [findReceipt_eq, dropPending_log]
  unfold RecordsDistinct at h
  revert h
  generalize s.log = log
  induction log with
  | nil => intro _; rfl
  | cons r rest ih =>
    intro h
    rw [List.map_cons, List.nodup_cons] at h
    have ih := ih h.2
    by_cases hr : r.filing = g
    · subst hr
      rw [List.find?_cons_of_pos (by simp), Option.bind_some, List.filterMap_cons]
      split
      · rename_i hx; rw [hx, List.find?_eq_none]
        intro x hx hxe
        obtain ⟨y, hy, hyx⟩ := List.mem_filterMap.mp hx
        exact h.1 (List.mem_map.mpr ⟨y, hy, by rw [← droppedRecord_filing hyx]; simpa using hxe⟩)
      · rename_i x hx; rw [hx, List.find?_cons_of_pos (by simpa using droppedRecord_filing hx)]
    · rw [List.find?_cons_of_neg (by simpa using hr), List.filterMap_cons]
      split
      · exact ih
      · rename_i x hx
        rw [List.find?_cons_of_neg (by rw [droppedRecord_filing hx]; simpa using hr)]
        exact ih

/-- Dropping the PENDING records does to each record what R161 says. -/
theorem dropPending_dropped (s : State) (h : RecordsDistinct s) (g : Nat) : PendingDropped g s (dropPending s) := by
  refine ⟨fun h1 => by rw [findReceipt_dropPending s h, h1]; rfl, fun y hy => ?_⟩
  rw [findReceipt_dropPending s h, hy, Option.bind_some]
  unfold droppedRecord
  refine ⟨fun hp => if_neg hp, fun hp z hz => ?_⟩
  rw [if_pos hp, ← hz]
  exact ⟨fun hr => if_pos ((removable_iff _ _).mpr hr), fun hr => if_neg fun k => hr ((removable_iff _ _).mp k)⟩

theorem removable_congr {s t : State} (h : t.pins = s.pins) (r : Receipt) : removable t r = removable s r := by
  unfold removable releasedBy; rw [h]

theorem Removable_congr {s t : State} (h : t.pins = s.pins) (r : Receipt) : Removable t r ↔ Removable s r := by
  rw [← removable_iff, ← removable_iff, removable_congr h]

theorem PendingDropped.congr {g : Nat} {s t m u : State} (h : PendingDropped g s m) (h1 : findReceipt t g = findReceipt s g)
    (h2 : t.pins = s.pins) (h3 : findReceipt u g = findReceipt m g) : PendingDropped g t u := by
  unfold PendingDropped
  rw [h1, h3]
  refine ⟨h.1, fun y hy => ⟨(h.2 y hy).1, fun hp z hz => ?_⟩⟩
  rw [Removable_congr h2]
  exact (h.2 y hy).2 hp z hz

end Sys2Proof.Machine
end

