-- ==== Sys2Proof/Laws/Filing.lean ====
section
/-! SUPPORT. What the transfer of filing references can do (R23, R146, R148): one reference, those that a freed place lets through, and
the end of a step in which records may have left the log. -/

namespace Sys2Proof.Machine

/-! ### The order of a reference -/

theorem settleOrder_keeps {n : Nat} {s : State} {o : Order} (h : findOrder s n = some o)
    (k : (∃ x ∈ o.dests, x.state ≠ .final) ∨ o.state = .withdrawing) : settleOrder n s = s := by
  unfold settleOrder
  rw [h]
  refine if_neg fun hc => ?_
  simp only [Bool.and_eq_true, bne_iff_ne, List.all_eq_true, isFinal, beq_iff_eq] at hc
  rcases k with ⟨x, hx, hs⟩ | hw
  · exact hs (hc.1 x hx)
  · exact hc.2 hw

theorem settleOrder_finishes {n : Nat} {s : State} {o : Order} (h : findOrder s n = some o) (hf : ∀ x ∈ o.dests, x.state = .final)
    (hw : o.state ≠ .withdrawing) : settleOrder n s = finishOrder n s := by
  unfold settleOrder
  rw [h]
  refine if_pos ?_
  simp only [Bool.and_eq_true, bne_iff_ne, List.all_eq_true, isFinal, beq_iff_eq]
  exact ⟨hf, hw⟩

theorem settleOrder_find_ne {n m : Nat} (s : State) (h : m ≠ n) : findOrder (settleOrder n s) m = findOrder s m := by
  unfold settleOrder
  split
  · rfl
  · split
    · exact findOrder_finishOrder n m s h
    · rfl

/-- A settled order keeps its destinations while it is in the book (R24). -/
theorem settleOrder_dests {n : Nat} {s : State} {o : Order} (h : findOrder s n = some o) :
    ∀ x, findOrder (settleOrder n s) n = some x → x.dests = o.dests := by
  intro x hx
  unfold settleOrder at hx
  rw [h] at hx
  dsimp only at hx
  split at hx
  · unfold finishOrder at hx
    split at hx
    · rw [findOrder_setOrderState, if_pos rfl, h] at hx; cases hx; rfl
    · rw [findOrder_leaveBook, if_pos rfl] at hx; cases hx
  · rw [h] at hx; cases hx; rfl

/-- A settled order changes no notice but ORDER DONE, and no result (R24). -/
theorem settleOrder_links (n : Nat) (s : State) (l : Link) :
    (∀ k, k ≠ .orderDone → ((settleOrder n s).links.get l).notices.get k = (s.links.get l).notices.get k) ∧
      ((settleOrder n s).links.get l).result = (s.links.get l).result := by
  unfold settleOrder
  split
  · exact ⟨fun _ _ => rfl, rfl⟩
  · split
    · unfold finishOrder; split
      · exact ⟨fun _ _ => rfl, rfl⟩
      · exact ⟨fun k h => noticeBoth_other l (.orderDone n) _ k h, noticeBoth_result _ _ _⟩
    · exact ⟨fun _ _ => rfl, rfl⟩

/-! ### The transfer of one reference -/

theorem transferRef_moves (ref : FilingRef) (rest : List FilingRef) (s : State) : Moves filingParts s (transferRef ref rest s) := by
  unfold transferRef
  split
  · split
    · exact Moves.refl _ _
    · refine Moves.trans ?_ ((testRemoval_moves _ _).mono (by decide))
      refine Moves.trans ?_ ((settleOrder_moves _ _).mono (by decide))
      refine Moves.trans ?_ ((noticeBoth_moves _ _).mono (by decide))
      refine Moves.trans ?_ ((modDest_moves _ _ _ _).mono (by decide))
      intro p hp; cases p <;> first | rfl | exact absurd (by decide) hp
  · exact Moves.refl _ _

/-- The transfer of a reference into a log with room as R23, R24, R143, R145 and R146 describe it. -/
theorem transferRef_filed (ref : FilingRef) (rest : List FilingRef) (s : State) (hl : s.log.length < 32) :
    HeadFiled ref rest s (transferRef ref rest s) := by
  refine ⟨transferRef_moves _ _ _, fun k => ?_, fun o d oc ho hd hoc h1 h2 => ?_⟩
  · unfold transferRef; split
    · split
      · rfl
      · show ((settleOrder _ _).links.get k).result = _
        rw [(settleOrder_links _ _ k).2]
        exact noticeBoth_result _ _ k
    · rfl
  have first : FirstFree 65535 s.nextFiling (s.log.map Receipt.filing) (filingNumber s) := by
    have := freeNumber_free 65535 (s.log.map Receipt.filing) s.nextFiling h1 h2 (by rw [List.length_map]; omega)
    rw [List.length_map] at this; exact this
  generalize hnum : filingNumber s = number at first
  let filed := { o with dests := o.dests.modify ref.dest (fun d => { d with filed := true }) }
  let s1 : State := { s with filing := rest, log := s.log ++ [makeRecord s number ref o d oc], nextFiling := numberAfter 65535 number }
  let s3 := noticeBoth (.receiptFiled number ref.order ref.dest oc) (modDest ref.order ref.dest (fun d => { d with filed := true }) s1)
  have hset := settleOrder_moves ref.order s3
  have e : transferRef ref rest s = testRecord number (settleOrder ref.order s3) := by
    unfold transferRef; simp only [ho, findDest, hd, hoc, hnum]; rfl
  have find : findOrder s3 ref.order = some filed := by
    show findOrder (modDest _ _ _ s1) _ = _
    rw [findOrder_modDest, if_pos rfl]
    show (findOrder s _).map _ = _
    rw [ho]; rfl
  have filedFinal : (∀ x ∈ o.dests, x.state = .final) ↔ ∀ x ∈ filed.dests, x.state = .final := by
    have hm : filed.dests.map Destination.state = o.dests.map Destination.state := by
      apply List.ext_getElem?
      intro i
      simp only [filed, List.getElem?_map, List.getElem?_modify]
      cases o.dests[i]? <;> simp
      split <;> rfl
    have all : ∀ ds : List Destination, (∀ x ∈ ds, x.state = .final) ↔ ∀ y ∈ ds.map Destination.state, y = .final := by simp
    rw [all, all, hm]
  rw [e]
  refine ⟨makeRecord s number ref o d oc, hset .filing (by decide), ?_, first, hset .nextFiling (by decide), findOrder_number ho, rfl, rfl,
    rfl, rfl, rfl, rfl, rfl, rfl, rfl, rfl, rfl, rfl, rfl, rfl, rfl, fun e he => by simp [makeRecord, filedName, validEntry, he],
    fun he => ?_, fun k => by cases k <;> rfl, rfl, rfl, fun l => ?_, fun x hx => ?_, fun h => ?_, fun h1 h2 => ⟨fun hr => ?_, fun hr => ?_⟩,
    fun n hn => ?_⟩
  · have e1 : (settleOrder ref.order s3).log = s.log ++ [makeRecord s number ref o d oc] := hset .log (by decide)
    have e2 : (settleOrder ref.order s3).pins = s.pins := hset .pins (by decide)
    show (settleOrder ref.order s3).log.filter _ = _
    rw [e1, List.filter_append, List.filter_eq_self.mpr fun r hr => ?_]
    · simp only [removable, releasedBy, e2, slipDone, makeRecord, PerLink.get]
      cases hp : s.pins.presence.desk <;> cases hq : s.pins.presence.dispatch <;> by_cases hr : s.printer.state = .disabled <;>
        simp [hr]
    · obtain ⟨j, -, hn, -⟩ := first
      have : r.filing ≠ number := fun h => hn (h ▸ List.mem_map_of_mem hr)
      simp [this]
  · simp only [makeRecord, filedName, validEntry]
  · show ((settleOrder ref.order s3).links.get l).notices.get .receiptFiled = _
    rw [(settleOrder_links _ _ l).1 _ (by decide)]
    exact noticeBoth_noticed (.receiptFiled number ref.order ref.dest oc) _ l
  · exact settleOrder_dests find x hx
  · show findOrder (settleOrder ref.order s3) _ = _
    rw [settleOrder_keeps find (h.imp (fun h => ?_) id)]
    · exact find
    · refine Classical.byContradiction fun hc => ?_
      obtain ⟨x, hx, hxs⟩ := h
      exact hxs (filedFinal.mpr (fun y hy => Classical.byContradiction fun hy' => hc ⟨y, hy, hy'⟩) x hx)
  · show findOrder (settleOrder ref.order s3) _ = _
    rw [settleOrder_finishes find (filedFinal.mp h1) h2]
    exact (finishOrder_finished _ _ _ find).1 hr
  · show findOrder (settleOrder ref.order s3) _ = none ∧ NoticedToBoth _ (settleOrder ref.order s3) ∧ (settleOrder ref.order s3).selectDue = _
    rw [settleOrder_finishes find (filedFinal.mp h1) h2]
    obtain ⟨a, b⟩ := (finishOrder_finished _ _ _ find).2 hr
    refine ⟨a, b, ?_⟩
    have hr' : ¬ (s3.filing.any fun r => r.order == ref.order) = true := by
      show ¬ (rest.any fun r => r.order == ref.order) = true
      simpa using hr
    unfold finishOrder
    rw [if_neg hr']
    rfl
  · show findOrder (settleOrder ref.order s3) n = _
    rw [settleOrder_find_ne _ hn]
    show findOrder (modDest _ _ _ s1) n = _
    rw [findOrder_modDest, if_neg hn]
    rfl

/-! ### The references that a freed place lets through -/

theorem fileRefs_moves : ∀ (refs : List FilingRef) (s : State), Moves filingParts s (fileRefs refs s)
  | [], s => Moves.refl _ _
  | ref :: rest, s => by
    unfold fileRefs; split
    · exact (transferRef_moves ref rest s).trans (fileRefs_moves rest _)
    · exact Moves.refl _ _

/-- References are filed one by one, oldest first (R23). -/
theorem fileRefs_filed : ∀ (refs : List FilingRef) (s : State), RefsFiled refs s (fileRefs refs s)
  | [], _ => rfl
  | ref :: rest, s => by
    unfold fileRefs
    refine ⟨fun h => if_neg (by simp only [logPlaces]; omega), fun h => ?_⟩
    rw [if_pos (by simpa only [logPlaces] using h)]
    exact ⟨_, transferRef_filed ref rest s h, fileRefs_filed rest _⟩

/-- The end of a step in which records may have left the log (R146, R148). -/
theorem letThrough_spec (places : Nat) (s : State) : LetThrough places s (letThrough places s) := by
  refine ⟨fun h => if_neg fun k => ?_, fun h1 h2 => ⟨_, fileRefs_filed _ _, if_pos ⟨h1, h2⟩⟩⟩
  rcases h with h | h
  · exact absurd k.1 (by omega)
  · exact k.2 h

/-- A step in which no record has left the log ends as it stands. -/
theorem letThrough_full {places : Nat} {s : State} (h : places ≤ s.log.length) : letThrough places s = s :=
  (letThrough_spec places s).1 (.inl h)

end Sys2Proof.Machine
end

