-- ==== Sys2Proof/Laws/Forward.lean ====
section
/-! SUPPORT. The runs of frames and characters: what the bytes of a run add up to, when a run ends, what the two operations that
begin and shorten a run do to a channel, and what the end of a resend does to the line store. -/

namespace Sys2Proof.Machine

@[simp] theorem bytesOnLine_nil : bytesOnLine [] = 0 := rfl

@[simp] theorem bytesOnLine_cons (f : ForwardFrame) (fs : List ForwardFrame) :
    bytesOnLine (f :: fs) = (frameBytes f).length + bytesOnLine fs := by simp [bytesOnLine]

@[simp] theorem bytesOnLine_append (fs gs : List ForwardFrame) : bytesOnLine (fs ++ gs) = bytesOnLine fs + bytesOnLine gs := by
  simp [bytesOnLine]

theorem lineTime_mono (r : LineRate) {a b : Nat} (h : a ≤ b) : lineTime r a ≤ lineTime r b := by
  unfold lineTime; exact Nat.div_le_div_right (by omega)

/-- More frames behind the same ones end no earlier. -/
theorem framesEnd_append_le (ch : Channel) (fs gs : List ForwardFrame) : framesEnd ch fs ≤ framesEnd ch (fs ++ gs) := by
  unfold framesEnd
  rw [bytesOnLine_append]
  exact Nat.add_le_add_left (lineTime_mono _ (by omega)) _

/-- The channel that begins some frames: a fresh run of them, and all else as it was (R104, R123). -/
theorem sendFrames_get (c : Chan) (fs : List ForwardFrame) (s : State) : (sendFrames c fs s).channels.get c =
    { s.channels.get c with onLine := fs.head?, owed := fs.tail, runStart := s.now, runBytes := 0 } := modChan_get _ _ _

/-- The channel after some frames have left the line: the run goes on with their bytes counted (R120). -/
theorem framesGone_get (c : Chan) (gone left : List ForwardFrame) (s : State) : (framesGone c gone left s).channels.get c =
    { s.channels.get c with onLine := left.head?, owed := left.tail,
                            runBytes := (s.channels.get c).runBytes + bytesOnLine gone } := modChan_get _ _ _

/-- Frames that follow in the same run end where they would have ended behind those that have gone (R120). -/
theorem framesEnd_framesGone (c : Chan) (gone left fs : List ForwardFrame) (s : State) :
    framesEnd ((framesGone c gone left s).channels.get c) fs = framesEnd (s.channels.get c) (gone ++ fs) := by
  rw [framesGone_get]
  simp only [framesEnd, bytesOnLine_append, Nat.add_assoc]
  rfl

/-- The end of a resend touches the line store alone, and there the mark of the resent line (R90). -/
theorem endResend_moves (c : Chan) (l : Nat) (s : State) : Moves [.lineStore] s (endResend c l s) := by
  unfold endResend
  split
  · intro p hp; cases p <;> first | rfl | exact absurd (by decide) hp
  · exact Moves.refl _ _

theorem endResend_lineStore (c : Chan) (l : Nat) (s : State) : (endResend c l s).lineStore =
    if l + retakeDepth s.lineStore < (s.channels.get c).sendPosition then releaseMark c l s.lineStore else s.lineStore := by
  unfold endResend
  split <;> rfl

theorem charactersTime_mono (r : PrintRate) {a b : Nat} (h : a ≤ b) : charactersTime r a ≤ charactersTime r b := by
  unfold charactersTime; exact Nat.div_le_div_right (by omega)

end Sys2Proof.Machine
end

