-- ==== Sys2Proof/Tests/Slice0.lean ====
section
/-! SUPPORT. The model's own tests: the smoke test of WellFormed, the worked figures of spec/, at most two small steps for a
command, and for every statement with hypotheses a witness that meets them. The expected values come from the rules and worked
figures that the comments name. -/

namespace Sys2Proof.Tests

-- One theorem after another: each elaboration thread reserves its own stack, and a hundred of them exceed the memory limit.
set_option Elab.async false

open Sys2Proof.Machine

/-! ### Small states -/

/-- Directory entry 0 of the tests: DIALLED, 60 LPM, 9600 bit/s, segments of 256, one retry. -/
def entryA : Entry :=
  { code := 0x1234#16, mask := 0xFF00#16, name := [0x41#8], kind := .dialled, digits := [5, 7], lpm := .l60, rate := .r9600,
    segment := .g256, iocLow := 100, iocHigh := 2000, retries := 1 }

/-- A new store with entry 0 VALID. -/
def storeA : Store := { newStore with entries := newStore.entries.set 0 (freshItem entryContentBytes (some entryA)) }

def callA : Call := { order := 1, dest := 0, entryIndex := 0, entry := entryA, config := .dialled, bureau := 0#16 }

def destA (st : DestState) (ch : Option Chan) : Destination :=
  { entry := 0, state := st, attempts := 0, retryTimer := none, outcome := none, exhausted := false, channel := ch,
    filed := false, station := none, startTime := none, endTime := none, sent := 0, resent := 0, skipped := 0,
    report := none }

def orderA (st : OrderState) (d : Destination) : Order :=
  { number := 1, origin := .desk, sequence := 1, priority := .routine, tag := 7, resolution := 50, length := 100,
    ioc := 300, samples := 942, lines := 50, curve := 0, caption := [], state := st, dests := [d], attempted := false }

/-- Channel 1 in a state of a call. -/
def chanA (st : ChanState) : Channel := { Channel.initial with state := st, call := some callA, stateTimer := some 0 }

/-- Order 1 with one destination on entry 0, and channel 1 as given. -/
def world (st : OrderState) (d : Destination) (ch : Channel) : State :=
  { State.reset with
    store := storeA, book := { orders := [orderA st d], nextNumber := 2, sequence := 2 },
    channels := { PerChan.all Channel.initial with c1 := ch } }

/-- A round of order 1 with channel 1 its member, its print mounted. -/
def roundWorld (rs : RoundState) (hs : HeadState) (ch : Channel) : State :=
  { world .onDrum (destA .sending (some .c1)) ch with
    mount := .mounted 7, head := { State.reset.head with state := hs },
    round := { state := rs, order := some 1, drumClass := some .l60,
               members := { PerChan.all none with c1 := some 0 }, scanComplete := false, samples := 942 } }

/-- The scan converter with some readings gathered. -/
def gathered (readings : List Nat) : Converter :=
  { State.reset.converter with gathering := some { pulse := 0, target := 1000000, readings := readings } }

/-- A drum in a state, with its last pulse at 0. -/
def drumA (st : DrumState) : Drum :=
  { State.reset.drum with state := st, target := some .l60, drive := 512, lastPulse := some 0, lockTimer := some 0,
                          coastTimer := some 0, idleTimer := some 0 }

/-- A receipt record of filing number 9. -/
def receiptA (st : SlipState) : Receipt :=
  { filing := 9, order := 1, tag := 7, priority := .routine, entry := 0, name := [0x41#8], station := some 0x1234#16,
    channel := some .c1, outcome := .delivered, attempts := 1, exhausted := false, startTime := none, endTime := none,
    sent := 50, resent := 0, skipped := 0, report := none, caption := [], released := { desk := false, dispatch := false },
    slip := st, reprint := false }

/-- The arguments of a WRITE DIRECTORY of a DIALLED entry with one digit. -/
def argsA : EntryArgs :=
  { code := 0#16, mask := 0#16, nameCount := 0#8, name := List.replicate 16 0x20#8, kind := 0#8, digitCount := 1#8,
    digits := List.replicate 20 0#8, lpm := 60#8, rate := 0#8, segment := 0#8, iocLow := 100#16, iocHigh := 100#16,
    retries := 0#8 }

/-- The arguments of a WRITE SETTINGS with the default values (R164). -/
def settingsA : SettingsArgs :=
  { diameter := 600#16, depth := 4#8, retryDelay := 120#16, bureau := 0#16, printer := 1#8, rate := 0#8,
    channels := PerChan.all 0xFF#8 }

/-- The state after one command. -/
def after (i : Instr) (s : State) : State :=
  match exec i s with
  | .next t => t
  | _ => s

/-- The result code and value of a link. -/
def resultOf (l : Link) (s : State) : ResultCode × Nat := ((s.links.get l).result.code, (s.links.get l).result.value)

/-! ### WellFormed: an ill-formed command for each check, refused -/

theorem test_wf_unknown_listed_code : (Instr.unknownCommand .desk 0x11#8).wf = false := by decide
theorem test_wf_frame_error_of_a_right_length : (Instr.frameError .desk [0x14#8, 0x00#8, 0x01#8] 0).wf = false := by decide
theorem test_wf_frame_error_partial_bits : (Instr.frameError .desk [] 8).wf = false := by decide
theorem test_wf_frame_error_no_bits : (Instr.frameError .desk [] 0).wf = false := by decide
theorem test_wf_submit_too_long :
    (Instr.submitOrder .desk 0#8 1#24 100#8 100#16 0#8 (List.replicate 256 0#8)).wf = false := by decide +kernel
theorem test_wf_caption_too_long : (Instr.addCaption .desk 1#16 (List.replicate 49 0x41#8)).wf = false := by decide
theorem test_wf_directory_name_width : (Instr.writeDirectory .desk 0#8 { argsA with name := [] }).wf = false := by decide
theorem test_wf_directory_digits_width : (Instr.writeDirectory .desk 0#8 { argsA with digits := [] }).wf = false := by decide
theorem test_wf_curve_sixteen_points : (Instr.writeCurve .desk 0#8 (List.replicate 16 0#8)).wf = false := by decide
theorem test_wf_retry_order_zero : (Instr.retryDelayExpiry 0 0).wf = false := by decide
theorem test_wf_retry_order_beyond : (Instr.retryDelayExpiry 10000 0).wf = false := by decide
theorem test_wf_retry_dest_beyond : (Instr.retryDelayExpiry 1 12).wf = false := by decide
theorem test_wf_accepts_a_short_read : (Instr.frameError .desk [0x44#8, 0x00#8] 0).wf = true := by decide

/-! ### Worked figures of spec/ -/

/-- R121, Worked figure: the check computation. -/
theorem test_check_of_nine_digits :
    checkCode [0x31#8, 0x32#8, 0x33#8, 0x34#8, 0x35#8, 0x36#8, 0x37#8, 0x38#8, 0x39#8] = 0x29B1#16 := by decide +kernel
theorem test_check_first_bit : checkBit 0xFFFF#16 false = 0xEFDF#16 ∧ checkBit 0xFFFF#16 true = 0xFFFE#16 := by decide
/-- 1.2, Worked figures: geometry and fit. -/
theorem test_geometry : iocOf 600 100 = 600 ∧ samplesOf 600 100 = 1884 ∧ linesOf 1000 100 = 1000 ∧ samplesOf 600 200 = 3769 := by
  decide
theorem test_fit_by_rate_and_class :
    fits 1884 { entryA with segment := .g512, rate := .r19200 } = true ∧
      fits 1884 { entryA with segment := .g512 } = false ∧
      fits 1884 { entryA with segment := .g512, lpm := .l30 } = true ∧
      fits 1884 { entryA with segment := .g128, rate := .r14400, lpm := .l45 } = true ∧
      fits 1884 { entryA with segment := .g128, rate := .r14400 } = false := by decide
/-- 4.1, Reading instants at 60 LPM. -/
theorem test_reading_instants :
    (([0, 1, 2, 15, 31].map (readingInstant 1000000 942)) = [976, 2929, 4882, 30273, 61523]) ∧
      ([32, 502, 973].map (readingInstant 1000000 942)) = [62981, 515143, 968268] := by decide
/-- The working curve of 4.4's worked figures. -/
def curveB : Curve := #v[0, 10, 22, 36, 52, 68, 85, 102, 120, 138, 156, 173, 190, 206, 222, 240, 255]
theorem test_levels_of_the_first_revolution :
    ([250, 301, 1000, 1900, 2000, 3000, 3499, 3600].map fun s => levelOf curveB (normalise { white := 3500, black := 300 } s)) =
      [0, 0, 44, 120, 129, 214, 255, 255] := by decide
theorem test_second_reference_pair :
    foldReference (some { white := 3500, black := 300 }) { white := 3460, black := 300, valid := true } =
      { white := 3490, black := 300 } := by decide
/-- R51 and 3.2, Worked sequence: coming up to 60 LPM. -/
theorem test_drive_corrections :
    [correctedDrive 512 1420000 1000000, correctedDrive 584 1004100 1000000, correctedDrive 600 999300 1000000,
      correctedDrive 598 1000450 1000000, correctedDrive 599 1001200 1000000, correctedDrive 603 1004500 1000000] =
      [536, 600, 598, 599, 603, 620] := by decide
theorem test_tolerances_at_60 :
    (withinTight 1000976 1000000, withinTight 999023 1000000, withinLoose 1003906 1000000, withinLoose 996093 1000000) =
      (true, false, true, false) := by decide
/-- 7.2, Worked figures: segments and period time. -/
theorem test_segment_counts :
    (([128, 256, 512].map fun g => (lineSegments g false 0 (List.replicate 942 0)).length) = [8, 4, 2]) := by decide +kernel
theorem test_line_bits :
    (((lineSegments 256 false 0 (List.replicate 942 0)).map fun f => (frameBody f).length + 2).sum = 982) := by decide +kernel
theorem test_fill_frame : frameBody (.fill 0x0123) = [0x05#8, 0x01#8, 0x23#8] := by decide
/-- R7, R120: a line of the whole budget of 9,600 bits at 9,600 bit/s and 60 LPM takes its period and no more. -/
theorem test_a_line_of_the_budget_takes_one_period :
    lineTime .r9600 (bytesOnLine (lineSegments 256 false 0 (List.replicate 1150 0))) = LpmClass.l60.period := by decide +kernel
/-- R120: the bits of a FILL frame's kind byte, 0x05, leave most significant first, 104 µs each at 9600 bit/s. -/
theorem test_forward_output_bits :
    ((List.range 8).map fun i => forwardOutput
      { world .onDrum (destA .sending (some .c1)) { chanA .picture with onLine := some (.fill 3) } with now := 105 * i } .c1) =
      [some false, some false, some false, some false, some false, some true, some false, some true] := by decide +kernel
/-- R155: the character 'A', 0x41, with its start bit, seven bits least significant first, even parity and stop bits; high with no
slip. -/
theorem test_printer_line_levels :
    ((List.range 11).map fun i => printerLine
      { State.reset with now := 834 * i, printer := { State.reset.printer with
        state := .printing, slip := some { filing := 9, text := [0x41#8], rate := .b1200 } } }) =
      [false, true, false, false, false, false, false, true, false, true, true] ∧ printerLine State.reset = true := by decide +kernel
/-- R185: a HOLD frame on the line between two idles is one row; a byte alone is a framing failure. -/
theorem test_back_channel_levels :
    backLineRows .c1 ((withCheck [0x84#8, 0x12#8, 0xFF#8]).flatMap backByteLevels ++ List.replicate 10 true ++
      backByteLevels 0x84#8 ++ List.replicate 12 true) = [.hold .c1 0x12FF#16, .framingFailure .c1] := by decide +kernel
/-- Channel 1 in a call whose station is not identified, its back channel idle; and the levels of the STATION frame 0x12FF. -/
def listening : State := roundWorld .assembling .home { chanA .announce with reception := Reception.ready }
def stationLevels : List Bool := (withCheck [0x81#8, 0x12#8, 0xFF#8]).flatMap backByteLevels
/-- The state after some levels of the back channel of channel 1. -/
def heard (levels : List Bool) (s : State) : State :=
  match backLevels .c1 levels s with
  | .next t => t
  | _ => s
def stateOf (s : State) : ChanState := (s.channels.get .c1).state
/-- The next call of channel 1, in ANNOUNCE. -/
def recalled (s : State) : State := modChan .c1 (fun ch => { ch with state := .announce, call := some callA }) s
/-- R112: the STATION frame is received with its last bit; in a channel that is IDLE it has no effect. -/
theorem test_back_channel_frame_is_received :
    stateOf (heard stationLevels listening) = .caption ∧ stateOf (heard (stationLevels.take 49) listening) = .announce ∧
      stateOf (heard stationLevels (world .waiting (destA .ready none) (chanA .idle))) = .idle := by decide +kernel
/-- R112: a frame whose last byte has not arrived when the call ends is discarded; the next call does not take it, and takes the next
frame after ten bit times of idle. -/
theorem test_back_channel_frame_cut_by_the_end_of_the_call :
    (let u := heard (stationLevels.drop 35) (recalled (after (.lineReset .desk 1#8) (heard (stationLevels.take 35) listening)));
      (stateOf u, stateOf (heard (List.replicate 10 true ++ stationLevels) u)) = (.announce, .caption)) := by decide +kernel
/-- R68: 3500 is 1101 1010 1100, most significant bit first; eleven bits are no reading. -/
theorem test_photocell_transfer :
    photocellTransfer 3500#12 = .select false ::
      ([true, true, false, true, true, false, true, false, true, true, false, false].map .clock ++ [.select true]) ∧
    photocellRow (.select false :: (List.replicate 11 (.clock true) ++ [.select true])) = none := by decide
/-- R175, R176: READ RESULT, 0100 0000, is executed with its eighth bit; the next bit moves its answer on and the rise ends it. Four bits
of HALT ROUND and a rise are a FRAME ERROR; a rise with no bit changes nothing but the assembly. -/
def linesAfter (events : List LinkEvent) : State :=
  match linkEvents .desk events State.reset with
  | .next t => t
  | _ => State.reset
theorem test_link_lines :
    (let bits := [false, true, false, false, false, false, false, false].map LinkEvent.clock;
      ((linesAfter (.selectFall :: bits)).links.get .desk).assembly = .receiving [0x40#8] [] (some (List.replicate 6 0#8)) 0 ∧
      ((linesAfter (.selectFall :: (bits ++ [.clock true]))).links.get .desk).assembly =
        .receiving [0x40#8] [true] (some (List.replicate 6 0#8)) 1 ∧
      ((linesAfter (.selectFall :: (bits ++ [.clock true, .selectRise]))).links.get .desk).assembly = .idle) ∧
    resultOf .desk (linesAfter (.selectFall :: ([false, false, false, true].map .clock ++ [.selectRise]))) = (.frameError, 0) ∧
    linesAfter [.selectFall, .selectRise] = State.reset := by decide +kernel
/-- R176: the answer 0xA5 leaves data out most significant bit first, and zeros follow it. -/
theorem test_data_out_bits :
    ((List.range 9).map fun p => dataOutBit (.receiving [0x40#8] [] (some [0xA5#8]) p)) =
      [true, false, true, false, false, true, false, true, false] := by decide
/-- R69, R26: a DRAINING round whose order has left the book still has its S. -/
theorem test_samples_outlive_the_order :
    roundSamples { roundWorld .draining .returning Channel.initial with book := { orders := [], nextNumber := 2, sequence := 2 } } =
      942 := by decide +kernel
/-- R102: a digit sounds for 80 ms from 2.0 s on. -/
theorem test_dialling_instants : (toneEnd 0, silenceEnd 0, toneEnd 1) = (2080000, 2160000, 2240000) := by decide

/-! ### One step of each command -/

/-- R172: a reset keeps no order and leaves the queue alone. -/
theorem test_reset_empties_the_book :
    (after .reset (world .waiting (destA .ready none) (chanA .idle))).book = { orders := [], nextNumber := 1, sequence := 1 } := by
  decide +kernel
/-- R57: with the home switch open the head drives home from reset. -/
theorem test_reset_drives_the_head_home :
    (after .reset { State.reset with pins := { State.reset.pins with home := false } }).head.state = .returning := by
  decide +kernel
theorem test_select_fall_empties_the_assembly :
    ((after (.linkSelectFall .desk) State.reset).links.get .desk).assembly = .receiving [] [] none 0 := by decide +kernel
theorem test_unknown_command_result :
    resultOf .desk (after (.unknownCommand .desk 0x7F#8) State.reset) = (.unknownCommand, 0x7F) := by decide +kernel
theorem test_frame_error_counts_the_bytes :
    resultOf .dispatch (after (.frameError .dispatch [0x44#8, 0x00#8] 0) State.reset) = (.frameError, 2) := by decide +kernel
/-- R7 to R9: at R = 50 the line has 942 samples, 7,856 bits in segments of 256, within the budget of 9,600 (7.2). -/
theorem test_submit_admits :
    resultOf .desk (after (.submitOrder .desk 0#8 7#24 50#8 100#16 0#8 [0#8]) { State.reset with store := storeA }) =
      (.accepted, 1) := by decide +kernel
theorem test_submit_incompatible_names_the_position :
    resultOf .desk (after (.submitOrder .desk 0#8 7#24 100#8 1000#16 0#8 [0#8]) { State.reset with store := storeA }) =
      (.incompatible, 0) := by decide +kernel
theorem test_caption_replaces_a_control_code :
    ((after (.addCaption .desk 1#16 [0x41#8, 0x0A#8]) (world .waiting (destA .ready none) (chanA .idle))).book.orders.map
      Order.caption) = [[0x41#8, 0x20#8]] := by decide +kernel
theorem test_caption_other_link :
    resultOf .dispatch (after (.addCaption .dispatch 1#16 []) (world .waiting (destA .ready none) (chanA .idle))) =
      (.otherLink, 0) := by decide +kernel
theorem test_amend_busy :
    resultOf .desk (after (.amendPriority .desk 1#16 0#8) (world .filing (destA .final none) (chanA .idle))) = (.busy, 0) := by
  decide +kernel
/-- R13, R24: an order whose destinations were never tried leaves the book at once. -/
theorem test_withdraw_untried_order_leaves :
    (after (.withdrawOrder .desk 1#16) (world .waiting (destA .ready none) (chanA .idle))).book.orders = [] := by
  decide +kernel
theorem test_mount_confirm_wrong_tag :
    resultOf .desk (after (.mountConfirm .desk 8#24)
      { world .mountRequested (destA .ready none) (chanA .idle) with mount := .requested 7 }) = (.wrongTag, 0) := by decide +kernel
theorem test_halt_round_releases_the_member :
    ((after (.haltRound .desk) (roundWorld .assembling .home (chanA .announce))).channels.get .c1).ending = some .released := by
  decide +kernel
theorem test_line_out_defers_in_a_call :
    ((after (.lineOut .desk 1#8) (roundWorld .assembling .home (chanA .announce))).channels.get .c1).state = .announce := by
  decide +kernel
theorem test_line_in_from_out :
    ((after (.lineIn .desk 2#8)
      { State.reset with channels := { PerChan.all Channel.initial with c2 := { Channel.initial with state := .out } } }).channels.get
      .c2).state = .idle := by decide +kernel
theorem test_line_reset_of_channel_five : resultOf .desk (after (.lineReset .desk 5#8) State.reset) = (.noSuchChannel, 0) := by
  decide +kernel
theorem test_mark_fault_code :
    ((after (.markFaultCode .desk 4#8) State.reset).channels.get .c4).fault = .mark := by decide +kernel
theorem test_release_receipt_keeps_an_unprinted_record :
    ((after (.releaseReceipt .desk 9#16) { State.reset with log := [receiptA .pending] }).log.map Receipt.released) =
      [{ desk := true, dispatch := false }] := by decide +kernel
/-- A world with a reference waiting behind a log of `log`. -/
def waitingWorld (log : List Receipt) : State :=
  { world .filing { destA .final none with outcome := some .delivered } (chanA .idle) with
    log := log, filing := [{ order := 1, dest := 0, channel := some .c1 }] }
/-- The record 9, printed and released by one link, at the head of a full log. -/
def fullLog (by' : Link) : List Receipt :=
  { receiptA .printed with released := ({ desk := false, dispatch := false } : PerLink Bool).set by' true } ::
    (List.range 31).map fun i => { receiptA .pending with filing := 100 + i }
/-- R146, R23: the record leaves a full log, and the waiting reference is transferred in the same step. -/
theorem test_release_receipt_lets_the_reference_through :
    (let t := after (.releaseReceipt .desk 9#16) (waitingWorld (fullLog .dispatch));
      (t.log.map Receipt.filing, t.filing, t.book.orders)) = ((List.range 31).map (100 + ·) ++ [1], [], []) := by decide +kernel
theorem test_reprint_of_a_pending_record :
    resultOf .desk (after (.reprintSlip .desk 9#16) { State.reset with log := [receiptA .pending] }) = (.notPrinted, 0) := by
  decide +kernel
theorem test_ack_of_kind_zero : resultOf .desk (after (.ackNotice .desk 0#8) State.reset) = (.badField, 0) := by decide +kernel
/-- R179: a present kind asserts attention the moment it is unmasked. -/
theorem test_unmasking_asserts_attention :
    ((after (.setNoticeMask .desk 0x20#8)
      (after (.setNoticeMask .desk 0x00#8) (noticeBoth (.orderDone 1) State.reset))).links.get .desk).attention = true := by
  decide +kernel
theorem test_set_clock_day_end :
    (after (.setClock .desk 1439#16 65535#16) State.reset).clock = some { minute := 1439, day := 65535, second := 0, since := 0 } := by
  decide +kernel
theorem test_clock_carries_over_the_last_day :
    (after .clockSecond { State.reset with clock := some { minute := 1439, day := 65535, second := 59, since := 5 } }).clock =
      some { minute := 0, day := 0, second := 0, since := 1000005 } := by decide +kernel
/-- R168: a LEASED entry with digits. -/
theorem test_write_directory_leased_with_digits :
    resultOf .desk (after (.writeDirectory .desk 0#8 { argsA with kind := 1#8 }) State.reset) = (.badField, 0) := by decide +kernel
theorem test_erase_referenced_entry :
    resultOf .desk (after (.eraseDirectory .desk 0#8) (world .waiting (destA .ready none) (chanA .idle))) = (.referenced, 0) := by
  decide +kernel
theorem test_write_curve_that_falls :
    resultOf .desk (after (.writeCurve .desk 3#8 (1#8 :: List.replicate 16 0#8)) State.reset) = (.badCurve, 0) := by
  decide +kernel
theorem test_write_settings_leases_one_entry_twice :
    resultOf .desk (after (.writeSettings .desk { settingsA with channels := { PerChan.all 3#8 with c2 := 0xFF#8, c4 := 0xFF#8 } })
      State.reset) = (.badField, 0) := by decide +kernel
theorem test_write_settings_result : resultOf .desk (after (.writeSettings .desk settingsA) State.reset) = (.ok, 0x200) := by
  decide +kernel
theorem test_set_lock_result : resultOf .desk (after (.setLock .desk) State.reset) = (.ok, 0x300) := by decide +kernel
theorem test_clear_lock_guard_low :
    resultOf .desk (after (.clearLock .desk) { State.reset with pins := { State.reset.pins with guard := false } }) =
      (.guardLow, 0) := by decide +kernel
theorem test_cycle_end_writes_the_lock :
    readLockFlag (after .storeCycleEnd (after (.setLock .desk) State.reset)).store = true := by decide +kernel
theorem test_guard_fall_in_a_cycle_does_not_lock :
    storeLocked (after .guardFall (after (.setLock .desk) State.reset)) = false := by decide +kernel
theorem test_guard_rise_unlocks : storeLocked (after .guardRise (after .guardFall State.reset)) = false := by decide +kernel
/-- R176: the read-type answers begin with the fields R184 lays out. -/
theorem test_read_result_answer :
    resultAnswer { command := 0x11#8, code := .accepted, value := 1 } = [0x11#8, 0x02#8, 0#8, 0#8, 0#8, 1#8] := by decide
theorem test_answer_lengths :
    ((statusAnswer State.reset).length, (queueAnswer State.reset).length, (destinationAnswer State.reset 1 0).length,
      (channelAnswer State.reset 1#8).length, (receiptAnswer State.reset 9).length) = (71, 129, 42, 77, 96) := by decide +kernel
theorem test_read_clock_unset : clockAnswer State.reset = List.replicate 6 0#8 := by decide +kernel
theorem test_read_takes_its_copy :
    ((after (.readClock .desk) State.reset).links.get .desk).assembly =
      .receiving [0x4C#8] [] (some (List.replicate 6 0#8)) 0 := by decide +kernel
theorem test_presence_fall_removes :
    (after (.presenceFall .dispatch)
      { State.reset with log := [{ receiptA .printed with released := { desk := true, dispatch := false } }] }).log = [] := by
  decide +kernel
/-- R148, R23: the place that the fall frees is filled in the same step. -/
theorem test_presence_fall_lets_the_reference_through :
    (let t := after (.presenceFall .dispatch) (waitingWorld (fullLog .desk));
      (t.log.map Receipt.filing, t.filing)) = ((List.range 31).map (100 + ·) ++ [1], []) := by decide +kernel
theorem test_presence_rise_keeps_the_log :
    (after (.presenceRise .desk) { State.reset with log := [receiptA .printed] }).log = [receiptA .printed] := by decide +kernel
/-- R52: the eighth revolution within the tight tolerance locks the drum. -/
theorem test_eighth_tight_revolution_locks :
    (after (.indexPulse 1000976) { State.reset with drum := { drumA .spinning with lockCount := 7 } }).drum.state = .locked := by
  decide +kernel
theorem test_second_loose_miss_loses_lock :
    (after (.indexPulse 1003907) { State.reset with drum := { drumA .locked with looseMiss := 1 } }).drum.state = .spinning := by
  decide +kernel
/-- R43, R59, R37: the eighth invalid reference, at line 0 with the home switch closed, closes the round at once; the idle timer starts. -/
theorem test_eighth_invalid_reference_closes_the_round :
    (let t := after (.indexPulse 1003906) { roundWorld .scanning .scanning (chanA .picture) with
        drum := drumA .locked, converter := { gathered (List.replicate 974 300) with invalidCount := 7 } };
      (t.round.state, t.drum.idleTimer, t.head.held, t.converter.lamp, findDest t 1 0)) =
      (.closed, some 1003906, 1, .fault, some (destA .ready none)) := by decide +kernel
theorem test_photocell_reading_is_taken :
    ((after (.photocellReading 3500#12) { roundWorld .scanning .scanning (chanA .picture) with
      converter := { State.reset.converter with
        gathering := some { pulse := 0, target := 1000000, readings := [] } } }).converter.gathering.map Gathering.readings) =
      some [3500] := by decide +kernel
theorem test_cover_open_cuts_the_drive :
    (after .coverOpen { State.reset with drum := drumA .locked }).drum.state = .coasting := by decide +kernel
theorem test_cover_open_in_a_round_notices :
    ((after .coverOpen (roundWorld .scanning .scanning (chanA .picture))).links.get .desk).notices.drumFault =
      some (.drumFault .cover (some 1)) := by decide +kernel
theorem test_cover_close : (after .coverClose State.reset).pins.cover = true := by decide +kernel
theorem test_clamp_open_ends_mounted :
    (after .clampOpen { State.reset with mount := .mounted 7 }).mount = .empty := by decide +kernel
theorem test_clamp_close : (after .clampClose State.reset).pins.clamp = true := by decide +kernel
theorem test_home_switch_completes_the_return :
    (after .homeSwitchClose { State.reset with head :=
      { position := 37, state := .returning, returnTimer := some 0, held := 0 } }).head =
      { position := 0, state := .home, returnTimer := none, held := 0 } := by decide +kernel
/-- R114: carrier going in CAPTION starts the carrier-loss timer; R103: carrier coming in AWAIT ANSWER is the answer. -/
theorem test_carrier_going_starts_the_timer :
    ((after (.carrierAbsent .c1) { world .onDrum (destA .sending (some .c1)) (chanA .caption) with
      pins := { State.reset.pins with carrier := { PerChan.all false with c1 := true } } }).channels.get .c1).carrierTimer =
      some 0 := by decide +kernel
theorem test_carrier_answers :
    ((after (.carrierPresent .c1) (world .onDrum (destA .sending (some .c1)) (chanA .awaitAnswer))).channels.get .c1).linePeriod =
      1000000 := by decide +kernel
theorem test_prrdy_ready_begins_the_character :
    (after .prrdyReady { State.reset with printer := { State.reset.printer with state := .waiting } }).printer.state = .printing := by
  decide +kernel
theorem test_paper_absent_in_ready : (after .paperAbsent State.reset).printer.state = .paperOut := by decide +kernel
theorem test_paper_present : (after .paperPresent (after .paperAbsent State.reset)).printer.state = .ready := by decide +kernel
/-- R106: the mask 0xFF00 lets the low byte differ. -/
theorem test_station_identified :
    ((after (.station .c1 0x12FF#16) (world .onDrum (destA .sending (some .c1)) (chanA .announce))).channels.get .c1).state =
      .caption := by decide +kernel
theorem test_station_wrong :
    ((after (.station .c1 0x1334#16) (roundWorld .assembling .home (chanA .announce))).channels.get .c1).ending =
      some (.outcome .wrongStation) := by decide +kernel
theorem test_phased :
    ((after (.phased .c1 0x1234#16) (roundWorld .assembling .home (chanA .phasing))).channels.get .c1).state = .phased := by
  decide +kernel
theorem test_retake_of_a_line_not_started :
    ((after (.retake .c1 0x1234#16 3#16) (world .onDrum (destA .sending (some .c1)) { chanA .picture with sendPosition := 3 })).channels.get
      .c1).fault = .badRetake := by decide +kernel
theorem test_retake_of_a_released_line_is_a_skip :
    ((after (.retake .c1 0x1234#16 2#16) (world .onDrum (destA .sending (some .c1)) { chanA .picture with sendPosition := 3 })).channels.get
      .c1).queue = [.skip 2] := by decide +kernel
theorem test_hold_keeps_its_first_start :
    ((after (.hold .c1 0x1234#16) (world .onDrum (destA .sending (some .c1)) { chanA .phased with hold := some 5 })).channels.get
      .c1).hold = some 5 := by decide +kernel
theorem test_go : ((after (.go .c1 0x1234#16)
    (world .onDrum (destA .sending (some .c1)) { chanA .phased with hold := some 5 })).channels.get .c1).hold = none := by decide +kernel
theorem test_receipt_with_gaps :
    ((after (.receipt .c1 0x1234#16 50#16 1#16 12#8 10000#16)
      { roundWorld .draining .returning (chanA .awaitReceipt) with head := { State.reset.head with state := .returning } }).book.orders.map
      fun o => o.dests.map fun d => (d.outcome, d.report)) =
      [[(some .deliveredWithGaps, some { received := 50, unrecovered := 1, grade := 9, picture := 9999 })]] := by decide +kernel
theorem test_bad_check_at_48_notices :
    ((after (.badCheck .c1) (world .onDrum (destA .sending (some .c1)) { chanA .caption with trouble := 44 })).links.get
      .desk).notices.lineTrouble = some (.lineTrouble .c1 48 1 0) := by decide +kernel
theorem test_framing_failure_drops_at_128 :
    ((after (.framingFailure .c1) (roundWorld .assembling .home { chanA .caption with trouble := 124 })).channels.get .c1).trouble =
      128 := by decide +kernel
theorem test_frame_ignored_as_stranger :
    ((after (.frameIgnored .c1 0x0034#16 .hold) (world .onDrum (destA .sending (some .c1)) (chanA .picture))).channels.get .c1).fault =
      .stranger := by decide +kernel
theorem test_retry_delay_expiry :
    ((after (.retryDelayExpiry 1 0) { world .waiting { destA .delayed none with retryTimer := some { start := 0, length := 5 } }
      (chanA .idle) with head := { State.reset.head with state := .fault } }).book.orders.map fun o =>
        o.dests.map Destination.state) = [[.ready]] := by decide +kernel
theorem test_lock_limit_of_an_idle_drum :
    (after .lockLimit { State.reset with drum := drumA .spinning }).drum.lockTimer = none := by decide +kernel
theorem test_idle_stop : (after .idleStop { State.reset with drum := drumA .locked }).drum.state = .coasting := by decide +kernel
theorem test_coast_stop : (after .coastStop { State.reset with drum := drumA .coasting }).drum.lastPulse = none := by decide +kernel
theorem test_return_limit :
    (after .returnLimit { State.reset with head := { position := 37, state := .returning, returnTimer := some 0, held := 0 } }).head =
      { position := 37, state := .fault, returnTimer := none, held := 0 } := by decide +kernel
theorem test_dial_settle_end :
    dialTone ((after (.dialSettleEnd .c1) (world .onDrum (destA .sending (some .c1)) { chanA .dialling with dial := .settle })).channels.get
      .c1) = some 5 := by decide +kernel
theorem test_digit_tone_end :
    ((after (.digitToneEnd .c1) (world .onDrum (destA .sending (some .c1)) { chanA .dialling with dial := .tone 0 })).channels.get
      .c1).dial = .gap 0 := by decide +kernel
theorem test_digit_silence_end :
    ((after (.digitSilenceEnd .c1) (world .onDrum (destA .sending (some .c1)) { chanA .dialling with dial := .gap 1 })).channels.get
      .c1).state = .awaitAnswer := by decide +kernel
/-- R19: a retryable outcome within the allowance leaves the destination DELAYED. -/
theorem test_answer_limit_delays :
    ((after (.answerLimit .c1) (roundWorld .draining .returning (chanA .awaitAnswer))).book.orders.map fun o =>
      o.dests.map Destination.state) = [[.delayed]] := by decide +kernel
theorem test_announce_limit :
    ((after (.announceLimit .c1) (roundWorld .draining .returning (chanA .announce))).channels.get .c1).ending =
      some (.outcome .noAnswer) := by decide +kernel
theorem test_carrier_loss_limit :
    ((after (.carrierLossLimit .c1) (roundWorld .draining .returning { chanA .picture with carrierTimer := some 0 })).channels.get
      .c1).onLine = some (.abort 1) := by decide +kernel
theorem test_receipt_limit :
    ((after (.receiptLimit .c1) (roundWorld .draining .returning (chanA .awaitReceipt))).channels.get .c1).onLine = none := by
  decide +kernel
theorem test_cooldown_expiry_clears_the_trouble_count :
    ((after (.cooldownExpiry .c1) (world .waiting (destA .delayed none) { chanA .cooldown with trouble := 130 })).channels.get
      .c1).trouble = 0 := by decide +kernel
theorem test_hold_timeout :
    ((after (.holdTimeout .c1) (roundWorld .draining .returning { chanA .picture with hold := some 0 })).channels.get .c1).ending =
      some (.outcome .holdTimeout) := by decide +kernel
theorem test_period_of_announce_sends_ident :
    ((after (.linePeriodStart .c1) (world .onDrum (destA .sending (some .c1))
      { chanA .announce with lineTimer := some { start := 0, begun := 0 } })).channels.get .c1).onLine = some (.ident 0#16 1 7) := by
  decide +kernel
theorem test_period_after_the_32nd_phase_frame :
    ((after (.linePeriodStart .c1) (roundWorld .draining .returning
      { chanA .phasing with lineTimer := some { start := 0, begun := 0 }, phaseCount := 32 })).channels.get .c1).ending =
      some (.outcome .phasingFailed) := by decide +kernel
/-- R120: at 9600 bit/s a FILL frame takes 40 bits, about 4.2 ms. -/
theorem test_forward_frame_sent :
    (after (.forwardFrameSent .c1) (world .onDrum (destA .sending (some .c1)) { chanA .picture with onLine := some (.fill 3) })).now =
      4166 := by decide +kernel
theorem test_stop_sent :
    ((after (.stopSent .c1) (world .onDrum (destA .sending (some .c1)) { chanA .stopping with onLine := some (.stop 1 50) })).channels.get
      .c1).state = .awaitReceipt := by decide +kernel
/-- R90: the end of a resend of line 0 with D = 4 and line 4 started releases the mark. -/
theorem test_resend_end_releases :
    (after (.resendEnd .c1) { world .onDrum (destA .sending (some .c1))
      { chanA .picture with onLine := some (.line true true true 0 0 [1]), sendPosition := 5 } with
      lineStore := { held := [{ number := 0, levels := [1], marks := { PerChan.all false with c1 := true } }],
                     depth := some 4 } }).lineStore.held = [] := by decide +kernel
/-- R90, R127: the mark goes although a fresh RESEND entry for line 0 waits, and the next period sends SKIP for it. -/
theorem test_resend_end_releases_before_a_fresh_entry :
    (let s := after (.resendEnd .c1) { world .onDrum (destA .sending (some .c1))
        { chanA .picture with
          onLine := some (.line true true true 0 0 [1]), sendPosition := 5, queue := [.resend 0],
          lineTimer := some { start := 0, begun := 0 }, linePeriod := 1000000 } with
        lineStore := { held := [{ number := 0, levels := [1], marks := { PerChan.all false with c1 := true } }], depth := some 4 } };
      let ch := (after (.linePeriodStart .c1) s).channels.get .c1;
      (s.lineStore.held, (s.channels.get .c1).queue, ch.onLine, ch.queue, ch.skipped)) =
      ([], [RetakeEntry.resend 0], some (.skip 0), [], 1) := by decide +kernel
theorem test_release_complete_rests_the_line :
    ((after (.releaseComplete .c1) (world .waiting (destA .delayed none)
      { chanA .release with ending := some (.outcome .lineLost) })).channels.get .c1).state = .cooldown := by decide +kernel
/-- R159, 9.3: the example slip has 336 characters, and 353 with its REPRINT line. -/
def receiptB : Receipt :=
  { receiptA .pending with
    filing := 231, order := 41, tag := 40900, entry := 8, station := some 0x2C05#16, channel := some .c2, sent := 150, resent := 2,
    name := [0x56#8, 0x41#8, 0x4C#8, 0x4C#8, 0x45#8, 0x59#8, 0x20#8, 0x50#8, 0x4F#8, 0x53#8, 0x54#8],
    endTime := some { minute := 1307, day := 412 }, report := some { received := 150, unrecovered := 0, grade := 8, picture := 512 },
    caption := List.replicate 32 0x41#8 }
theorem test_slip_lengths :
    ((slipText 0x1B40#16 receiptB).length, (slipText 0x1B40#16 { receiptB with reprint := true }).length) = (336, 353) := by
  decide +kernel
theorem test_slip_begins :
    (after (.slipBegin true) { State.reset with log := [receiptA .pending] }).log = [receiptA .printing] := by decide +kernel
/-- R155: one character takes 11 bit times, about 9.17 ms at 1200 baud. -/
theorem test_slip_character_sent :
    (after (.slipCharacterSent false) (after (.slipBegin true) { State.reset with log := [receiptA .pending] })).now = 9166 := by
  decide +kernel
/-- R157, log entry 9: paper gone and back during the last character of a slip leaves READY and no PRINTER ATTENTION. -/
theorem test_slip_complete_with_the_paper_back :
    (let t := after (.slipCharacterSent true)
        { State.reset with
          log := [receiptA .printing],
          printer := { State.reset.printer with
            state := .printing, slip := some { filing := 9, text := [0x41#8], rate := .b1200 }, abandonDue := true } };
      (t.printer.state, t.log, t.links.desk.notices)) =
      (PrinterState.ready, [receiptA .printed], State.reset.links.desk.notices) := by decide +kernel
/-- R161, R146, R23: a PENDING record that both links have released leaves as its slip is no longer wanted, and a reference comes. -/
theorem test_cycle_end_disabling_lets_the_reference_through :
    ((after .storeCycleEnd (startCycle .desk (.settings { defaultSettings with printerEnabled := false })
      (waitingWorld [{ receiptA .pending with released := { desk := true, dispatch := true } }]))).log.map fun r =>
        (r.filing, r.slip)) = [(1, .notRequired)] := by decide +kernel
/-- R146: with no link present and no slip wanted a record leaves as it is filed, and the reference behind it follows. -/
theorem test_filing_transfer_of_records_that_leave_at_once :
    (let d := { destA .final none with outcome := some .delivered };
      let t := after .filingTransfer { State.reset with
        book := { orders := [{ orderA .filing d with dests := [d, d] }], nextNumber := 2, sequence := 2 },
        pins := { State.reset.pins with presence := { desk := false, dispatch := false } },
        printer := { State.reset.printer with state := .disabled },
        filing := [{ order := 1, dest := 0, channel := some .c1 }, { order := 1, dest := 1, channel := some .c2 }] };
      (t.log, t.filing, t.nextFiling, t.book.orders)) = ([], [], 3, []) := by decide +kernel
theorem test_filing_transfer :
    ((after .filingTransfer { world .filing { destA .final none with outcome := some .delivered } (chanA .idle) with
      filing := [{ order := 1, dest := 0, channel := some .c1 }] }).log.map fun r => (r.filing, r.name)) = [(1, [0x41#8])] := by
  decide +kernel

/-! ### Witnesses: a state and operands that meet the hypotheses of each statement, clause by clause -/

/-- The world with no call running. -/
def restWorld : State := world .waiting (destA .ready none) Channel.initial

/-- A channel with its line timer running. -/
def timed (ch : Channel) : Channel := { ch with lineTimer := some { start := 0, begun := 0 }, linePeriod := 1000000 }

/-- A world that holds lines `ns`, each marked by channel 1, with retake depth `d`. -/
def lineWorld (ch : Channel) (ns : List Nat) (d : Nat) : State :=
  { roundWorld .draining .returning ch with lineStore :=
    { held := ns.map fun n => { number := n, levels := [n], marks := { PerChan.all false with c1 := true } }, depth := some d } }

theorem entryA_valid : readEntry storeA 0 = .valid entryA := by decide +kernel

theorem witness_StepRunsTheFrontCommand :
    { State.reset with pending := [.coverOpen, .coverClose] }.pending = .coverOpen :: [.coverClose] ∧ State.reset.pending = [] :=
  ⟨rfl, rfl⟩

/-- An IDLE assembly; frames without a bit, of one byte and 7 bits, and of a read one byte short; a whole read; a copy at its first bit,
at its last, and at its end. -/
theorem witness_LinkFramesLeaveTheirResults :
    (State.reset.links.get .desk).assembly = .idle ∧ ([] : List Bool).length < 8 ∧ (List.replicate 7 true).length < 8 ∧
    (∀ code args sh n, [0x44#8, 0#8, 0#8] = code :: args → shapeOf code = some sh → sh.read = true →
      argsNeeded sh.size args = some n → args.length < n) ∧
    ((Instr.readDestination .desk 1#16 11#8).wf = true ∧
      commandFrame (.readDestination .desk 1#16 11#8) = some (.desk, 0x44#8 :: [0#8, 1#8, 11#8]) ∧
      shapeOf 0x44#8 = some { read := true, size := .fixed 3 }) ∧
    ((setAssembly .desk (.receiving [0x40#8] [] (some [0xA5#8]) 7) State.reset).links.get .desk).assembly =
      .receiving [0x40#8] [] (some [0xA5#8]) 7 ∧
    ([0xA5#8] : List Byte)[0 / 8]? = some 0xA5#8 ∧ ([0xA5#8] : List Byte)[7 / 8]? = some 0xA5#8 ∧
    8 * ([0xA5#8] : List Byte).length ≤ 8 := by
  refine ⟨by decide, by decide, by decide, ?_, by decide, by decide, by decide, by decide, by decide⟩
  intro code args sh n h1 h2 _ h4
  cases h1
  cases h2
  cases h4
  decide

/-- The store IDLE, and WRITING each kind of item at the ends of the index ranges. -/
theorem witness_ResetTestsTheStore :
    State.reset.store.cycle = none ∧
      [StoreWrite.entry 0 none, .entry 23 none, .curve 0 unityCurve, .curve 3 unityCurve, .settings defaultSettings, .lock true].all
        (fun w => (after .reset (startCycle .desk w State.reset)).store.cycle == none &&
          (startCycle .desk w State.reset).store.cycle.map StoreCycle.item == some w) = true := by decide +kernel

/-- What the reads find and do not find, at the ends of their ranges; a notice present above another kind. -/
theorem witness_ReadsCopyAndChangeNothingElse :
    (0 < [1#8, 2#8].length ∧ [1#8, 2#8].length ≤ 2) ∧ State.reset.pins.printerReady = true ∧
    ({ State.reset.pins with printerReady := false } : Pins).printerReady = false ∧
    (List.replicate 16 (orderA .waiting (destA .ready none))).length ≤ 16 ∧
    (findOrder State.reset 1 = none ∧ findOrder restWorld 1 = some (orderA .waiting (destA .ready none)) ∧
      (orderA .waiting (destA .ready none)).caption.length ≤ 240 ∧ (orderA .waiting (destA .ready none)).dests.length ≤ 12) ∧
    (findDest restWorld 1 1 = none ∧ findDest restWorld 1 0 = some (destA .ready none)) ∧
    ((0#8 : Byte).toNat = 0 ∧ 4 < (5#8 : Byte).toNat ∧ (4#8 : Byte).toNat = Chan.c4.number ∧
      (List.replicate 6 (RetakeEntry.skip 0)).length ≤ 6) ∧
    (findReceipt State.reset 9 = none ∧ findReceipt { State.reset with log := [receiptA .pending] } 9 = some (receiptA .pending) ∧
      (receiptA .pending).name.length ≤ 16 ∧ (receiptA .pending).caption.length ≤ 32) ∧
    ((∀ r ∈ State.reset.log, r.released.get .desk = true) ∧ (receiptA .pending).released.get .desk = false ∧
      [receiptA .pending] = [] ++ receiptA .pending :: []) ∧
    23 < 24 ∧ 23 ≤ 23 ∧ 3 < 4 ∧ 3 ≤ 3 ∧
    ((∀ k, (State.reset.links.get .desk).notices.get k = none) ∧
      ((noticeBoth (.orderDone 3) State.reset).links.get .desk).notices.get .orderDone = some (.orderDone 3) ∧
      ∀ j : NoticeKind, j.code < NoticeKind.orderDone.code →
        ((noticeBoth (.orderDone 3) State.reset).links.get .desk).notices.get j = none) := by
  refine ⟨by decide, by decide, by decide, by decide, by decide +kernel, by decide +kernel, by decide, by decide +kernel, ⟨?_, by decide, rfl⟩,
    by decide, by decide, by decide, by decide, ⟨?_, by decide +kernel, ?_⟩⟩
  · intro r h; cases h
  · intro k; cases k <;> rfl
  · intro j h; cases j <;> first | rfl | exact absurd h (by decide)

/-- The last byte of every list is at the end of its range; a run of two bytes 9 bit times apart, ended by an idle of 10. -/
theorem witness_EveryFrameIsReadBack :
    ((Instr.addCaption .desk 0xFFFF#16 (List.replicate 48 0x7E#8)).wf = true ∧
      ((commandFrame (.addCaption .desk 0xFFFF#16 (List.replicate 48 0x7E#8))).map fun x => x.2.length) = some 52) ∧
    (backKindOfByte 0x83#8 = some .retake ∧ [0x12#8, 0x34#8, 0xFF#8, 0xFF#8].length + 3 = backFrameSize .retake) ∧
    [0#8, 0#8] ≠ be 2 (checkCode [0x84#8, 0x12#8, 0x34#8]).toNat ∧
    (∀ r ∈ [([(0x84#8, 9), (0x12#8, 0)], 10)], r.1 ≠ [] ∧ (∀ x ∈ r.1, x.2 < 10) ∧ 10 ≤ r.2) := by decide +kernel

theorem witness_AcknowledgeAndMaskJudgeAttention :
    ((1#8 : Byte).toNat = NoticeKind.drumFault.code ∧ (7#8 : Byte).toNat = NoticeKind.storeDone.code) ∧
      ((0#8 : Byte).toNat = 0 ∧ 7 < (8#8 : Byte).toNat) ∧ (127#8 : Byte).toNat < 128 ∧ 128 ≤ (128#8 : Byte).toNat := by decide

theorem witness_ClockIsSetAndCounts :
    1439 < (1440#16 : Word).toNat ∧ (1439#16 : Word).toNat ≤ 1439 ∧ State.reset.clock = none ∧
      ({ State.reset with clock := some { minute := 1439, day := 65535, second := 59, since := 0 } } : State).clock =
        some { minute := 1439, day := 65535, second := 59, since := 0 } := by decide +kernel

/-- An empty destination list, index 24, EMPTY entry 1 and a repeated entry are refused; the list of entry 0 is not. -/
theorem listed_entryA : ListAdmitted storeA [0#8] := by
  refine ⟨by decide, by decide, by decide, fun e he => ?_⟩
  rw [List.mem_singleton.mp he]
  exact ⟨by decide, entryA, entryA_valid⟩

theorem entryA_takes : EntryTakes storeA 300 942 0#8 := ⟨entryA, entryA_valid, by decide, by decide, by decide⟩

theorem entryA_refuses : ¬ EntryTakes storeA 600 1884 0#8 := by
  rintro ⟨x, hx, -, -, h⟩
  rw [show (0#8 : Byte).toNat = 0 from rfl, entryA_valid] at hx
  cases hx
  revert h
  decide

theorem witness_SubmitAdmitsAnOrder :
    (readSettings storeA).diameter = 600 ∧ { State.reset with store := storeA }.book.orders.length < 16 ∧
      State.reset.book.sequence ≤ 4294967295 ∧ 1 ≤ State.reset.book.nextNumber ∧ State.reset.book.nextNumber ≤ 9999 ∧
      priorityOfByte 3#8 = some .deferred ∧ 1 ≤ (999999#24 : BitVec 24).toNat ∧ (999999#24 : BitVec 24).toNat ≤ 999999 ∧
      GeometryAdmitted 600 50 100 3 ∧ ListAdmitted storeA [0#8] ∧
      ∀ e ∈ [0#8], EntryTakes storeA (600 * 50 / 100) (600 * 50 * 355 / 11300) e := by
  refine ⟨by decide +kernel, by decide +kernel, by decide, by decide, by decide, by decide, by decide, by decide, ?_, listed_entryA, ?_⟩
  · unfold GeometryAdmitted; decide
  · intro e he; rw [List.mem_singleton.mp he]; exact entryA_takes

theorem witness_SubmitRefusesByTheFirstFailingCheck :
    (16 ≤ (List.replicate 16 (orderA .waiting (destA .ready none))).length ∧ 4294967295 < 4294967296) ∧
      3 < (4#8 : Byte).toNat ∧ (0#24 : BitVec 24).toNat = 0 ∧ 999999 < (1000000#24 : BitVec 24).toNat ∧
      ¬ GeometryAdmitted 600 49 100 3 ∧ ¬ GeometryAdmitted 600 50 100 4 ∧ ¬ ListAdmitted storeA [] ∧
      ListAdmitted storeA [0#8] ∧ ¬ EntryTakes storeA (600 * 100 / 100) (600 * 100 * 355 / 11300) 0#8 := by
  refine ⟨by decide, by decide, by decide, by decide, ?_, ?_, ?_, listed_entryA, entryA_refuses⟩
  · unfold GeometryAdmitted; decide
  · unfold GeometryAdmitted; decide
  · intro h; exact absurd h.1 (by decide)

theorem witness_CaptionAndPriorityAreAmended :
    (findOrder State.reset 1 = none ∧ findOrder restWorld 1 = some (orderA .waiting (destA .ready none)) ∧
      (orderA .waiting (destA .ready none)).origin ≠ .dispatch ∧ (orderA .waiting (destA .ready none)).origin = .desk ∧
      { orderA .waiting (destA .ready none) with attempted := true }.attempted = true ∧
      (List.replicate 240 0x20#8).length ≤ 240 ∧ (List.replicate 48 0x20#8).length ≤ 48) ∧
    3 < (4#8 : Byte).toNat ∧ Priority.deferred.rank = (3#8 : Byte).toNat ∧ Priority.routine.rank = (2#8 : Byte).toNat ∧
      (orderA .waiting (destA .ready none)).priority = .routine ∧
      findOrder (world .withdrawing (destA .final none) Channel.initial) 1 = some (orderA .withdrawing (destA .final none)) := by
  decide +kernel

theorem witness_WithdrawTreatsEachDestination :
    findOrder State.reset 1 = none ∧
      findOrder (world .filing (destA .final none) Channel.initial) 1 = some (orderA .filing (destA .final none)) ∧
      findOrder (world .withdrawing (destA .final none) Channel.initial) 1 = some (orderA .withdrawing (destA .final none)) ∧
      findOrder (world .waiting (destA .delayed none) Channel.initial) 1 = some (orderA .waiting (destA .delayed none)) ∧
      ((after (.withdrawOrder .desk 1#16) (world .waiting (destA .delayed none) Channel.initial)).filing.map FilingRef.order) = [1] ∧
      (after (.withdrawOrder .desk 1#16) restWorld).filing = [] := by decide +kernel

theorem witness_WithdrawActsOnTheMountAndTheRound :
    (findOrder { world .mountRequested (destA .ready none) Channel.initial with mount := .requested 7 } 1 =
      some (orderA .mountRequested (destA .ready none))) ∧
    (withdrawRefs 1 0 (orderA .mountRequested (destA .ready none)).dests = [] ∧
      withdrawRefs 1 0 [{ destA .ready none with attempts := 1 }] ≠ []) ∧
    ({ world .onDrum (destA .ready none) Channel.initial with mount := .mounted 7 }.round.state = .closed) ∧
    (let s := { roundWorld .scanning .scanning (chanA .picture) with
        pins := { State.reset.pins with home := false } };
      s.round.state = .scanning ∧ s.round.order = some 1 ∧ s.head.state = .scanning ∧ s.pins.home = false ∧
        (findOrder s 1).map Order.state = some .onDrum) ∧
    (let s := roundWorld .assembling .home (chanA .announce);
      s.round.state = .assembling ∧ s.round.order = some 1 ∧ s.mount = .mounted 7 ∧
        (findOrder s 1).map Order.state = some .onDrum) := by decide +kernel

/-- An abort that closes its round at once: in ASSEMBLING, in SCANNING with the home switch closed, in DRAINING with the head at rest; and
one that waits for the head. -/
theorem witness_ClosesAtOnce :
    ClosesAtOnce (roundWorld .assembling .home (chanA .announce)) ∧ ClosesAtOnce (roundWorld .scanning .scanning (chanA .picture)) ∧
      ClosesAtOnce (roundWorld .draining .home (chanA .picture)) ∧ ClosesAtOnce (roundWorld .draining .fault (chanA .picture)) ∧
      ¬ ClosesAtOnce { roundWorld .scanning .scanning (chanA .picture) with pins := { State.reset.pins with home := false } } ∧
      ¬ ClosesAtOnce (roundWorld .draining .returning (chanA .picture)) := by
  refine ⟨?_, ?_, ?_, ?_, ?_, ?_⟩ <;> (unfold ClosesAtOnce; decide +kernel)

theorem witness_RetryDelayExpiryMakesReady :
    (findDest (world .waiting { destA .delayed none with retryTimer := some { start := 0, length := 30000000 } } Channel.initial) 1 0 =
      some { destA .delayed none with retryTimer := some { start := 0, length := 30000000 } }) ∧
    findDest restWorld 1 0 = some (destA .ready none) ∧ (destA .ready none).state ≠ .delayed ∧ findDest restWorld 1 1 = none ∧
    (destA .delayed none).retryTimer = none := by decide +kernel

theorem witness_FilingTransferFilesTheHeadReference :
    (State.reset.filing = [] ∧ 32 ≤ (List.replicate 32 (receiptA .printed)).length) ∧
    (let s := { world .filing { destA .final none with outcome := some .delivered } Channel.initial with
        filing := [{ order := 1, dest := 0, channel := some .c1 }], nextFiling := 65535,
        log := List.replicate 31 (receiptA .printed) };
      s.log.length < 32 ∧ 1 ≤ s.nextFiling ∧ s.nextFiling ≤ 65535 ∧
        (findOrder s 1).map Order.dests = some [{ destA .final none with outcome := some .delivered }] ∧
        (∀ x ∈ [{ destA .final none with outcome := some .delivered }], x.state = .final) ∧ OrderState.filing ≠ .withdrawing) ∧
    (∃ x ∈ [destA .final none, destA .ready none], x.state ≠ .final) ∧
    (∃ x ∈ [({ order := 1, dest := 1, channel := none } : FilingRef)], x.order = 1) := by decide +kernel

/-- A head record that stays and one that leaves at once; a step that frees a place with a reference waiting, and one that frees none. -/
theorem witness_LetThrough :
    (let ref : FilingRef := { order := 1, dest := 0, channel := some .c1 };
      let s := waitingWorld [];
      let gone := { s with pins := { s.pins with presence := { desk := false, dispatch := false } },
                           printer := { s.printer with state := .disabled } };
      s.log.length < (transferRef ref [] s).log.length ∧ (transferRef ref [] gone).log.length ≤ gone.log.length) ∧
    ((waitingWorld ((fullLog .desk).drop 1)).log.length < 32 ∧ (waitingWorld ((fullLog .desk).drop 1)).filing ≠ [] ∧
      32 ≤ (waitingWorld (fullLog .desk)).log.length) := by decide +kernel

/-- A free drum with an event, a drum not free, and a choice. -/
theorem witness_SelectionFollowsTheFourSteps :
    ((roundWorld .scanning .scanning (chanA .picture)).round.state ≠ .closed ∧ State.reset.selectDue = false ∧
      ({ State.reset.head with state := .returning } : Head).state ≠ .home) ∧
    chooseOrder restWorld = some (orderA .waiting (destA .ready none)) ∧
    (∀ a ∈ restWorld.book.orders, ∀ b ∈ restWorld.book.orders, a.state = .onDrum → b.state = .onDrum → a = b) ∧
    (chooseOrder State.reset = none ∧ restWorld.round.state = .closed ∧ restWorld.head.state = .home) ∧
    (let s := { world .onDrum { destA .ready none with entry := 1 } Channel.initial with mount := .mounted 7, selectDue := true };
      let o := orderA .onDrum { destA .ready none with entry := 1 };
      chooseOrder s = some o ∧ (actOnChoice o s).2 = true ∧ (assemble 1 (actOnChoice o s).1).2 = true) ∧
    (let o := orderA .waiting (destA .ready none);
      (actOnChoice o restWorld).2 = false ∧ (actOnChoice o { restWorld with mount := .mounted 7 }).2 = true ∧
        (assemble 1 (actOnChoice o { restWorld with mount := .mounted 7 }).1).2 = false) := by
  decide +kernel

theorem witness_Candidate : Candidate (orderA .waiting (destA .ready none)) ∧ ¬ Candidate (orderA .filing (destA .final none)) :=
  ⟨⟨Or.inl rfl, _, List.mem_singleton.mpr rfl, rfl⟩, fun h => by rcases h.1 with h | h | h <;> cases h⟩

theorem witness_ChoiceIsActedOn :
    [OrderState.onDrum, .mountRequested, .waiting].all (fun st =>
      findOrder (world st (destA .ready none) Channel.initial) 1 == some (orderA st (destA .ready none))) = true ∧
    restWorld.mount ≠ .mounted (orderA .waiting (destA .ready none)).tag ∧
    { restWorld with mount := .mounted 7 }.mount = .mounted (orderA .waiting (destA .ready none)).tag := by decide +kernel

/-- Within the allowance of entry 0, at it, and a destination that is not SENDING on the channel. -/
theorem witness_OutcomeIsPlacedByTheScheduler :
    (let s := world .onDrum (destA .sending (some .c1)) (chanA .picture);
      (s.channels.get .c1).call = some callA ∧ findOrder s callA.order = some (orderA .onDrum (destA .sending (some .c1))) ∧
        (orderA .onDrum (destA .sending (some .c1))).dests[callA.dest]? = some (destA .sending (some .c1)) ∧
        retryable .lineLost = true ∧ (destA .sending (some .c1)).attempts < entryA.retries) ∧
    readEntry storeA (destA .sending (some .c1)).entry = .valid entryA ∧
    entryA.retries ≤ ({ destA .sending (some .c1) with attempts := 1 } : Destination).attempts ∧
    (destA .ready none).state ≠ .sending ∧ (destA .sending (some .c2)).channel ≠ some .c1 := by decide +kernel

/-- The walk gives channel 1 to the READY destination on entry 0; one on EMPTY entry 1 fails. -/
theorem witness_WalkAssignsEligibleChannels :
    (walkOrder restWorld (orderA .waiting (destA .ready none))).members.get .c1 = some 0 ∧
      (walkOrder restWorld (orderA .waiting { destA .ready none with entry := 1 })).failed = [0] := by decide +kernel

/-- Destinations 0 to 4, each READY on entry 0: four are given a channel and the fifth is passed over. -/
theorem witness_WalkLeavesNoEligibleDestination :
    (let o := { orderA .waiting (destA .ready none) with dests := List.replicate 5 (destA .ready none) };
      o.dests[4]? = some (destA .ready none) ∧ (∀ c : Chan, (walkOrder restWorld o).members.get c ≠ some 4) ∧
        4 ∉ (walkOrder restWorld o).failed) ∧
    0 ∈ (walkOrder restWorld (orderA .waiting { destA .ready none with entry := 1 })).failed ∧
    0 ∈ (walkOrder restWorld { orderA .waiting (destA .ready none) with ioc := 2001 }).failed := by
  refine ⟨⟨rfl, fun c => ?_, by decide +kernel⟩, by decide +kernel, by decide +kernel⟩
  cases c <;> decide +kernel

/-- A round formed, and a walk that forms none; the drum free with the cover closed, the lamp OK and a print mounted, and not. -/
theorem witness_AssemblyFormsTheRound :
    (let s := { world .onDrum (destA .ready none) Channel.initial with mount := .mounted 7 };
      findOrder s 1 = some (orderA .onDrum (destA .ready none)) ∧ s.round.state = .closed ∧ s.head.state = .home ∧ s.pins.cover = true ∧
        s.converter.lamp = .ok ∧ (∃ t, s.mount = .mounted t) ∧
        (walkOrder s (orderA .onDrum (destA .ready none))).members.get .c1 = some 0) ∧
    (let s := { world .onDrum { destA .ready none with entry := 1 } Channel.initial with mount := .mounted 7 };
      (∀ c : Chan, (walkOrder s (orderA .onDrum { destA .ready none with entry := 1 })).members.get c = none) ∧
        (walkOrder s (orderA .onDrum { destA .ready none with entry := 1 })).failed = [0]) ∧
    ¬ ∃ t, restWorld.mount = .mounted t := by
  refine ⟨⟨by decide +kernel, rfl, rfl, rfl, rfl, ⟨7, rfl⟩, by decide +kernel⟩, ⟨fun c => ?_, by decide +kernel⟩, fun ⟨t, h⟩ => by cases h⟩
  cases c <;> decide +kernel

theorem witness_CallBeginsByTheConfiguration :
    findOrder restWorld 1 = some (orderA .waiting (destA .ready none)) ∧
      (orderA .waiting (destA .ready none)).dests[0]? = some (destA .ready none) ∧
      readEntry restWorld.store (destA .ready none).entry = .valid entryA ∧
      (readSettings restWorld.store).config.get .c1 = .dialled ∧
      (let st := { storeA with
          settings := freshItem settingsBytes { defaultSettings with config := { PerChan.all .dialled with c1 := .leased 0 } } };
        (readSettings st).config.get .c1 ≠ .dialled ∧ readEntry st 0 = .valid entryA) := by decide +kernel

theorem witness_ScanningStartsWhenTheDrumAndAllMembersAreReady :
    (let s := { roundWorld .assembling .home (chanA .phased) with drum := drumA .locked };
      noMembers s.round = false ∧ s.round.state = .assembling ∧ s.drum.state = .locked ∧
        s.drum.target = s.round.drumClass ∧
        ∀ c, s.round.members.get c ≠ none → (s.channels.get c).state = .phased) ∧
    (roundWorld .scanning .scanning (chanA .picture)).round.state ≠ .assembling ∧
    (∃ c, (roundWorld .assembling .home (chanA .announce)).round.members.get c ≠ none ∧
      ((roundWorld .assembling .home (chanA .announce)).channels.get c).state ≠ .phased) := by
  refine ⟨⟨by decide +kernel, rfl, rfl, rfl, fun c h => ?_⟩, by decide +kernel, .c1, by decide +kernel⟩
  cases c
  · rfl
  all_goals exact absurd rfl h

/-- The last member, with the home switch open and closed, and a member that leaves another behind. -/
theorem witness_LastMemberLeavingEndsTheScan :
    (let s := roundWorld .scanning .scanning (chanA .picture);
      s.round.members.get .c1 = some 0 ∧ (∀ d, d ≠ .c1 → s.round.members.get d = none) ∧ s.head.state = .scanning ∧
        s.pins.home = true) ∧
    { State.reset.pins with home := false }.home = false ∧
    (roundWorld .assembling .home (chanA .announce)).round.state = .assembling ∧
    [HeadState.home, .fault, .returning].all (fun h => (roundWorld .draining h (chanA .picture)).head.state == h) = true ∧
    (∃ d, d ≠ .c1 ∧ ({ PerChan.all none with c1 := some 0, c3 := some 1 } : PerChan (Option Nat)).get d ≠ none) := by
  refine ⟨⟨rfl, fun d h => ?_, rfl, rfl⟩, rfl, rfl, rfl, .c3, by decide, by decide⟩
  cases d
  · exact absurd rfl h
  all_goals rfl

/-- A round of a WITHDRAWING order with its print mounted, with a reference queued and with none; a round of an order ON DRUM. -/
theorem witness_RoundClosed :
    (let s := { roundWorld .draining .returning Channel.initial with
        book := { orders := [orderA .withdrawing (destA .final none)], nextNumber := 2, sequence := 2 },
        filing := [{ order := 1, dest := 0, channel := none }] };
      s.round.order = some 1 ∧ findOrder s 1 = some (orderA .withdrawing (destA .final none)) ∧ s.mount = .mounted 7 ∧
        (∃ r ∈ s.filing, r.order = 1) ∧ ∀ r ∈ ({ s with filing := [] } : State).filing, r.order ≠ 1) ∧
    (∀ n o, (roundWorld .draining .returning Channel.initial).round.order = some n →
      findOrder (roundWorld .draining .returning Channel.initial) n = some o → o.state ≠ .withdrawing) := by
  refine ⟨by decide +kernel, fun n o h1 h2 => ?_⟩
  cases h1
  rw [show findOrder (roundWorld .draining .returning Channel.initial) 1 = some (orderA .onDrum (destA .sending (some .c1))) by
    decide +kernel] at h2
  cases h2
  decide

/-- A call that owes ABORT and STOP, with a frame on the line and with none, and one that owes nothing. -/
theorem witness_ClosingFramesFollow :
    owesClosing (chanA .caption).state = true ∧ owesClosing (chanA .stopping).state = true ∧ owesClosing (chanA .announce).state = false ∧
      owesClosing (chanA .awaitReceipt).state = false ∧ (chanA .caption).call = some callA ∧
      findOrder (roundWorld .scanning .scanning (chanA .caption)) callA.order = some (orderA .onDrum (destA .sending (some .c1))) ∧
      (chanA .caption).onLine = none ∧ ({ chanA .picture with onLine := some (.fill 3) } : Channel).onLine = some (.fill 3) := by
  decide +kernel

/-- A retryable outcome within the allowance and at it, and one that is not retryable. -/
theorem witness_DestinationPlaced :
    (let s := roundWorld .scanning .scanning (chanA .picture);
      (s.channels.get .c1).call = some callA ∧ findOrder s callA.order = some (orderA .onDrum (destA .sending (some .c1))) ∧
        (orderA .onDrum (destA .sending (some .c1))).dests[callA.dest]? = some (destA .sending (some .c1)) ∧
        (destA .sending (some .c1)).state = .sending ∧ (destA .sending (some .c1)).channel = some .c1 ∧
        (orderA .onDrum (destA .sending (some .c1))).state ≠ .withdrawing ∧ readEntry s.store 0 = .valid entryA) ∧
    (retryable .lineLost = true ∧ (destA .sending (some .c1)).attempts < entryA.retries ∧ ¬ 1 < entryA.retries) ∧
    retryable .sentUnconfirmed = false := by decide +kernel

/-- A destination that a member serves and one that none does, in a round whose order is not WITHDRAWING. -/
theorem witness_MembersReturned :
    (let s := roundWorld .scanning .scanning (chanA .picture);
      NotAbandoned s 1 ∧ NotAbandoned s 2 ∧ findOrder s 2 = none ∧
        findOrder s 1 = some (orderA .onDrum (destA .sending (some .c1))) ∧ ServedByMember s 1 0 (destA .sending (some .c1)) ∧
        ¬ ServedByMember s 1 1 (destA .ready none)) := by
  refine ⟨fun _ o h => ?_, fun h => (by cases h), by decide +kernel, by decide +kernel, ⟨rfl, ⟨.c1, rfl⟩, .inr rfl⟩, ?_⟩
  · rw [show findOrder (roundWorld .scanning .scanning (chanA .picture)) 1 =
      some (orderA .onDrum (destA .sending (some .c1))) by decide +kernel] at h
    cases h
    decide
  · rintro ⟨-, -, h | h⟩ <;> cases h

theorem witness_HaltRoundAbortsAndClears :
    (roundWorld .scanning .scanning (chanA .picture)).round.state ≠ .closed ∧
      State.reset.head.state ≠ .fault ∧ State.reset.pins.home = true ∧ State.reset.round.state = .closed ∧
      ({ State.reset.converter with lamp := .fault } : Converter).lamp = .fault ∧ State.reset.converter.lamp = .ok ∧
      ({ State.reset.head with state := .fault } : Head).state = .fault := by decide +kernel

theorem witness_DeviceFaultsAbortTheRound :
    (let s := { roundWorld .scanning .scanning (chanA .picture) with drum := drumA .spinning };
      s.round.state ≠ .closed ∧ s.mount = .mounted 7 ∧ s.drum.state = .spinning ∧ s.drum.lockTimer = some 0 ∧
        s.round.state = .scanning) ∧
    (roundWorld .assembling .home (chanA .announce)).round.state = .assembling ∧
    (¬ ClosesAtOnce { roundWorld .scanning .scanning (chanA .picture) with
      drum := drumA .spinning, pins := { State.reset.pins with home := false } }) := by
  refine ⟨by decide +kernel, by decide +kernel, ?_⟩
  unfold ClosesAtOnce
  decide +kernel

theorem witness_MountConfirmChecksInOrder :
    (∀ t, State.reset.mount ≠ .requested t) ∧
      ((0#24 : BitVec 24).toNat ≠ 7 ∧ (7#24 : BitVec 24).toNat = 7) ∧
      { State.reset.pins with clamp := false }.clamp = false ∧ State.reset.pins.clamp = true ∧
      (drumA .coasting).state ≠ .stopped ∧ State.reset.drum.state = .stopped :=
  ⟨fun t h => (by cases h), by decide, by decide +kernel⟩

theorem witness_SpinCommandAndSpeedRegulation :
    [DrumState.stopped, .coasting, .spinning, .locked].all (fun st => (drumA st).state == st) = true ∧
      (drumA .locked).target = some .l60 ∧ (drumA .locked).target ≠ some .l30 ∧ (0 : Nat) ≤ 1023 ∧ (1023 : Nat) ≤ 1023 := by
  decide

theorem witness_PulseWithoutARevolution :
    State.reset.selectDue = false ∧ State.reset.drum.state = .stopped ∧
      ({ drumA .spinning with lastPulse := none } : Drum).lastPulse = none ∧ (drumA .spinning).state = .spinning ∧
      (drumA .coasting).state = .coasting ∧ (drumA .coasting).lastPulse = some 0 := by decide

/-- At the tight tolerance of 60 LPM and one beyond it, with 6 and 7 revolutions counted. -/
theorem witness_SpinningRevolutionCountsTowardLock :
    (drumA .spinning).state = .spinning ∧ (drumA .spinning).target = some .l60 ∧ (drumA .spinning).lastPulse = some 0 ∧
      withinTight (min 16777215 (max 0 1000976 - 0)) LpmClass.l60.period = true ∧
      withinTight (min 16777215 (max 0 1000977 - 0)) LpmClass.l60.period = false ∧
      ({ drumA .spinning with lockCount := 6 } : Drum).lockCount < 7 ∧ ({ drumA .spinning with lockCount := 7 } : Drum).lockCount = 7 := by
  decide

/-- One beyond the loose tolerance, with no miss counted and one; at it, outside a scan, with the head in FAULT and with the head at N. -/
theorem witness_LockedRevolutionsThatFileNoLine :
    ((drumA .locked).state = .locked ∧ (drumA .locked).target = some .l60 ∧ (drumA .locked).lastPulse = some 0 ∧
      withinLoose (min 16777215 (max 0 1003907 - 0)) LpmClass.l60.period = false ∧ (drumA .locked).looseMiss = 0 ∧
      ({ drumA .locked with looseMiss := 1 } : Drum).looseMiss = 1) ∧
    (withinLoose (min 16777215 (max 0 1003906 - 0)) LpmClass.l60.period = true ∧ State.reset.round.state ≠ .scanning ∧
      (roundWorld .scanning .fault (chanA .picture)).head.state ≠ .scanning ∧
      (let s := { roundWorld .scanning .scanning (chanA .picture) with head := { State.reset.head with state := .scanning, position := 50 } };
        s.round.order = some 1 ∧ (findOrder s 1).map Order.lines = some 50 ∧ 50 ≤ s.head.position)) := by decide +kernel

/-- The loose tolerance at its limit; a valid and an invalid gathering; the last line; a full and an empty store; a mark set with a
member in it and an empty one; 6 and 7 invalid references before. -/
theorem witness_ScanningRevolutionFilesOrHolds :
    (let s := { roundWorld .scanning .scanning (chanA .picture) with
        drum := drumA .locked, head := { State.reset.head with state := .scanning, position := 49 },
        converter := gathered (List.replicate 16 3500 ++ List.replicate 958 300) };
      s.drum.state = .locked ∧ s.drum.target = some .l60 ∧ s.drum.lastPulse = some 0 ∧
        withinLoose (min 16777215 (max s.now 1003906 - 0)) LpmClass.l60.period = true ∧ s.round.state = .scanning ∧
        s.head.state = .scanning ∧ s.round.order = some 1 ∧
        findOrder s 1 = some (orderA .onDrum (destA .sending (some .c1))) ∧ s.head.position < 50 ∧
        (List.replicate 16 3500 ++ List.replicate 958 300).length = 32 + 942 ∧
        (referenceOf (List.replicate 16 3500 ++ List.replicate 958 300)).valid = true ∧
        (referenceOf (List.replicate 974 300)).valid = false ∧ s.lineStore.held.length < 64 ∧
        findLine s.lineStore s.head.position = none ∧ anyMark (filingMarks s) = true ∧
        64 ≤ (List.range 64).length ∧ ({ s.converter with invalidCount := 6 } : Converter).invalidCount < 7 ∧
        ({ s.converter with invalidCount := 7 } : Converter).invalidCount = 7 ∧ s.round.samples = 942 ∧
        (List.replicate 973 300).length ≠ 32 + 942) ∧
    findLine (lineWorld (chanA .picture) [2, 5] 4).lineStore 2 ≠ none ∧
    anyMark (filingMarks (roundWorld .scanning .scanning (chanA .phasing))) = false := by decide +kernel

theorem witness_CoverClampAndHomeSwitch :
    State.reset.round.state = .closed ∧ { State.reset with mount := .mounted 7 }.mount = .mounted 7 ∧
      { State.reset with mount := .unmountRequested 7 }.mount = .unmountRequested 7 ∧ State.reset.mount = .empty ∧
      State.reset.head.state ≠ .returning ∧ (∀ t, State.reset.mount ≠ .mounted t) :=
  ⟨by decide +kernel, rfl, rfl, by decide +kernel, by decide +kernel, fun t h => by cases h⟩

theorem witness_HeadAndDrumLimitsRunOut :
    (let h : Head := { position := 37, state := .returning, returnTimer := some 0, held := 0 };
      h.state = .returning ∧ h.returnTimer = some 0 ∧ ({ h with returnTimer := none } : Head).returnTimer = none) ∧
    ({ drumA .spinning with lockTimer := none } : Drum).lockTimer = none ∧
      ({ drumA .coasting with coastTimer := none } : Drum).coastTimer = none ∧
    (let r : Round := { Round.none with state := .draining };
      r.state = .draining ∧ noMembers r = true ∧ Round.none.state ≠ .draining) ∧
    (drumA .spinning).state = .spinning ∧ (drumA .spinning).lockTimer = some 0 ∧ (drumA .spinning).idleTimer = some 0 ∧
      State.reset.drum.idleTimer = none ∧ (drumA .coasting).state = .coasting ∧ (drumA .coasting).coastTimer = some 0 ∧
      State.reset.drum.state ≠ .coasting ∧ State.reset.drum.state ≠ .spinning := by decide

theorem witness_PhotocellReadingIsGathered :
    State.reset.converter.gathering = none ∧
      (let s := { roundWorld .scanning .scanning (chanA .picture) with
          converter := gathered (List.replicate 973 0) };
        roundSamples s = 942 ∧ (List.replicate 973 0).length < 32 + roundSamples s ∧
          32 + roundSamples s ≤ (List.replicate 974 0).length) ∧
      photocellRow (photocellTransfer 4095#12) = some (.photocellReading 4095#12) := by decide +kernel

theorem witness_ReferencesAreMeansWithASpan :
    (List.replicate 16 4095).length = 16 ∧ (List.replicate 16 0).length = 16 ∧
      (1024 ≤ 1024 ∧ 1024 ≤ 4095 ∧ 512 + 512 ≤ 1024) ∧ (1024 ≤ 4095 ∧ 4095 ≤ 4095 ∧ 3583 + 512 ≤ 4095) := by decide

theorem curveB_rises : ∀ j : Fin 16, curveB[j.val] ≤ curveB[j.val + 1] := by decide

/-- The ends of the ranges, and a value at a meeting of two pieces. -/
theorem witness_LevelsFollowTheReadings :
    (300 + 512 ≤ 812 ∧ 300 ≤ 300 ∧ 300 < 301 ∧ 812 ≤ 812 ∧ 1024 * 3500 < 1024 * 3499 + (3500 - 300)) ∧
      (1023 ≤ 1023 ∧ 1023 / 64 = 15 ∧ 1023 - 64 * 15 = 63 ∧ 64 / 64 = 1 ∧ 64 - 64 * 1 = 0) ∧
      ((List.replicate 32 300).length = 32 ∧ [300, 3500][1]? = some 3500) ∧ ∀ j (h : j + 1 < 17), curveB[j] ≤ curveB[j + 1] := by
  refine ⟨by decide, by decide, by decide, fun j h => ?_⟩
  exact curveB_rises ⟨j, by omega⟩

theorem witness_LineStoreFilesAndReleases :
    (lineWorld (chanA .picture) [3, 5] 4).lineStore.wf = true ∧ findLine (lineWorld (chanA .picture) [3, 5] 4).lineStore 3 ≠ none ∧
      findLine (lineWorld (chanA .picture) [3, 5] 4).lineStore 4 = none ∧
      (lineWorld (chanA .picture) [3, 5] 4).lineStore.held.length < 64 ∧
      64 ≤ (lineWorld (chanA .picture) (List.range 64) 4).lineStore.held.length ∧
      (lineWorld (chanA .picture) (List.range 64) 4).lineStore.wf = true := by decide +kernel

theorem witness_LineCommandsActByTheChannelState :
    ((0#8 : Byte).toNat = 0 ∧ 4 < (5#8 : Byte).toNat ∧ (1#8 : Byte).toNat = Chan.c1.number ∧ (4#8 : Byte).toNat = Chan.c4.number) ∧
      (chanA .out).state = .out ∧ (chanA .idle).state ≠ .out ∧ inCall (chanA .dialling).state = true ∧
      inCall (chanA .awaitReceipt).state = true ∧ inCall (chanA .release).state = false ∧ (chanA .release).state = .release ∧
      (chanA .cooldown).state = .cooldown ∧
      (let s := roundWorld .assembling .home (chanA .announce);
        (s.channels.get .c1).call = some callA ∧ (findOrder s 1).map Order.state = some .onDrum ∧
          (findDest s 1 0).map Destination.state = some .sending) := by decide +kernel

theorem witness_CarrierAndDiallingReachAnnounce :
    (chanA .awaitAnswer).state = .awaitAnswer ∧ readsBack (chanA .announce).state = true ∧
      readsBack (chanA .awaitReceipt).state = true ∧ readsBack (chanA .idle).state = false ∧
      (chanA .dialling).state = .dialling ∧ (chanA .dialling).stateTimer = some 0 ∧ (chanA .dialling).call = some callA ∧
      ({ chanA .dialling with dial := .settle } : Channel).dial = .settle ∧
      ({ chanA .dialling with dial := .tone 0 } : Channel).dial = .tone 0 ∧
      ({ chanA .dialling with dial := .gap 1 } : Channel).dial = .gap 1 ∧ 0 + 1 < callA.entry.digits.length ∧
      callA.entry.digits.length ≤ 1 + 1 := by decide

theorem witness_LimitsEndTheCall :
    [ChanState.awaitAnswer, .announce, .awaitReceipt].all (fun st => (chanA st).state == st && (chanA st).stateTimer == some 0) = true ∧
      readsBack (chanA .caption).state = true ∧ ({ chanA .caption with carrierTimer := some 0 } : Channel).carrierTimer = some 0 ∧
      (chanA .phased).state = .phased ∧ (chanA .picture).state = .picture ∧
      ({ chanA .picture with hold := some 0 } : Channel).hold = some 0 := by decide

theorem witness_CooldownAndReleaseEnd :
    (chanA .cooldown).state = .cooldown ∧ (chanA .cooldown).stateTimer = some 0 ∧ (chanA .release).state = .release ∧
      ({ chanA .release with ending := some (.outcome .wrongStation) } : Channel).ending = some (.outcome .wrongStation) ∧
      ({ chanA .release with ending := some .released } : Channel).ending = some .released ∧
      ((chanA .release).onLine = none ∧ (chanA .release).owed = [] ∧ (chanA .release).call = some callA ∧
        ({ chanA .release with onLine := some (.fill 3), owed := [.abort 1] } : Channel).onLine.toList ++ [.abort 1] ≠ []) ∧
      (chanA .cooldown).service = .inService := by decide

/-- The sender test of a mask that lets the low byte differ. -/
theorem codeA_agrees : CodeAgrees entryA 0x12FF#16 := by unfold CodeAgrees; decide
theorem codeB_differs : ¬ CodeAgrees entryA 0x1334#16 := fun h => absurd (h 8 (by decide) (by decide)) (by decide)

theorem witness_BackChannelFramesAreTested :
    (backFrameOf (.hold .c1 0x12FF#16) = some (.c1, 0x12FF#16, .hold) ∧ readsBack (chanA .idle).state = false ∧
      (chanA .picture).call = some callA ∧ readsBack (chanA .picture).state = true ∧ State.reset.selectDue = false ∧
      ((chanA .caption).state, BackKind.hold) ∉ expectedKinds ∧ ((chanA .picture).state, BackKind.hold) ∈ expectedKinds) ∧
    (CodeAgrees callA.entry 0x12FF#16 ∧ ¬ CodeAgrees callA.entry 0x1334#16) ∧
    (({ chanA .picture with trouble := 123 } : Channel).trouble < 124 ∧ 124 ≤ ({ chanA .picture with trouble := 124 } : Channel).trouble) ∧
    ((Reception.initial.byte = none ∧ Reception.initial.run = none ∧ Reception.ready.byte = none ∧ Reception.ready.run = some []) ∧
      (∀ x ∈ [(0x84#8, 9), (0x12#8, 0), (0xFF#8, 3), (0x27#8, 0), (0x08#8, 0)], x.2 < 10) ∧
      backKindOfByte 0x84#8 = some .hold ∧ 4 < backFrameSize .hold ∧ 5 = backFrameSize .hold ∧
      [(0xFF#8, 3), (0x27#8, 0), (0x08#8, 0)].getLast? = some ((0x08#8 : Byte), 0) ∧
      backChannelRows .c1 (withCheck [0x84#8, 0x12#8, 0xFF#8]) = [.hold .c1 0x12FF#16]) :=
  ⟨by decide, ⟨codeA_agrees, codeB_differs⟩, by decide, by decide +kernel⟩

theorem witness_StationIdentifiesTheReceiver :
    (chanA .announce).state = .announce ∧ (chanA .announce).call = some callA ∧
      Identifies storeA 0x12FF#16 callA.entryIndex ∧ ¬ Identifies storeA 0x1334#16 callA.entryIndex := by
  refine ⟨rfl, rfl, ⟨by decide, ⟨entryA, entryA_valid, codeA_agrees⟩, fun j h => absurd h (Nat.not_lt_zero j)⟩, ?_⟩
  rintro ⟨-, ⟨e, he, hc⟩, -⟩
  rw [show callA.entryIndex = 0 from rfl, entryA_valid] at he
  cases he
  exact codeB_differs hc

theorem witness_PhasedHoldAndGoAreTaken :
    ((chanA .phasing).call = some callA ∧ (chanA .phasing).state = .phasing ∧ (chanA .phased).state = .phased ∧
      (chanA .picture).state = .picture ∧ (chanA .picture).hold = none ∧
      ({ chanA .picture with hold := some 5 } : Channel).hold ≠ none) ∧ CodeAgrees callA.entry 0x12FF#16 :=
  ⟨by decide, codeA_agrees⟩

/-- The first line above the highest started and the highest started; trouble 119 and 120; an entry there, a full queue, and room. -/
theorem witness_RetakeIsHandledInOrder :
    CodeAgrees callA.entry 0x12FF#16 ∧
    (let ch := { chanA .picture with sendPosition := 3, trouble := 119, queue := [.skip 2] };
      ch.call = some callA ∧ ch.state = .picture ∧ ch.sendPosition ≤ (3#16 : Word).toNat ∧
        (2#16 : Word).toNat < ch.sendPosition ∧ ch.trouble < 120 ∧ 120 ≤ ({ ch with trouble := 120 } : Channel).trouble ∧
        .skip 2 ∈ ch.queue ∧ .resend 1 ∉ ch.queue ∧ .skip 1 ∉ ch.queue ∧ ch.queue.length < 6 ∧
        6 ≤ ([3, 4, 5, 6, 7, 8].map RetakeEntry.resend).length) ∧ (chanA .stopping).state = .stopping :=
  ⟨codeA_agrees, by decide, rfl⟩

theorem witness_ReceiptEndsTheCall :
    (let s := roundWorld .draining .returning (chanA .awaitReceipt);
      (s.channels.get .c1).state = .awaitReceipt ∧ (s.channels.get .c1).call = some callA ∧
        findOrder s callA.order = some (orderA .onDrum (destA .sending (some .c1))) ∧
        (orderA .onDrum (destA .sending (some .c1))).dests[callA.dest]? = some (destA .sending (some .c1)) ∧
        (destA .sending (some .c1)).state = .sending ∧ (destA .sending (some .c1)).channel = some .c1) ∧
    CodeAgrees callA.entry 0x12FF#16 := ⟨by decide +kernel, codeA_agrees⟩

theorem witness_ForwardFramesAreLaidOut :
    ceilDiv (List.replicate 942 0).length SegmentSize.g512.size = 2 ∧ 1 < 2 ∧ ceilDiv ([] : List Nat).length SegmentSize.g128.size = 0 ∧
      (frameBytes (.fill 3))[2]? = some 0x03#8 ∧ (chanA .picture).call = some callA ∧
      fits (List.replicate 1150 0).length entryA = true ∧ fits (List.replicate 1151 0).length entryA = false := by
  decide +kernel

theorem witness_EarlyPeriodsSendTheirFrame :
    (chanA .announce).lineTimer = none ∧ (timed (chanA .announce)).lineTimer = some { start := 0, begun := 0 } ∧
      ({ chanA .announce with onLine := some (.fill 0) } : Channel).onLine ≠ none ∧ (chanA .announce).onLine = none ∧
      (chanA .announce).owed = [] ∧ (chanA .announce).call = some callA ∧
      findOrder (world .onDrum (destA .sending (some .c1)) (timed (chanA .caption))) callA.order =
        some (orderA .onDrum (destA .sending (some .c1))) ∧
      (chanA .caption).captionSent < max 1 (ceilDiv 0 80) ∧
      max 1 (ceilDiv 0 80) ≤ ({ chanA .caption with captionSent := 1 } : Channel).captionSent ∧
      ({ chanA .phasing with phaseCount := 31 } : Channel).phaseCount < 32 ∧
      32 ≤ ({ chanA .phasing with phaseCount := 32 } : Channel).phaseCount := by decide +kernel

/-- A queue of a SKIP entry, a RESEND entry of a line not held, and one of a held line; an empty one. -/
theorem witness_QueueServed :
    QueueServed (fun l => askLine .c1 l (lineWorld (chanA .picture) [2, 5] 4).lineStore) [.skip 0, .resend 1, .resend 2, .skip 3]
      [.skip 0, .resend 1] [.resend 2, .skip 3] ∧
    QueueServed (fun l => askLine .c1 l (lineWorld (chanA .picture) [2, 5] 4).lineStore) [] [] [] := by
  refine ⟨⟨rfl, fun l h => ?_, Or.inr ⟨2, [2], [.skip 3], rfl, by decide +kernel⟩⟩, rfl, fun l h => (by cases h), Or.inl rfl⟩
  simp only [List.mem_cons, List.not_mem_nil, or_false, reduceCtorEq, false_or, RetakeEntry.resend.injEq] at h
  subst h
  decide +kernel

/-- The send position at a line the store holds, at one it does not, and at the last line; held and not; PICTURE and PHASED. -/
theorem witness_PicturePeriodsCarryOneLine :
    (let s := lineWorld (timed { chanA .picture with sendPosition := 5, queue := [.skip 0, .resend 1, .resend 2, .skip 3] }) [2, 5] 4;
      let ch := s.channels.get .c1;
      ch.lineTimer = some { start := 0, begun := 0 } ∧ ch.onLine = none ∧ ch.owed = [] ∧ ch.call = some callA ∧
        findOrder s callA.order = some (orderA .onDrum (destA .sending (some .c1))) ∧ s.lineStore.depth = some 4 ∧
        s.lineStore.wf = true ∧ ch.state = .picture ∧ ch.hold = none ∧ askLine .c1 ch.sendPosition s.lineStore = some [5] ∧
        askLine .c1 6 s.lineStore = none ∧ ({ ch with hold := some 0 } : Channel).hold ≠ none) ∧
    (let ch := timed (chanA .phased);
      ch.state = .phased ∧ ch.queue = [] ∧ ch.sendPosition = 0 ∧ ch.skipped ≤ 65535) ∧
    (orderA .onDrum (destA .ready none)).lines = 49 + 1 ∧
    (let s := roundWorld .assembling .home (timed (chanA .phased));
      (s.channels.get .c1).lineTimer = some { start := 0, begun := 0 } ∧ (s.channels.get .c1).onLine = none ∧
        (s.channels.get .c1).owed = [] ∧ (s.channels.get .c1).state = .phased ∧ s.lineStore.depth = none ∧ s.lineStore.held = []) := by
  decide +kernel

/-- The quiet count below D and at it, with the queue empty, and a queue that is not. -/
theorem witness_StoppingPeriodsEndInStop :
    (let s := lineWorld (timed { chanA .stopping with sendPosition := 50, stopping := 3 }) [2, 5] 4;
      let ch := s.channels.get .c1;
      ch.lineTimer = some { start := 0, begun := 0 } ∧ ch.onLine = none ∧ ch.owed = [] ∧ ch.call = some callA ∧
        findOrder s callA.order = some (orderA .onDrum (destA .sending (some .c1))) ∧ s.lineStore.depth = some 4 ∧
        s.lineStore.wf = true ∧ ch.state = .stopping ∧ ch.queue = [] ∧ ch.stopping < 4 ∧
        4 ≤ ({ ch with stopping := 4 } : Channel).stopping ∧ ({ ch with queue := [.resend 2] } : Channel).queue ≠ []) := by
  decide +kernel

/-- A frame that is neither STOP nor the end of a resend; the STOP of STOPPING; the end of a resend with line L + D started, a fresh
RESEND entry queued or not, and with it not started. -/
theorem witness_FramesLeaveTheLine :
    (let ch := { chanA .picture with onLine := some (.fill 3), owed := [.skip 1] };
      ch.onLine = some (.fill 3) ∧ ch.call = some callA ∧ (∀ a n x levels, ForwardFrame.fill 3 ≠ .line a true true n x levels) ∧
        (frameBits (.fill 3))[5]? = some true ∧ (521 - ch.runStart) * LineRate.r9600.bits / 1000000 = 8 * ch.runBytes + 5 ∧
        ∀ n m, ForwardFrame.fill 3 ≠ .stop n m) ∧
    ((chanA .stopping).state = .stopping ∧ ∃ n m, ForwardFrame.stop 1 50 = .stop n m) ∧
    ((chanA .picture).state = .picture ∧ 0 + 4 < ({ chanA .picture with sendPosition := 5 } : Channel).sendPosition ∧
      ¬ 0 + 4 < ({ chanA .picture with sendPosition := 4 } : Channel).sendPosition ∧
      (lineWorld (chanA .picture) [0] 4).lineStore.depth = some 4 ∧ StoreCanonical (lineWorld (chanA .picture) [0] 4)) := by
  refine ⟨⟨rfl, rfl, ?_, by decide +kernel, by decide, ?_⟩, ⟨rfl, 1, 50, rfl⟩, rfl, by decide, by decide, rfl, ?_⟩
  · intro a n x levels h; cases h
  · intro n m h; cases h
  · unfold StoreCanonical; decide +kernel

/-- A log of one record: found and not found; removable and not; in each state of the checks of R160. -/
theorem witness_ReceiptCommandsActOnTheRecord :
    (let s := { State.reset with log := [receiptA .printed] };
      RecordsDistinct s ∧ findReceipt s (8#16 : Word).toNat = none ∧ findReceipt s (9#16 : Word).toNat = some (receiptA .printed) ∧
        Removable s { receiptA .printed with released := { desk := true, dispatch := true } } ∧ ¬ Removable s (receiptA .printed) ∧
        s.printer.state ≠ .disabled ∧ s.printer.disablePending = false ∧ (receiptA .printed).slip = .printed ∧
        (receiptA .pending).slip ≠ .printed ∧ ({ s.printer with state := .disabled } : Printer).state = .disabled) := by
  refine ⟨?_, by decide +kernel, by decide +kernel, ⟨fun l => by cases l <;> exact Or.inl rfl, Or.inl rfl⟩, ?_, by decide +kernel⟩
  · unfold RecordsDistinct; decide +kernel
  · rintro ⟨h, -⟩
    rcases h .desk with h | h <;> revert h <;> decide

/-- READY with a PENDING record behind a printed one, and without one; PRINTING one character short of the last, and WAITING. -/
theorem witness_SlipsArePrintedCharacterByCharacter :
    (let s := { State.reset with log := [{ receiptA .printed with filing := 8 }, receiptA .pending] };
      RecordsDistinct s ∧ s.printer.state = .ready ∧ (∀ x ∈ [{ receiptA .printed with filing := 8 }], x.slip ≠ .pending) ∧
        (receiptA .pending).slip = .pending) ∧
    (∀ r ∈ State.reset.log, r.slip ≠ .pending) ∧
    (let p := { State.reset.printer with state := .printing, slip := some { filing := 9, text := [0x41#8, 0x42#8], rate := .b1200 } };
      p.state = .printing ∧ p.slip = some { filing := 9, text := [0x41#8, 0x42#8], rate := .b1200 } ∧ p.position + 1 < 2 ∧
        p.abandonDue = false ∧ [0x41#8, 0x42#8][p.position]? = some 0x41#8 ∧
        (0 - p.runStart) * PrintRate.b1200.baud / 1000000 = 11 * p.runSent + 0 ∧
        (8334 - p.runStart) * PrintRate.b1200.baud / 1000000 = 11 * p.runSent + 10) ∧
    ((receiptA .pending).name.length ≤ 16 ∧ receiptB.caption.length ≤ 32) ∧
    ({ State.reset.printer with state := .waiting } : Printer).state = .waiting ∧ State.reset.printer.state ≠ .waiting ∧
      State.reset.printer.state ≠ .printing := by
  refine ⟨⟨?_, by decide +kernel⟩, by decide +kernel⟩
  unfold RecordsDistinct
  decide +kernel

/-- The last character of a slip, its record removable and not; a slip abandoned in PRINTING with one character left, with the paper
absent and back, and in WAITING with none sent. -/
theorem witness_SlipsEndPrintedOrAbandoned :
    (let s := { State.reset with
        log := [receiptA .printing], pins := { State.reset.pins with paper := false },
        printer := { State.reset.printer with
          state := .printing, slip := some { filing := 9, text := [0x41#8, 0x42#8], rate := .b1200 }, position := 1,
          abandonDue := true } };
      RecordsDistinct s ∧ s.printer.disablePending = false ∧ s.printer.state = .printing ∧
        findReceipt s 9 = some (receiptA .printing) ∧ [0x41#8, 0x42#8].length ≤ s.printer.position + 1 ∧
        s.printer.abandonDue = true ∧ s.pins.paper = false ∧ { s.pins with paper := true }.paper = true ∧
        ({ s.printer with position := 0 } : Printer).position + 1 < [0x41#8, 0x42#8].length) ∧
    ({ State.reset.printer with state := .waiting } : Printer).state = .waiting ∧ State.reset.pins.paper = true ∧
      State.reset.printer.state = .ready ∧ ({ State.reset.printer with state := .disabled } : Printer).state = .disabled ∧
      ({ State.reset.printer with disablePending := true } : Printer).disablePending = true ∧
      ({ receiptA .printed with filing := 8 } : Receipt).slip ≠ .pending ∧ findReceipt State.reset 9 = none ∧
      findReceipt { State.reset with log := [receiptA .printing, { receiptA .pending with filing := 10 }] } 10 =
        some { receiptA .pending with filing := 10 } := by
  refine ⟨⟨?_, by decide +kernel⟩, by decide +kernel⟩
  unfold RecordsDistinct
  decide +kernel

theorem argsA_in_range : ¬ EntryOutOfRange argsA := by unfold EntryOutOfRange; decide
theorem settingsA_in_range : ¬ SettingsOutOfRange settingsA := by
  unfold SettingsOutOfRange
  rintro (h | h | h | h | h | h | h | ⟨c, h, h'⟩ | ⟨c, d, h, h', h''⟩)
  iterate 7 revert h; decide
  · cases c <;> exact absurd rfl h'
  · cases c <;> exact absurd rfl h''

/-- The store WRITING, locked and open; the index ranges at their ends; contents in and out of range; an entry in use, referenced and
free; a channel busy and none. -/
theorem witness_StoreWritesAreCheckedInOrder :
    ((startCycle .desk (.lock true) State.reset).store.cycle ≠ none ∧ State.reset.store.cycle = none ∧
      (List.replicate 17 0#8).length = 17 ∧ { State.reset.pins with guard := false }.guard = false ∧ State.reset.pins.guard = true ∧
      readLockFlag State.reset.store = false ∧ readLockFlag { newStore with lock := freshItem lockBytes true } = true ∧
      23 < (24#8 : Byte).toNat ∧ (23#8 : Byte).toNat ≤ 23 ∧ 3 < (4#8 : Byte).toNat ∧ (3#8 : Byte).toNat ≤ 3 ∧
      ¬ List.Pairwise (· ≤ ·) ((1#8 :: List.replicate 16 0#8).map BitVec.toNat) ∧
      List.Pairwise (· ≤ ·) ((List.replicate 17 255#8).map BitVec.toNat)) ∧
    (EntryOutOfRange { argsA with retries := 6#8 } ∧ ¬ EntryOutOfRange argsA) ∧
    (SettingsOutOfRange { settingsA with depth := 9#8 } ∧ ¬ SettingsOutOfRange settingsA) ∧
    EntryNamed (world .onDrum (destA .sending (some .c1)) Channel.initial) 0 [.assigned, .sending] ∧
    EntryNamed restWorld 0 [.ready, .delayed] ∧ ¬ EntryNamed State.reset 0 [.assigned, .sending] ∧
    SomeChannelBusy (world .onDrum (destA .sending (some .c1)) (chanA .picture))
      { defaultSettings with config := { PerChan.all .dialled with c1 := .leased 1 } } ∧
    ¬ SomeChannelBusy State.reset defaultSettings := by
  refine ⟨by decide +kernel, ⟨?_, argsA_in_range⟩, ⟨?_, settingsA_in_range⟩, ?_, ?_, ?_, ?_, ?_⟩
  · unfold EntryOutOfRange; decide
  · exact Or.inr (Or.inr (Or.inl (by decide)))
  · exact ⟨orderA .onDrum (destA .sending (some .c1)), by decide +kernel, destA .sending (some .c1), by decide +kernel, rfl, by decide⟩
  · exact ⟨orderA .waiting (destA .ready none), by decide +kernel, destA .ready none, by decide +kernel, rfl, by decide⟩
  · rintro ⟨o, ho, -⟩; cases ho
  · exact ⟨.c1, by decide +kernel⟩
  · rintro ⟨c, -, h, h'⟩; cases c <;> exact h' rfl

theorem witness_StoreCyclesEndWithTheNewContents :
    State.reset.store.cycle = none ∧
      (let s := startCycle .dispatch (.settings { defaultSettings with printerEnabled := false }) State.reset;
        (s.store.cycle.map StoreCycle.link = some .dispatch) ∧ (readSettings s.store).printerEnabled = true ∧
          (readSettings (after .storeCycleEnd s).store).printerEnabled = false ∧ s.printer.state ≠ .disabled ∧
          s.printer.state = .ready ∧ s.pins.guard = true ∧ (s.log.map Receipt.filing).Nodup ∧ findReceipt s 8 = none ∧
          findReceipt { s with log := [receiptA .pending] } 9 = some (receiptA .pending)) ∧
      (let s := startCycle .desk (.settings defaultSettings)
          { State.reset with
            store := { newStore with settings := freshItem settingsBytes { defaultSettings with printerEnabled := false } } };
        (readSettings s.store).printerEnabled = false ∧ (readSettings (after .storeCycleEnd s).store).printerEnabled = true) := by
  decide +kernel

/-- A state with a notice present, a line held, an order, a record and a call, ready to make a step. -/
def busyWorld : State :=
  noticeBoth (.orderDone 3)
    { lineWorld { chanA .picture with hook := .offHook, queue := [.resend 2, .skip 0] } [2, 5] 4 with
      log := [receiptA .pending], drum := drumA .locked, pending := [.coverOpen] }

theorem witness_EveryStepKeepsAttention : AttentionAgrees busyWorld ∧ ∃ t, step busyWorld = .next t :=
  ⟨fun l => by cases l <;> decide +kernel, _, rfl⟩

theorem witness_EveryStepKeepsTheTables :
    (StoreCanonical busyWorld ∧ TablesBounded busyWorld ∧ OrdersDistinct busyWorld ∧ RecordsDistinct busyWorld) ∧
      ∃ t, step busyWorld = .next t := by
  refine ⟨⟨?_, ⟨by decide +kernel, by decide +kernel⟩, ?_, ?_⟩, _, rfl⟩
  · unfold StoreCanonical; decide +kernel
  · unfold OrdersDistinct; decide +kernel
  · unfold RecordsDistinct; decide +kernel

theorem witness_EveryStepKeepsTheStatesCoherent :
    (DrumCoherent busyWorld ∧ SlipCoherent busyWorld ∧ HookCoherent busyWorld ∧ QueuesBounded busyWorld) ∧ StepDone busyWorld ∧
      ∃ t, step busyWorld = .next t := by
  refine ⟨⟨⟨by decide +kernel, by decide +kernel, fun h => absurd h (by decide +kernel)⟩, ?_, ?_, ?_⟩, rfl, _, rfl⟩
  · unfold SlipCoherent; decide +kernel
  · intro c h
    cases c
    · exact Or.inl (by decide +kernel)
    all_goals exact absurd h (by decide +kernel)
  · intro c
    cases c <;> exact ⟨by decide +kernel, by decide +kernel⟩

end Sys2Proof.Tests
end

section
/-! PROOF. The refusals of SUBMIT ORDER (R8): what each check of the model says in the words of the statement, the answer of
the command at the first check that fails, and the statement assembled from them. -/

namespace Sys2Proof.Machine

/-! ### What the checks of R8 say -/

/-- Check 2: the byte is not one of the four priority codes. -/
theorem priorityOfByte_eq_none_iff (b : Byte) : priorityOfByte b = none ↔ 3 < b.toNat := by
  unfold priorityOfByte
  split
  case h_5 h0 h1 h2 h3 =>
    rw [imp_false] at h0 h1 h2 h3
    simp only [true_iff]
    omega
  all_goals
    simp only [reduceCtorEq, false_iff]
    omega

theorem priorityOfByte_of_le {b : Byte} (h : b.toNat ≤ 3) : ∃ p, priorityOfByte b = some p :=
  Option.ne_none_iff_exists'.mp fun hn => absurd ((priorityOfByte_eq_none_iff b).mp hn) (by omega)

/-- Check 4: the geometry of R6 and the curve index. -/
theorem goodGeometry_iff (d r length curve : Nat) :
    goodGeometry d r length curve = true ↔ GeometryAdmitted d r length curve := by
  simp only [goodGeometry, Bool.and_eq_true, decide_eq_true_eq, and_assoc]
  rfl

theorem validEntry_eq_some_iff (st : Store) (i : Nat) (x : Entry) :
    validEntry st i = some x ↔ readEntry st i = .valid x := by
  unfold validEntry
  cases readEntry st i <;> simp

theorem validEntry_isSome_iff (st : Store) (i : Nat) :
    (validEntry st i).isSome = true ↔ ∃ x, readEntry st i = .valid x := by
  simp [Option.isSome_iff_exists, validEntry_eq_some_iff]

/-- Check 5: the destination list. -/
theorem goodDestinations_iff (st : Store) (entries : List Byte) :
    goodDestinations st entries = true ↔ ListAdmitted st entries := by
  simp only [goodDestinations, ListAdmitted, Bool.and_eq_true, decide_eq_true_eq, List.all_eq_true, validEntry_isSome_iff]
  constructor
  · rintro ⟨⟨⟨⟨hlow, hhigh⟩, hindex⟩, hvalid⟩, hnodup⟩
    exact ⟨hlow, hhigh, hnodup, fun e he => ⟨hindex e he, hvalid e he⟩⟩
  · rintro ⟨hlow, hhigh, hnodup, hentry⟩
    exact ⟨⟨⟨⟨hlow, hhigh⟩, fun e he => (hentry e he).1⟩, fun e he => (hentry e he).2⟩, hnodup⟩

/-- The compatibility of R7 for a listed index; an EMPTY or DAMAGED entry fails it. -/
theorem entryCompatible_iff (st : Store) (ioc samples : Nat) (e : Byte) :
    entryCompatible st ioc samples e.toNat = true ↔ EntryTakes st ioc samples e := by
  simp only [EntryTakes, ← validEntry_eq_some_iff, entryCompatible]
  cases validEntry st e.toNat <;> simp [compatible, fits, and_assoc]

/-- Check 6: the position it names is that of the first listed entry that fails R7. -/
theorem firstIncompatible_eq_some {st : Store} {ioc samples : Nat} {entries : List Byte} {k : Nat} (hk : k < entries.length)
    (hfails : ¬ EntryTakes st ioc samples entries[k])
    (hbefore : ∀ j (hj : j < k), EntryTakes st ioc samples entries[j]) :
    firstIncompatible st ioc samples entries = some k := by
  refine List.findIdx?_eq_some_iff_getElem.mpr ⟨hk, ?_, fun j hj => ?_⟩
  · simpa [← entryCompatible_iff] using hfails
  · simpa [← entryCompatible_iff] using hbefore j hj

/-! ### The answer at the first check that fails -/

theorem exec_submitOrder (l : Link) (pr : Byte) (tag : BitVec 24) (r : Byte) (length : Word) (curve : Byte)
    (entries : List Byte) (s : State) :
    exec (.submitOrder l pr tag r length curve entries) s = execSubmitOrder l pr tag r length curve entries s := by
  rfl

section Refusals
/-! Each check that passes becomes a hypothesis of the checks after it. -/

variable {l : Link} {pr : Byte} {tag : BitVec 24} {r : Byte} {length : Word} {curve : Byte} {entries : List Byte} {s : State}
  {p : Priority} {k : Nat}

theorem submitOrder_refuses_bookFull (hfull : bookPlaces ≤ s.book.orders.length ∨ lastSequence < s.book.sequence) :
    RefusedWith (.submitOrder l pr tag r length curve entries) l 0x11#8 .bookFull s := by
  apply refused_of_eq
  simp only [exec_submitOrder, execSubmitOrder, if_pos hfull]

variable (hroom : ¬ (bookPlaces ≤ s.book.orders.length ∨ lastSequence < s.book.sequence))
include hroom

theorem submitOrder_refuses_badPriority (hp : priorityOfByte pr = none) :
    RefusedWith (.submitOrder l pr tag r length curve entries) l 0x11#8 .badPriority s := by
  apply refused_of_eq
  simp only [exec_submitOrder, execSubmitOrder, if_neg hroom, hp]

variable (hp : priorityOfByte pr = some p)
include hp

theorem submitOrder_refuses_badTag (htag : tag.toNat = 0 ∨ 999999 < tag.toNat) :
    RefusedWith (.submitOrder l pr tag r length curve entries) l 0x11#8 .badTag s := by
  apply refused_of_eq
  simp only [exec_submitOrder, execSubmitOrder, if_neg hroom, hp, if_pos htag]

variable (htag : ¬ (tag.toNat = 0 ∨ 999999 < tag.toNat))
include htag

theorem submitOrder_refuses_badGeometry
    (hgeo : ¬ GeometryAdmitted (readSettings s.store).diameter r.toNat length.toNat curve.toNat) :
    RefusedWith (.submitOrder l pr tag r length curve entries) l 0x11#8 .badGeometry s := by
  rw [← goodGeometry_iff, Bool.not_eq_true] at hgeo
  apply refused_of_eq
  simp only [exec_submitOrder, execSubmitOrder, if_neg hroom, hp, if_neg htag, if_pos hgeo]

variable (hgeo : GeometryAdmitted (readSettings s.store).diameter r.toNat length.toNat curve.toNat)
include hgeo

theorem submitOrder_refuses_badDestination (hlist : ¬ ListAdmitted s.store entries) :
    RefusedWith (.submitOrder l pr tag r length curve entries) l 0x11#8 .badDestination s := by
  rw [← goodDestinations_iff, Bool.not_eq_true] at hlist
  rw [← goodGeometry_iff] at hgeo
  apply refused_of_eq
  simp only [exec_submitOrder, execSubmitOrder, if_neg hroom, hp, if_neg htag, hgeo, Bool.true_eq_false, if_false,
    if_pos hlist]

/-- The one refusal whose result has a value: the list position that check 6 names. -/
theorem exec_submitOrder_incompatible (hlist : ListAdmitted s.store entries)
    (hk : firstIncompatible s.store (iocOf (readSettings s.store).diameter r.toNat)
      (samplesOf (readSettings s.store).diameter r.toNat) entries = some k) :
    exec (.submitOrder l pr tag r length curve entries) s = .next (postResult l 0x11#8 .incompatible k s) := by
  rw [← goodDestinations_iff] at hlist
  rw [← goodGeometry_iff] at hgeo
  simp only [exec_submitOrder, execSubmitOrder, if_neg hroom, hp, if_neg htag, hgeo, hlist, Bool.true_eq_false, if_false, hk]

end Refusals

/-- Settles O11: the checks are taken in the order of R8, each under those before it passed. -/
theorem submitRefusesByTheFirstFailingCheck : Obligations.SubmitRefusesByTheFirstFailingCheck := by
  unfold Obligations.SubmitRefusesByTheFirstFailingCheck
  rintro l pr tag r length curve entries s i d rfl rfl
  refine ⟨submitOrder_refuses_bookFull, fun hplaces hsequence => ?_⟩
  have hroom : ¬ (bookPlaces ≤ s.book.orders.length ∨ lastSequence < s.book.sequence) := by
    unfold bookPlaces lastSequence; omega
  refine ⟨fun hpr => submitOrder_refuses_badPriority hroom ((priorityOfByte_eq_none_iff pr).mpr hpr), fun hpr => ?_⟩
  obtain ⟨p, hp⟩ := priorityOfByte_of_le hpr
  refine ⟨submitOrder_refuses_badTag hroom hp, fun hlow hhigh => ?_⟩
  have htag : ¬ (tag.toNat = 0 ∨ 999999 < tag.toNat) := by omega
  refine ⟨submitOrder_refuses_badGeometry hroom hp htag, fun hgeo => ?_⟩
  refine ⟨submitOrder_refuses_badDestination hroom hp htag hgeo, fun hlist k hk hfails hbefore => ?_⟩
  have hfirst := firstIncompatible_eq_some hk hfails hbefore
  exact ⟨_, exec_submitOrder_incompatible hroom hp htag hgeo hlist hfirst, postResult_posted _ _ _ _ _,
    postResult_moves _ _ _ _ _⟩

end Sys2Proof.Machine
end

section
/-! PROOF. MOUNT CONFIRM (R63): the answer at the first check that fails, the state that a taken confirm leaves for the
selection, and the statement assembled from them. -/

namespace Sys2Proof.Machine

theorem exec_mountConfirm (l : Link) (tag : BitVec 24) (s : State) :
    exec (.mountConfirm l tag) s = execMountConfirm l tag s := by
  rfl

/-! ### The answer at the first check that fails -/

/-- Check 1, by the mount state. -/
theorem mountConfirm_refuses_notRequested {l : Link} {tag : BitVec 24} {s : State} (hmount : ∀ t, s.mount ≠ .requested t) :
    RefusedWith (.mountConfirm l tag) l 0x15#8 .notRequested s := by
  apply refused_of_eq
  rw [exec_mountConfirm, execMountConfirm]
  cases h : s.mount with
  | requested t => exact absurd h (hmount t)
  | empty => rfl
  | mounted _ => rfl
  | unmountRequested _ => rfl

section RequestedPrint
/-! Each check that passes becomes a hypothesis of the checks after it. -/

variable {l : Link} {tag : BitVec 24} {s : State} {t : Nat} (hmount : s.mount = .requested t)
include hmount

theorem mountConfirm_refuses_wrongTag (htag : tag.toNat ≠ t) :
    RefusedWith (.mountConfirm l tag) l 0x15#8 .wrongTag s := by
  apply refused_of_eq
  simp only [exec_mountConfirm, execMountConfirm, hmount, if_pos htag]

variable (htag : tag.toNat = t)
include htag

theorem mountConfirm_refuses_clampOpen (hclamp : s.pins.clamp = false) :
    RefusedWith (.mountConfirm l tag) l 0x15#8 .clampOpen s := by
  apply refused_of_eq
  simp only [exec_mountConfirm, execMountConfirm, hmount, if_neg (not_not_intro htag), if_pos hclamp]

variable (hclamp : s.pins.clamp = true)
include hclamp

theorem mountConfirm_refuses_drumTurning (hdrum : s.drum.state ≠ .stopped) :
    RefusedWith (.mountConfirm l tag) l 0x15#8 .drumTurning s := by
  apply refused_of_eq
  simp only [exec_mountConfirm, execMountConfirm, hmount, if_neg (not_not_intro htag), hclamp, Bool.true_eq_false, if_false,
    if_pos hdrum]

theorem exec_mountConfirm_taken (hdrum : s.drum.state = .stopped) :
    exec (.mountConfirm l tag) s = .next (finishStep (confirmMount t (postResult l 0x15#8 .ok 0 s))) := by
  simp only [exec_mountConfirm, execMountConfirm, hmount, if_neg (not_not_intro htag), hclamp, Bool.true_eq_false, if_false,
    if_neg (not_not_intro hdrum)]

end RequestedPrint

/-! ### The print confirmed -/

@[simp] theorem confirmMount_links (tag : Nat) (s : State) : (confirmMount tag s).links = s.links := rfl
@[simp] theorem confirmMount_mount (tag : Nat) (s : State) : (confirmMount tag s).mount = .mounted tag := rfl
@[simp] theorem confirmMount_selectDue (tag : Nat) (s : State) : (confirmMount tag s).selectDue = true := rfl

theorem confirmMount_moves (tag : Nat) (s : State) : Moves [.book, .mount, .selectDue] s (confirmMount tag s) := by
  have hmount : Moves [.mount] s { s with mount := .mounted tag } := by
    intro p hp
    cases p
    case mount => exact absurd (List.mem_singleton_self _) hp
    all_goals rfl
  exact (hmount.andThen (moveOrders_moves .mountRequested .onDrum _) (rs := [.book, .mount]) (by decide) (by decide)).andThen
    (markSelection_moves _) (by decide) (by decide)

/-- The order that asked for the print is ON DRUM; every order keeps all its other fields. -/
theorem findOrder_confirmMount (tag n : Nat) (s : State) :
    findOrder (confirmMount tag s) n = (findOrder s n).map fun x =>
      { x with state := if x.state = .mountRequested then .onDrum else x.state } := by
  calc findOrder (confirmMount tag s) n
      = findOrder (moveOrders .mountRequested .onDrum { s with mount := .mounted tag }) n := findOrder_congr rfl n
    _ = (findOrder s n).map fun x => if x.state = .mountRequested then { x with state := .onDrum } else x :=
        findOrder_moveOrders _ _ _ _
    _ = _ := by
        congr 1
        funext x
        split <;> rfl

/-- The result record of a link is not touched by an operation that leaves the links alone. -/
theorem Posted.of_links {l : Link} {b : Byte} {r : ResultCode} {v : Nat} {s t u : State} (h : Posted l b r v s t)
    (hlinks : u.links = t.links) : Posted l b r v s u := by
  simpa only [Posted, OnlyLink, hlinks] using h

/-- Settles O26: the checks are taken in the order of R63, each under those before it passed; a taken confirm posts OK and
confirms the print. -/
theorem mountConfirmChecksInOrder : Obligations.MountConfirmChecksInOrder := by
  unfold Obligations.MountConfirmChecksInOrder
  rintro l tag s i rfl
  refine ⟨mountConfirm_refuses_notRequested, fun t hmount => ⟨mountConfirm_refuses_wrongTag hmount, fun htag =>
    ⟨mountConfirm_refuses_clampOpen hmount htag, fun hclamp =>
      ⟨mountConfirm_refuses_drumTurning hmount htag hclamp, fun hdrum => ?_⟩⟩⟩⟩
  refine ⟨confirmMount t (postResult l 0x15#8 .ok 0 s), exec_mountConfirm_taken hmount htag hclamp hdrum,
    confirmMount_selectDue _ _, (postResult_posted _ _ _ _ _).of_links (confirmMount_links _ _),
    (postResult_moves _ _ _ _ _).andThen (confirmMount_moves _ _) (by decide) (by decide), confirmMount_mount _ _,
    fun n x hx => ?_⟩
  have hkept : findOrder (postResult l 0x15#8 .ok 0 s) n = some x := (findOrder_congr rfl n).trans hx
  rw [findOrder_confirmMount, hkept, Option.map_some]

end Sys2Proof.Machine
end

section
/-! PROOF. What every command keeps: the invariants of the parts of the state, one relation from a state to a later one that each
shared operation and each command meets. O57 to O59, O60 and O2 are read off it. -/

namespace Sys2Proof.Machine

/-! ### The invariants of each part -/

/-- A link whose attention output follows its set and mask (R179). -/
def LinkAgrees (ls : LinkState) : Prop := ls.attention = attentionOf ls

/-- A channel that is off hook only in a call or its RELEASE, with at most 6 retake entries, no two of one line (R101, R133). -/
def ChannelCoherent (ch : Channel) : Prop :=
  (ch.hook = .offHook → inCall ch.state = true ∨ ch.state = .release) ∧
    ch.queue.length ≤ 6 ∧ (ch.queue.map RetakeEntry.line).Nodup

/-- What a step from `s` to `t` has to keep of a part: its invariant, where it has one. The queue of commands stays. -/
def Part.keeps (p : Part) (s t : State) : Prop :=
  match p with
  | .links => AttentionAgrees s → AttentionAgrees t
  | .book => s.book.orders.length ≤ 16 ∧ OrdersDistinct s → t.book.orders.length ≤ 16 ∧ OrdersDistinct t
  | .log => s.log.length ≤ 32 ∧ RecordsDistinct s → t.log.length ≤ 32 ∧ RecordsDistinct t
  | .lineStore => StoreCanonical s → StoreCanonical t
  | .drum => DrumCoherent s → DrumCoherent t
  | .printer => SlipCoherent s → SlipCoherent t
  | .channels => (∀ c, ChannelCoherent (s.channels.get c)) → ∀ c, ChannelCoherent (t.channels.get c)
  | .pending => t.pending = s.pending
  | _ => True

/-- The parts of which nothing has to be kept. -/
def Part.quiet : Part → Bool
  | .links | .book | .log | .lineStore | .drum | .printer | .channels | .pending => false
  | _ => true

/-- From `s` to `t` every invariant is kept. -/
def Keeps (s t : State) : Prop := ∀ p : Part, p.keeps s t

theorem Part.keeps_of_same {p : Part} {s t : State} (h : p.same s t) : p.keeps s t := by
  cases p <;>
    simp_all [Part.same, Part.keeps, AttentionAgrees, OrdersDistinct, RecordsDistinct, StoreCanonical, DrumCoherent, SlipCoherent]

theorem Part.keeps_of_quiet {p : Part} (s t : State) (h : p.quiet = true) : p.keeps s t := by
  cases p <;> trivial

theorem Keeps.refl (s : State) : Keeps s s := fun p => Part.keeps_of_same (by cases p <;> rfl)

theorem Keeps.trans {s t u : State} (h : Keeps s t) (k : Keeps t u) : Keeps s u := by
  intro p
  have hp := h p
  have kp := k p
  cases p
  case pending => exact Eq.trans kp hp
  all_goals first | exact fun hs => kp (hp hs) | trivial

/-- An operation that changes no part with an invariant but `q` has `q`'s to keep. -/
theorem Moves.keeps_part {ps : List Part} {s t : State} (h : Moves ps s t) (q : Part) (hq : ∀ p ∈ ps, p = q ∨ p.quiet = true)
    (k : q.keeps s t) : Keeps s t := by
  intro p
  by_cases hp : p ∈ ps
  · rcases hq p hp with rfl | hquiet
    · exact k
    · exact Part.keeps_of_quiet s t hquiet
  · exact Part.keeps_of_same (h p hp)

/-- An operation that changes no part with an invariant keeps them all. -/
theorem Moves.keeps {ps : List Part} {s t : State} (h : Moves ps s t) (hq : ∀ p ∈ ps, p.quiet = true) : Keeps s t := by
  intro p
  by_cases hp : p ∈ ps
  · exact Part.keeps_of_quiet s t (hq p hp)
  · exact Part.keeps_of_same (h p hp)

end Sys2Proof.Machine
end

section
/-! PROOF. What the operations on links, the book, the log, the line store, the channels, the drum and the rounds keep, one lemma
each. -/

namespace Sys2Proof.Machine

/-! ### Links, the book and the log -/

/-- A link replaced by one whose attention output agrees where the old one's did. -/
theorem setLink_keeps (l : Link) (s : State) (v : LinkState) (h : LinkAgrees (s.links.get l) → LinkAgrees v) :
    Keeps s { s with links := s.links.set l v } := by
  have hm : Moves [.links] s { s with links := s.links.set l v } := by
    intro p hp; cases p <;> first | rfl | exact absurd (by decide) hp
  refine hm.keeps_part .links (by decide) fun hs k => ?_
  by_cases hk : k = l
  · subst hk
    show LinkAgrees _
    rw [PerLink.get_set]
    exact h (hs k)
  · simpa [hk] using hs k

theorem judgeAttention_agrees (ls : LinkState) : LinkAgrees (judgeAttention ls) := rfl

theorem postResult_keeps (l : Link) (b : Byte) (r : ResultCode) (v : Nat) (s : State) : Keeps s (postResult l b r v s) :=
  setLink_keeps l s _ id

theorem setAssembly_keeps (l : Link) (a : Assembly) (s : State) : Keeps s (setAssembly l a s) := setLink_keeps l s _ id

theorem takeAnswer_keeps (l : Link) (b a : List Byte) (s : State) : Keeps s (takeAnswer l b a s) := setAssembly_keeps l _ s

theorem noticeTo_keeps (l : Link) (n : Notice) (s : State) : Keeps s (noticeTo l n s) :=
  setLink_keeps l s _ fun _ => judgeAttention_agrees _

theorem noticeBoth_keeps (n : Notice) (s : State) : Keeps s (noticeBoth n s) :=
  (noticeTo_keeps .desk n s).trans (noticeTo_keeps .dispatch n _)

/-- A change of the book that brings no number in (R2). -/
theorem keeps_of_orders_shrink {s t : State} (hm : Moves [.book] s t)
    (h : (t.book.orders.map Order.number).Sublist (s.book.orders.map Order.number)) : Keeps s t :=
  hm.keeps_part .book (by decide) fun ⟨hlen, hd⟩ => ⟨by simpa using Nat.le_trans h.length_le (by simpa using hlen), hd.sublist h⟩

/-- A change of order records one by one keeps their numbers. -/
theorem mapOrders_keeps {s : State} {g : Order → Order} (hg : ∀ o, (g o).number = o.number) :
    Keeps s { s with book := { s.book with orders := s.book.orders.map g } } := by
  refine keeps_of_orders_shrink (by intro p hp; cases p <;> first | rfl | exact absurd (by decide) hp) ?_
  simp [Function.comp_def, hg]

theorem modOrder_keeps (n : Nat) (f : Order → Order) (s : State)
    (hf : ∀ o, (f o).number = o.number := by intro _; rfl) : Keeps s (modOrder n f s) :=
  mapOrders_keeps fun o => by split <;> simp [hf]

theorem setOrderState_keeps (n : Nat) (a : OrderState) (s : State) : Keeps s (setOrderState n a s) :=
  modOrder_keeps n _ s

theorem modDest_keeps (n i : Nat) (f : Destination → Destination) (s : State) : Keeps s (modDest n i f s) :=
  modOrder_keeps n _ s

theorem moveOrders_keeps (a b : OrderState) (s : State) : Keeps s (moveOrders a b s) :=
  mapOrders_keeps fun o => by split <;> rfl

theorem markSelection_keeps (s : State) : Keeps s (markSelection s) := (markSelection_moves s).keeps (by decide)

theorem jumpTo_keeps (t : Nat) (s : State) : Keeps s (jumpTo t s) := (jumpTo_moves t s).keeps (by decide)

theorem jumpPast_keeps (t : Timer) (n : Nat) (s : State) : Keeps s (jumpPast t n s) := (jumpPast_moves t n s).keeps (by decide)

theorem appendRef_keeps (r : FilingRef) (s : State) : Keeps s (appendRef r s) := (appendRef_moves r s).keeps (by decide)

theorem leaveBook_keeps (n : Nat) (s : State) : Keeps s (leaveBook n s) := by
  have hfilter : Keeps s { s with book := { s.book with orders := s.book.orders.filter fun o => o.number ≠ n } } :=
    keeps_of_orders_shrink (by intro p hp; cases p <;> first | rfl | exact absurd (by decide) hp)
      (List.filter_sublist.map _)
  exact (hfilter.trans (markSelection_keeps _)).trans (noticeBoth_keeps _ _)

theorem finishOrder_keeps (n : Nat) (s : State) : Keeps s (finishOrder n s) := by
  unfold finishOrder; split
  · exact setOrderState_keeps _ _ _
  · exact leaveBook_keeps _ _

theorem settleOrder_keepsAll (n : Nat) (s : State) : Keeps s (settleOrder n s) := by
  unfold settleOrder; split
  · exact Keeps.refl _
  · split
    · exact finishOrder_keeps _ _
    · exact Keeps.refl _

/-- Records that leave the log take no number along that stays (R145). -/
theorem keeps_of_log_shrinks {s t : State} (hm : Moves [.log] s t) (h : LogShrinks s t) : Keeps s t :=
  hm.keeps_part .log (by decide) fun ⟨hlen, hd⟩ => ⟨by simpa using Nat.le_trans h.length_le (by simpa using hlen), h.distinct hd⟩

theorem modRecord_keeps (f : Nat) (g : Receipt → Receipt) (s : State)
    (hg : ∀ r, (g r).filing = r.filing := by intro _; rfl) : Keeps s (modRecord f g s) := keeps_of_log_shrinks (modRecord_moves f g s) (modRecord_shrinks f g hg s)

theorem testRemoval_keeps (q : Receipt → Bool) (s : State) : Keeps s (testRemoval q s) :=
  keeps_of_log_shrinks (testRemoval_moves q s) (List.filter_sublist.map _)

theorem testRecord_keeps (f : Nat) (s : State) : Keeps s (testRecord f s) := testRemoval_keeps _ s

theorem dropPending_keeps (s : State) : Keeps s (dropPending s) :=
  keeps_of_log_shrinks (dropPending_moves s) (dropPending_shrinks s)

/-! ### The line store, the channels, the drum and the printer -/

theorem setLineStore_keeps {s : State} {ls : LineStore} (h : s.lineStore.wf = true → ls.wf = true) :
    Keeps s { s with lineStore := ls } :=
  Moves.keeps_part (ps := [.lineStore]) (by intro p hp; cases p <;> first | rfl | exact absurd (by decide) hp) .lineStore
    (by decide) h

theorem releaseMark_keeps (c : Chan) (n : Nat) (s : State) : Keeps s { s with lineStore := releaseMark c n s.lineStore } :=
  setLineStore_keeps (releaseMark_wf c n _)

theorem releaseAll_keeps (c : Chan) (s : State) : Keeps s { s with lineStore := releaseAll c s.lineStore } :=
  setLineStore_keeps (releaseAll_wf c _)

theorem flushLines_keeps (s : State) : Keeps s { s with lineStore := flushLines s.lineStore } :=
  setLineStore_keeps fun _ => flushLines_wf _

theorem setFiling_moves (s : State) (q : List FilingRef) : Moves [.filing] s { s with filing := q } := by
  intro p hp; cases p <;> first | rfl | exact absurd (by decide) hp

theorem setFiling_keeps (s : State) (q : List FilingRef) : Keeps s { s with filing := q } := (setFiling_moves s q).keeps (by decide)

theorem setRound_moves (s : State) (r : Round) : Moves [.round] s { s with round := r } := by
  intro p hp; cases p <;> first | rfl | exact absurd (by decide) hp

theorem setRound_keeps (s : State) (r : Round) : Keeps s { s with round := r } := (setRound_moves s r).keeps (by decide)

theorem setHead_moves (s : State) (h : Head) : Moves [.head] s { s with head := h } := by
  intro p hp; cases p <;> first | rfl | exact absurd (by decide) hp

theorem setHead_keeps (s : State) (h : Head) : Keeps s { s with head := h } := (setHead_moves s h).keeps (by decide)

theorem setMount_moves (s : State) (m : Mount) : Moves [.mount] s { s with mount := m } := by
  intro p hp; cases p <;> first | rfl | exact absurd (by decide) hp

theorem setMount_keeps (s : State) (m : Mount) : Keeps s { s with mount := m } := (setMount_moves s m).keeps (by decide)

theorem setPins_moves (s : State) (x : Pins) : Moves [.pins] s { s with pins := x } := by
  intro p hp; cases p <;> first | rfl | exact absurd (by decide) hp

theorem setPins_keeps (s : State) (x : Pins) : Keeps s { s with pins := x } := (setPins_moves s x).keeps (by decide)

theorem setConverter_moves (s : State) (x : Converter) : Moves [.converter] s { s with converter := x } := by
  intro p hp; cases p <;> first | rfl | exact absurd (by decide) hp

theorem setConverter_keeps (s : State) (x : Converter) : Keeps s { s with converter := x } :=
  (setConverter_moves s x).keeps (by decide)

theorem setStore_moves (s : State) (x : Store) : Moves [.store] s { s with store := x } := by
  intro p hp; cases p <;> first | rfl | exact absurd (by decide) hp

theorem setStore_keeps (s : State) (x : Store) : Keeps s { s with store := x } := (setStore_moves s x).keeps (by decide)

theorem setDrum_moves (s : State) (d : Drum) : Moves [.drum] s { s with drum := d } := by
  intro p hp; cases p <;> first | rfl | exact absurd (by decide) hp

theorem setDrum_keeps (s : State) (d : Drum) (h : DrumCoherent s → DrumCoherent { s with drum := d }) :
    Keeps s { s with drum := d } := (setDrum_moves s d).keeps_part .drum (by decide) h

theorem modPrinter_keeps (f : Printer → Printer) (s : State) (h : SlipCoherent s → SlipCoherent (modPrinter f s)) :
    Keeps s (modPrinter f s) := (modPrinter_moves f s).keeps_part .printer (by decide) h

/-- A change of one channel that leaves it coherent. -/
theorem modChan_keeps (c : Chan) (f : Channel → Channel) (s : State)
    (h : ChannelCoherent (s.channels.get c) → ChannelCoherent (f (s.channels.get c))) : Keeps s (modChan c f s) := by
  refine (modChan_moves c f s).keeps_part .channels (by decide) fun hs d => ?_
  by_cases hd : d = c
  · subst hd; simpa using h (hs d)
  · simpa [modChan_get_ne, hd] using hs d

/-- A channel in a call or its RELEASE may be off hook. -/
theorem ChannelCoherent.inState {ch u : Channel} (h : ChannelCoherent ch) (hs : inCall u.state = true ∨ u.state = .release)
    (hq : u.queue = ch.queue) : ChannelCoherent u := ⟨fun _ => hs, by rw [hq]; exact h.2⟩

/-- A channel whose retake queue was emptied. -/
theorem ChannelCoherent.emptied {u : Channel} (hs : inCall u.state = true ∨ u.state = .release) (hq : u.queue = []) :
    ChannelCoherent u := ⟨fun _ => hs, by simp [hq]⟩

/-- A channel on hook. -/
theorem ChannelCoherent.onHook {ch u : Channel} (h : ChannelCoherent ch) (hs : u.hook = .onHook) (hq : u.queue = ch.queue) :
    ChannelCoherent u := ⟨fun hk => absurd (hs.symm.trans hk) (by decide), by rw [hq]; exact h.2⟩

/-- A channel in no call and not in RELEASE is on hook (R101). -/
theorem ChannelCoherent.hook {ch : Channel} (h : ChannelCoherent ch) (h1 : inCall ch.state = false) (h2 : ch.state ≠ .release) :
    ch.hook = .onHook := by
  cases hk : ch.hook with
  | onHook => rfl
  | offHook => simp_all [h.1 hk |>.resolve_right h2]

theorem sendFrames_keeps (c : Chan) (fs : List ForwardFrame) (s : State) : Keeps s (sendFrames c fs s) :=
  modChan_keeps c _ s id

theorem closeCall_keeps (c : Chan) (e : CallEnding) (s : State) : Keeps s (closeCall c e s) := by
  refine (closeCall_moves c e s).keeps_part .channels (by decide) fun hs d => ?_
  by_cases hd : d = c
  · subst hd
    refine ChannelCoherent.emptied ?_ ?_
    all_goals
      simp only [closeCall, PerChan.get_set, clearPicture]
      split <;> simp
  · rw [closeCall_get_ne e s hd]; exact hs d

theorem enterAnnounce_keeps (c : Chan) (s : State) : Keeps s (enterAnnounce c s) :=
  modChan_keeps c _ s fun h => h.inState (.inl rfl) rfl

theorem cutDrive_keeps (s : State) : Keeps s (cutDrive s) := by
  unfold cutDrive; split
  · exact setDrum_keeps s _ fun h => ⟨rfl, h.2.1, fun hst => by cases hst⟩
  · exact Keeps.refl s

theorem startIdle_keeps (s : State) : Keeps s (startIdle s) := by
  unfold startIdle; split
  · exact setDrum_keeps s _ id
  · exact Keeps.refl s

theorem spinCommand_keeps (k : LpmClass) (s : State) : Keeps s (spinCommand k s) := by
  refine (spinCommand_moves k s).keeps_part .drum (by decide) fun h => ?_
  obtain ⟨htarget, hdrive, hstopped⟩ := h
  unfold spinCommand DrumCoherent
  dsimp only
  cases hst : s.drum.state <;> simp only
  case locked =>
    split
    · rename_i hk; simp [turning, hst, hk, hdrive]
    · simp [turning, hdrive]
  case spinning => simp [turning, hdrive]
  all_goals simp [turning]

theorem headHome_keeps (s : State) : Keeps s (headHome s) := (headHome_moves s).keeps (by decide)
theorem startReturn_keeps (s : State) : Keeps s (startReturn s) := (startReturn_moves s).keeps (by decide)
theorem commandReturn_keeps (s : State) : Keeps s (commandReturn s) := (commandReturn_moves s).keeps (by decide)

theorem requestMount_keeps (tag n : Nat) (s : State) : Keeps s (requestMount tag n s) :=
  ((cutDrive_keeps s).trans (setMount_keeps _ _)).trans (noticeBoth_keeps _ _)

theorem withdrawMountRequest_keeps (s : State) : Keeps s (withdrawMountRequest s) := by
  unfold withdrawMountRequest; split
  · exact ((setMount_keeps _ _).trans (markSelection_keeps _)).trans (noticeBoth_keeps _ _)
  · exact Keeps.refl s

theorem requestUnmount_keeps (s : State) : Keeps s (requestUnmount s) := by
  unfold requestUnmount; split
  · exact ((cutDrive_keeps s).trans (setMount_keeps _ _)).trans (noticeBoth_keeps _ _)
  · exact Keeps.refl s

/-! ### Rounds and calls -/

theorem Keeps.andIf {p : Prop} [Decidable p] {s t u : State} (h : Keeps s t) (k : Keeps t u) :
    Keeps s (if p then u else t) := by
  split
  · exact h.trans k
  · exact h


theorem closeRound_keeps (s : State) : Keeps s (closeRound s) := by
  have h1 : Keeps s (markSelection (startIdle { s with round := Round.none })) :=
    ((setRound_keeps s _).trans (startIdle_keeps _)).trans (markSelection_keeps _)
  unfold closeRound
  dsimp only
  split
  · exact h1
  · split
    · exact h1
    · split
      · exact (h1.trans (requestUnmount_keeps _)).trans (finishOrder_keeps _ _)
      · exact h1

theorem closeIfDone_keeps (s : State) : Keeps s (closeIfDone s) := by
  unfold closeIfDone; split
  · exact closeRound_keeps s
  · exact Keeps.refl s

theorem startScanning_keeps (s : State) : Keeps s (startScanning s) :=
  (startScanning_moves s).keeps_part .lineStore (by decide) id

theorem testStart_keeps (s : State) : Keeps s (testStart s) := by
  unfold testStart; split
  · exact startScanning_keeps s
  · exact Keeps.refl s

theorem cutScanShort_keeps (s : State) : Keeps s (cutScanShort s) :=
  ((setRound_keeps s { s.round with state := .draining }).trans (flushLines_keeps _)).trans (commandReturn_keeps _)

theorem drainOut_keeps (s : State) : Keeps s (drainOut s) := by
  unfold drainOut
  dsimp only
  split
  · exact (flushLines_keeps s).trans (commandReturn_keeps _)
  · exact flushLines_keeps s

theorem afterLeaving_keeps (s : State) : Keeps s (afterLeaving s) := by
  unfold afterLeaving
  split
  · exact Keeps.refl s
  · split
    · exact closeRound_keeps s
    · exact testStart_keeps s
  · split
    · exact (cutScanShort_keeps s).trans (closeIfDone_keeps _)
    · exact Keeps.refl s
  · split
    · exact (drainOut_keeps s).trans (closeIfDone_keeps _)
    · exact Keeps.refl s

theorem leaveRound_keeps (c : Chan) (s : State) : Keeps s (leaveRound c s) := by
  unfold leaveRound; split
  · exact ((setRound_keeps s _).trans (releaseAll_keeps c _)).trans (afterLeaving_keeps _)
  · exact Keeps.refl s

theorem reportOutcome_keeps (c : Chan) (o : CallOutcome) (r : Option Report) (s : State) : Keeps s (reportOutcome c o r s) := by
  unfold reportOutcome
  dsimp only
  split
  · exact Keeps.refl s
  · split
    · exact Keeps.refl s
    · split
      · split
        · exact modDest_keeps _ _ _ s
        · exact ((modDest_keeps _ _ _ s).trans (appendRef_keeps _ _)).trans (settleOrder_keepsAll _ _)
      · exact Keeps.refl s

theorem endWithOutcome_keepsAll (c : Chan) (o : CallOutcome) (r : Option Report) (s : State) :
    Keeps s (endWithOutcome c o r s) :=
  ((reportOutcome_keeps c o r s).trans (closeCall_keeps c _ _)).trans (leaveRound_keeps c _)

theorem returnDest_keeps (n i : Nat) (s : State) : Keeps s (returnDest n i s) := by
  unfold returnDest; split
  · exact Keeps.refl s
  · split
    · exact (modDest_keeps _ _ _ s).trans (markSelection_keeps _)
    · exact Keeps.refl s

theorem returnMember_keeps (c : Chan) (s : State) : Keeps s (returnMember c s) := by
  unfold returnMember; split
  · exact returnDest_keeps _ _ s
  · exact Keeps.refl s

theorem returnMembers_keeps (s : State) : Keeps s (returnMembers s) :=
  (((returnMember_keeps _ s).trans (returnMember_keeps _ _)).trans (returnMember_keeps _ _)).trans (returnMember_keeps _ _)

theorem releaseMember_keeps (c : Chan) (s : State) : Keeps s (releaseMember c s) := by
  unfold releaseMember; split
  · exact ((setRound_keeps s _).trans (releaseAll_keeps c _)).trans (closeCall_keeps c _ _)
  · exact Keeps.refl s

theorem releaseMembers_keeps (s : State) : Keeps s (releaseMembers s) :=
  (((releaseMember_keeps _ s).trans (releaseMember_keeps _ _)).trans (releaseMember_keeps _ _)).trans (releaseMember_keeps _ _)

theorem abortRound_keeps (s : State) : Keeps s (abortRound s) := by
  unfold abortRound; split
  · exact Keeps.refl s
  · exact (releaseMembers_keeps s).trans (closeRound_keeps _)
  · exact ((releaseMembers_keeps s).trans (cutScanShort_keeps _)).trans (closeIfDone_keeps _)
  · exact ((releaseMembers_keeps s).trans (drainOut_keeps _)).trans (closeIfDone_keeps _)

theorem abortForFault_keeps (k : DrumCause) (s : State) : Keeps s (abortForFault k s) :=
  ((returnMembers_keeps s).trans (abortRound_keeps _)).trans (noticeBoth_keeps _ _)

theorem raiseTrouble_keeps (c : Chan) (n : Nat) (s : State) : Keeps s (raiseTrouble c n s) := by
  have hrise : ∀ t : Nat, Keeps s (modChan c (fun ch => { ch with trouble := t }) s) := fun t => modChan_keeps c _ s id
  unfold raiseTrouble
  refine Keeps.andIf ?_ (endWithOutcome_keepsAll c _ _ _)
  split
  · split
    · exact hrise _
    · exact ((hrise _).trans (modChan_keeps c _ _ id)).trans (noticeBoth_keeps _ _)
  · exact hrise _

/-! ### Selection -/

theorem beginCall_keeps (c : Chan) (n i : Nat) (s : State) : Keeps s (beginCall c n i s) := by
  unfold beginCall
  split
  · exact Keeps.refl s
  · split
    · exact Keeps.refl s
    · dsimp only
      have hbook := (modDest_keeps n i (sendingDest s) s).trans (modOrder_keeps n (fun o => { o with attempted := true }) _)
      have hfresh := fun call => hbook.trans (modChan_keeps c (freshCall call) _ fun h => ⟨h.1, by simp [freshCall]⟩)
      split
      · exact (hfresh _).trans (modChan_keeps c _ _ fun h => h.inState (.inl rfl) rfl)
      · exact (hfresh _).trans (enterAnnounce_keeps c _)

end Sys2Proof.Machine
end

section
/-! PROOF. What selection, round assembly, admission and the transfer of references keep; the numbers of R2 and R23 that come in are
free ones. -/

namespace Sys2Proof.Machine

theorem failDest_keeps (n : Nat) (s : State) (i : Nat) : Keeps s (failDest n s i) :=
  (modDest_keeps n i _ s).trans (appendRef_keeps _ _)

theorem foldl_failDest_keeps (n : Nat) (is : List Nat) (s : State) : Keeps s (is.foldl (failDest n) s) := by
  induction is generalizing s with
  | nil => exact Keeps.refl s
  | cons i is ih => exact (failDest_keeps n s i).trans (ih _)

theorem assignMember_keeps (n : Nat) (c : Chan) (m : Option Nat) (s : State) : Keeps s (assignMember n c m s) := by
  cases m with
  | none => exact Keeps.refl s
  | some i => exact modDest_keeps n i _ s

theorem beginMember_keeps (n : Nat) (c : Chan) (m : Option Nat) (s : State) : Keeps s (beginMember n c m s) := by
  cases m with
  | none => exact Keeps.refl s
  | some i => exact beginCall_keeps c n i s

theorem forMembers_keeps {f : Chan → Option Nat → State → State} (h : ∀ c m s, Keeps s (f c m s)) (m : PerChan (Option Nat))
    (s : State) : Keeps s (forMembers f m s) :=
  (((h _ _ _).trans (h _ _ _)).trans (h _ _ _)).trans (h _ _ _)

theorem formRound_keeps (n samples : Nat) (w : Walk) (s : State) : Keeps s (formRound n samples w s) := by
  have hassign := forMembers_keeps (assignMember_keeps n) w.members s
  have hround := (hassign.trans (setRound_keeps _ ⟨.assembling, some n, some (highestClass w.classes), w.members, false, samples⟩)).trans
    (setHead_keeps _ { (forMembers (assignMember n) w.members s).head with held := 0 })
  exact (hround.trans (spinCommand_keeps _ _)).trans (forMembers_keeps (beginMember_keeps n) w.members _)

theorem assemble_keeps (n : Nat) (s : State) : Keeps s (assemble n s).1 := by
  unfold assemble; split
  · split
    · exact Keeps.refl s
    · rename_i o _
      have hfail := foldl_failDest_keeps n (walkOrder s o).failed s
      dsimp only
      split
      · split
        · exact hfail
        · exact hfail.trans (settleOrder_keepsAll _ _)
      · exact (hfail.trans (formRound_keeps _ _ _ _)).trans (settleOrder_keepsAll _ _)
  · exact Keeps.refl s

theorem actOnChoice_keeps (o : Order) (s : State) : Keeps s (actOnChoice o s).1 := by
  unfold actOnChoice; split
  · exact Keeps.refl s
  · split
    · exact (moveOrders_keeps _ _ s).trans (setOrderState_keeps _ _ _)
    · split
      · exact Keeps.refl s
      · exact (((moveOrders_keeps _ _ s).trans (moveOrders_keeps _ _ _)).trans (setOrderState_keeps _ _ _)).trans
          (requestMount_keeps _ _ _)

theorem selectOrder_keeps (fuel : Nat) (s : State) : Keeps s (selectOrder fuel s) := by
  induction fuel generalizing s with
  | zero => exact Keeps.refl s
  | succ n ih =>
    unfold selectOrder
    split
    · exact Keeps.refl s
    · dsimp only
      split
      · split
        · exact ((actOnChoice_keeps _ s).trans (assemble_keeps _ _)).trans (ih _)
        · exact (actOnChoice_keeps _ s).trans (assemble_keeps _ _)
      · exact actOnChoice_keeps _ s

theorem setSelectDue_moves (s : State) (b : Bool) : Moves [.selectDue] s { s with selectDue := b } := by
  intro p hp; cases p <;> first | rfl | exact absurd (by decide) hp

theorem finishStep_keeps (s : State) : Keeps s (finishStep s) := by
  have hclear : ∀ t : State, Keeps t { t with selectDue := false } := fun t => (setSelectDue_moves t false).keeps (by decide)
  unfold finishStep
  dsimp only
  split
  · exact (selectOrder_keeps _ s).trans (hclear _)
  · exact hclear s

/-! ### Numbers that come in (R2, R23) -/

/-- Above the limit the search for a free number counts upward without end. -/
theorem freeNumber_above {limit : Nat} (used : List Nat) : ∀ (fuel n : Nat), limit < n → freeNumber limit used fuel n ∈ used →
    ∀ i, i < fuel → n + i ∈ used
  | 0, _, _, _ => fun i hi => absurd hi (Nat.not_lt_zero i)
  | fuel + 1, n, hn, hf => by
    by_cases hin : used.contains n = true
    · rw [freeNumber, if_pos hin, if_neg (by omega)] at hf
      intro i hi
      cases i with
      | zero => simpa using hin
      | succ j =>
        have := freeNumber_above used fuel (n + 1) (by omega) hf j (by omega)
        rwa [Nat.add_right_comm, Nat.add_assoc] at this
    · rw [freeNumber, if_neg hin] at hf
      exact absurd (by simpa using hf) hin

/-- As many different numbers as there are in use cannot all be in use with one more. -/
theorem not_all_used {used : List Nat} {f : Nat → Nat} (hf : ∀ i j, i < j → j ≤ used.length → f i ≠ f j)
    (h : ∀ i, i < used.length + 1 → f i ∈ used) : False := by
  have hn : ((List.range (used.length + 1)).map f).Nodup := by
    refine List.pairwise_map.mpr (List.pairwise_lt_range.imp_of_mem fun {i j} _ hj hij => hf i j hij ?_)
    have := List.mem_range.mp hj
    omega
  have hlen := length_le_of_subset _ used hn (by simpa using h)
  simp only [List.length_map, List.length_range] at hlen
  omega

/-- The search for a free number finds one from every start, as long as fewer numbers are in use than there are (R2, R23). -/
theorem freeNumber_fresh (limit : Nat) (used : List Nat) (start : Nat) (hl : used.length < limit) :
    freeNumber limit used (used.length + 1) start ∉ used := by
  intro hin
  rcases Nat.eq_zero_or_pos start with rfl | h1
  · have hzero : (0 : Nat) ∈ used := by
      refine Classical.byContradiction fun h0 => ?_
      rw [freeNumber, if_neg (by simpa using h0)] at hin
      exact h0 hin
    rw [freeNumber, if_pos (by simpa using hzero), if_neg (by omega)] at hin
    have hpassed := freeNumber_passed limit used used.length 1 (Nat.le_refl 1) (by omega) hin
    refine not_all_used (used := used) (f := id) (fun i j hij _ => Nat.ne_of_lt hij) fun i hi => ?_
    cases i with
    | zero => exact hzero
    | succ j =>
      have := hpassed j (by omega)
      rwa [Nat.sub_self, Nat.zero_add, Nat.mod_eq_of_lt (by omega)] at this
  · by_cases h2 : start ≤ limit
    · obtain ⟨_, _, hfree, _⟩ := freeNumber_free limit used start h1 h2 hl
      exact hfree hin
    · exact not_all_used (f := (start + ·)) (fun i j hij _ => by dsimp; omega)
        (freeNumber_above used _ start (by omega) hin)

theorem orderNumber_fresh {b : Book} (h : b.orders.length < 16) : orderNumber b ∉ b.orders.map Order.number := by
  have := freeNumber_fresh 9999 (b.orders.map Order.number) b.nextNumber (by rw [List.length_map]; omega)
  rwa [List.length_map] at this

theorem filingNumber_fresh {s : State} (h : s.log.length < 32) : filingNumber s ∉ s.log.map Receipt.filing := by
  have := freeNumber_fresh 65535 (s.log.map Receipt.filing) s.nextFiling (by rw [List.length_map]; omega)
  rwa [List.length_map] at this

/-- An order admitted under a free number while the book has room (R2, R9). -/
theorem admitOrder_keeps {o : Order} {s : State} (hroom : s.book.orders.length < 16)
    (hfree : o.number ∉ s.book.orders.map Order.number) : Keeps s (admitOrder o s) := by
  have hm : Moves [.book, .selectDue] s (admitOrder o s) := by
    intro p hp; cases p <;> first | rfl | exact absurd (by decide) hp
  refine hm.keeps_part .book (by decide) fun ⟨_, hd⟩ => ⟨?_, ?_⟩
  · simp only [admitOrder, List.length_append, List.length_singleton]; omega
  · simp only [OrdersDistinct, admitOrder, List.map_append, List.map_cons, List.map_nil]
    exact List.perm_append_comm.nodup (List.nodup_cons.mpr ⟨hfree, hd⟩)

/-- A record filed under the next filing number while the log has room (R23, R145). -/
theorem fileRecord_keeps {s t : State} {r : Receipt} (hm : Moves [.filing, .log, .nextFiling] s t)
    (hlog : t.log = s.log ++ [r]) (hnumber : r.filing = filingNumber s) (hroom : s.log.length < 32) : Keeps s t := by
  refine hm.keeps_part .log (by decide) fun ⟨_, hd⟩ => ⟨?_, ?_⟩
  · rw [hlog, List.length_append, List.length_singleton]; omega
  · simp only [RecordsDistinct, hlog, List.map_append, List.map_cons, List.map_nil, hnumber]
    exact List.perm_append_comm.nodup (List.nodup_cons.mpr ⟨filingNumber_fresh hroom, hd⟩)

theorem transferRef_keeps (ref : FilingRef) (rest : List FilingRef) (s : State) (hroom : s.log.length < 32) :
    Keeps s (transferRef ref rest s) := by
  unfold transferRef
  split
  · split
    · exact Keeps.refl s
    · rename_i o d _ _ _ oc _
      have hfile : Keeps s { s with filing := rest, log := s.log ++ [makeRecord s (filingNumber s) ref o d oc],
                                    nextFiling := numberAfter 65535 (filingNumber s) } := by
        refine fileRecord_keeps ?_ rfl rfl hroom
        intro p hp; cases p <;> first | rfl | exact absurd (by decide) hp
      exact (((hfile.trans (modDest_keeps _ _ _ _)).trans (noticeBoth_keeps _ _)).trans (settleOrder_keepsAll _ _)).trans
        (testRecord_keeps _ _)
  · exact Keeps.refl s

theorem fileRefs_keeps : ∀ (refs : List FilingRef) (s : State), Keeps s (fileRefs refs s)
  | [], s => Keeps.refl s
  | ref :: rest, s => by
    unfold fileRefs
    split
    · rename_i hroom
      exact (transferRef_keeps ref rest s hroom).trans (fileRefs_keeps rest _)
    · exact Keeps.refl s

theorem letThrough_keeps (places : Nat) (s : State) : Keeps s (letThrough places s) := by
  unfold letThrough; split
  · exact (fileRefs_keeps _ s).trans (finishStep_keeps _)
  · exact Keeps.refl s

end Sys2Proof.Machine
end

section
/-! PROOF. What RESET, the order commands, the line commands, the receipt commands and the store writes keep. -/

namespace Sys2Proof.Machine

/-! ### Commands -/

/-- A command answers a next state that keeps every invariant, with the scratch flag clear if it was (log entry 17). -/
def Answers (s : State) (o : Host.Outcome State Fault Refusal) : Prop :=
  ∃ t, o = .next t ∧ Keeps s t ∧ (StepDone s → StepDone t)

theorem Answers.next {s t : State} (h : Keeps s t) (hd : StepDone s → StepDone t) : Answers s (.next t) := ⟨t, rfl, h, hd⟩

theorem Answers.same (s : State) : Answers s (.next s) := .next (Keeps.refl s) id

theorem Answers.finish {s t : State} (h : Keeps s t) : Answers s (.next (finishStep t)) :=
  .next (h.trans (finishStep_keeps t)) fun _ => finishStep_selectDue t

theorem Moves.stepDone {ps : List Part} {s t : State} (h : Moves ps s t) (hp : Part.selectDue ∉ ps) (hs : StepDone s) :
    StepDone t := (h .selectDue hp).trans hs

theorem Answers.moves {s t : State} {ps : List Part} (k : Moves ps s t) (hp : Part.selectDue ∉ ps) (h : Keeps s t) :
    Answers s (.next t) := .next h (k.stepDone hp)

theorem Answers.posted (l : Link) (b : Byte) (r : ResultCode) (v : Nat) (s : State) : Answers s (.next (postResult l b r v s)) :=
  .next (postResult_keeps l b r v s) id

theorem Answers.copied (l : Link) (b a : List Byte) (s : State) : Answers s (.next (takeAnswer l b a s)) :=
  .next (takeAnswer_keeps l b a s) id

theorem letThrough_done (places : Nat) (s : State) (h : StepDone s) : StepDone (letThrough places s) := by
  unfold letThrough; split
  · exact finishStep_selectDue _
  · exact h

theorem Answers.letThrough {s t : State} (places : Nat) (h : Keeps s t) (hd : StepDone s → StepDone t) :
    Answers s (.next (letThrough places t)) := .next (h.trans (letThrough_keeps places t)) fun hs => letThrough_done _ _ (hd hs)

/-! ### Reset, orders and the mount -/

theorem reset_attentionAgrees : AttentionAgrees State.reset := fun l => by cases l <;> rfl
theorem reset_tablesBounded : TablesBounded State.reset := by constructor <;> decide
theorem reset_ordersDistinct : OrdersDistinct State.reset := List.nodup_nil
theorem reset_recordsDistinct : RecordsDistinct State.reset := List.nodup_nil
theorem reset_drumCoherent : DrumCoherent State.reset := ⟨rfl, Nat.zero_le _, fun _ => ⟨rfl, rfl⟩⟩
theorem reset_slipCoherent : SlipCoherent State.reset := rfl
theorem reset_channelCoherent : ChannelCoherent Channel.initial := ⟨(fun h => nomatch h), Nat.zero_le _, List.nodup_nil⟩
theorem reset_channels (c : Chan) : State.reset.channels.get c = Channel.initial := PerChan.get_all _ c

theorem printerAfterReset_rests (enabled paper : Bool) :
    printerAfterReset enabled paper ≠ .printing ∧ printerAfterReset enabled paper ≠ .waiting := by
  cases enabled <;> cases paper <;> decide

theorem execReset_answers (s : State) : Answers s (execReset s) := by
  refine .next (fun p => ?_) fun _ => rfl
  cases p
  case links => exact fun _ => reset_attentionAgrees
  case book => exact fun _ => ⟨reset_tablesBounded.1, reset_ordersDistinct⟩
  case log => exact fun _ => ⟨reset_tablesBounded.2, reset_recordsDistinct⟩
  case lineStore => exact fun _ => reset_lineStore_wf
  case drum => exact fun _ => reset_drumCoherent
  case printer =>
    intro _
    obtain ⟨h1, h2⟩ := printerAfterReset_rests (readSettings (storeAfterReset s.store)).printerEnabled s.pins.paper
    simp [SlipCoherent, State.reset, h1, h2]
  case channels => exact fun _ c => (reset_channels c).symm ▸ reset_channelCoherent
  case pending => rfl
  all_goals trivial

theorem execSubmitOrder_answers (l : Link) (pr : Byte) (tag : BitVec 24) (r : Byte) (length : Word) (curve : Byte)
    (entries : List Byte) (s : State) : Answers s (execSubmitOrder l pr tag r length curve entries s) := by
  unfold execSubmitOrder
  dsimp only
  split
  · exact .posted _ _ _ _ s
  · rename_i hroom
    simp only [bookPlaces, not_or, Nat.not_le] at hroom
    split
    · exact .posted _ _ _ _ s
    · split
      · exact .posted _ _ _ _ s
      · split
        · exact .posted _ _ _ _ s
        · split
          · exact .posted _ _ _ _ s
          · split
            · exact .posted _ _ _ _ s
            · exact .finish ((postResult_keeps _ _ _ _ s).trans
                (admitOrder_keeps hroom.1 (orderNumber_fresh (b := s.book) hroom.1)))

theorem execAddCaption_answers (l : Link) (order : Word) (chars : List Byte) (s : State) :
    Answers s (execAddCaption l order chars s) := by
  unfold execAddCaption
  dsimp only
  split
  · exact .posted _ _ _ _ s
  · split
    · exact .posted _ _ _ _ s
    · split
      · exact .posted _ _ _ _ s
      · split
        · exact .posted _ _ _ _ s
        · split <;> exact .next ((modOrder_keeps _ _ s).trans (postResult_keeps _ _ _ _ _)) id

theorem execAmendPriority_answers (l : Link) (order : Word) (priority : Byte) (s : State) :
    Answers s (execAmendPriority l order priority s) := by
  unfold execAmendPriority
  split
  · exact .posted _ _ _ _ s
  · split
    · exact .posted _ _ _ _ s
    · split
      · exact .posted _ _ _ _ s
      · split
        · exact .posted _ _ _ _ s
        · exact .finish (((postResult_keeps _ _ _ _ s).trans (modOrder_keeps _ _ _)).trans (markSelection_keeps _))

theorem withdrawDests_keeps (o : Order) (s : State) : Keeps s (withdrawDests o s) :=
  (modOrder_keeps o.number (fun o => { o with dests := o.dests.map (withdrawDest s) }) s).trans (setFiling_keeps _ _)

theorem withdrawByState_keeps (o : Order) (s : State) : Keeps s (withdrawByState o s) := by
  unfold withdrawByState; split
  · exact finishOrder_keeps _ s
  · exact (withdrawMountRequest_keeps s).trans (finishOrder_keeps _ _)
  · split
    · exact (setOrderState_keeps _ _ s).trans (abortRound_keeps _)
    · exact (requestUnmount_keeps s).trans (finishOrder_keeps _ _)
  · exact Keeps.refl s
  · exact Keeps.refl s

theorem execWithdrawOrder_answers (l : Link) (order : Word) (s : State) : Answers s (execWithdrawOrder l order s) := by
  unfold execWithdrawOrder
  split
  · exact .posted _ _ _ _ s
  · split
    · exact .posted _ _ _ _ s
    · split
      · exact .posted _ _ _ _ s
      · exact .finish ((((postResult_keeps _ _ _ _ s).trans (withdrawDests_keeps _ _)).trans
          (withdrawByState_keeps _ _)).trans (markSelection_keeps _))

theorem execRetryDelayExpiry_answers (order dest : Nat) (s : State) : Answers s (execRetryDelayExpiry order dest s) := by
  unfold execRetryDelayExpiry
  split
  · exact .same s
  · split
    · exact .same s
    · split
      · exact .finish (((jumpTo_keeps _ s).trans (modDest_keeps _ _ _ _)).trans (markSelection_keeps _))
      · exact .same s

theorem confirmMount_keeps (tag : Nat) (s : State) : Keeps s (confirmMount tag s) :=
  ((setMount_keeps s _).trans (moveOrders_keeps _ _ _)).trans (markSelection_keeps _)

theorem execMountConfirm_answers (l : Link) (tag : BitVec 24) (s : State) : Answers s (execMountConfirm l tag s) := by
  unfold execMountConfirm
  split
  · split
    · exact .posted _ _ _ _ s
    · split
      · exact .posted _ _ _ _ s
      · split
        · exact .posted _ _ _ _ s
        · exact .finish ((postResult_keeps _ _ _ _ s).trans (confirmMount_keeps _ _))
  all_goals exact .posted _ _ _ _ s

theorem haltOpenRound_keeps (s : State) : Keeps s (haltOpenRound s) := by
  unfold haltOpenRound; split
  · exact (returnMembers_keeps s).trans (abortRound_keeps _)
  · exact Keeps.refl s

theorem haltLamp_keeps (s : State) : Keeps s (haltLamp s) := by
  unfold haltLamp; split
  · exact Keeps.refl s
  · exact (setConverter_keeps s _).trans (markSelection_keeps _)

theorem haltHead_keeps (s : State) : Keeps s (haltHead s) := by
  unfold haltHead; split
  · exact startReturn_keeps s
  all_goals exact Keeps.refl s

theorem execHaltRound_answers (l : Link) (s : State) : Answers s (execHaltRound l s) :=
  .finish ((((postResult_keeps _ _ _ _ s).trans (haltOpenRound_keeps _)).trans (haltLamp_keeps _)).trans (haltHead_keeps _))

/-! ### Line commands -/

theorem takeOut_coherent {ch : Channel} (h : ChannelCoherent ch) : ChannelCoherent (takeOut ch) := by
  unfold takeOut
  split
  · rename_i hs; exact h.onHook (h.hook (by rw [hs]; rfl) (by rw [hs]; decide)) rfl
  · rename_i hs; exact h.onHook (h.hook (by rw [hs]; rfl) (by rw [hs]; decide)) rfl
  · exact h

theorem takeIn_coherent {ch : Channel} (h : ChannelCoherent ch) : ChannelCoherent (takeIn ch) := by
  unfold takeIn
  split
  · rename_i hs; exact h.onHook (h.hook (by rw [hs]; rfl) (by rw [hs]; decide)) rfl
  · exact h

theorem markIfIdle_keeps (c : Chan) (s : State) : Keeps s (markIfIdle c s) := by
  unfold markIfIdle; split
  · exact markSelection_keeps s
  · exact Keeps.refl s

theorem resetCall_keeps (c : Chan) (s : State) : Keeps s (resetCall c s) := by
  unfold resetCall
  dsimp only
  split
  · exact (closeCall_keeps c _ s).trans (leaveRound_keeps c _)
  · exact ((returnDest_keeps _ _ s).trans (closeCall_keeps c _ _)).trans (leaveRound_keeps c _)

theorem resetByState_keeps (c : Chan) (s : State) : Keeps s (resetByState c s) := by
  unfold resetByState
  dsimp only
  split
  · exact resetCall_keeps c s
  · split
    · exact (modChan_keeps c _ s fun h => h.onHook rfl rfl).trans (markIfIdle_keeps c _)
    · rename_i hs
      exact (modChan_keeps c _ s fun h => h.onHook (h.hook (by rw [hs]; rfl) (by rw [hs]; decide)) rfl).trans
        (markIfIdle_keeps c _)
    · exact Keeps.refl s

theorem execLineOut_answers (l : Link) (b : Byte) (s : State) : Answers s (execLineOut l b s) := by
  unfold execLineOut; split
  · exact .posted _ _ _ _ s
  · exact .next ((postResult_keeps _ _ _ _ s).trans (modChan_keeps _ _ _ takeOut_coherent)) id

theorem execLineIn_answers (l : Link) (b : Byte) (s : State) : Answers s (execLineIn l b s) := by
  unfold execLineIn
  split
  · exact .posted _ _ _ _ s
  · rename_i c _
    have htaken : Keeps s (modChan c takeIn (postResult l 0x18#8 .ok 0 s)) :=
      (postResult_keeps _ _ _ _ s).trans (modChan_keeps _ _ _ takeIn_coherent)
    dsimp only
    split
    · exact .finish (htaken.trans (markSelection_keeps _))
    · exact .next htaken id

theorem execLineReset_answers (l : Link) (b : Byte) (s : State) : Answers s (execLineReset l b s) := by
  unfold execLineReset; split
  · exact .posted _ _ _ _ s
  · exact .finish (((postResult_keeps _ _ _ _ s).trans (resetByState_keeps _ _)).trans (modChan_keeps _ _ _ id))

theorem execMarkFaultCode_answers (l : Link) (b : Byte) (s : State) : Answers s (execMarkFaultCode l b s) := by
  unfold execMarkFaultCode; split
  · exact .posted _ _ _ _ s
  · exact .next ((postResult_keeps _ _ _ _ s).trans (modChan_keeps _ _ _ id)) id

/-! ### Receipts, notices, the clock and the setting store -/

theorem execReleaseReceipt_answers (l : Link) (f : Word) (s : State) : Answers s (execReleaseReceipt l f s) := by
  unfold execReleaseReceipt; split
  · exact .posted _ _ _ _ s
  · exact .letThrough _ (((postResult_keeps _ _ _ _ s).trans (modRecord_keeps _ _ _)).trans (testRecord_keeps _ _)) id

theorem execReprintSlip_answers (l : Link) (f : Word) (s : State) : Answers s (execReprintSlip l f s) := by
  unfold execReprintSlip; split
  · exact .posted _ _ _ _ s
  · split
    · exact .posted _ _ _ _ s
    · split
      · exact .posted _ _ _ _ s
      · exact .next ((postResult_keeps _ _ _ _ s).trans (modRecord_keeps _ _ _)) id

theorem execPresenceFall_answers (l : Link) (s : State) : Answers s (execPresenceFall l s) :=
  .letThrough _ ((setPins_keeps s _).trans (testRemoval_keeps _ _)) id

theorem execFilingTransfer_answers (s : State) : Answers s (execFilingTransfer s) := by
  unfold execFilingTransfer; split
  · exact .same s
  · split
    · rename_i ref rest _ hroom
      unfold fileHead
      exact .finish (Keeps.andIf (transferRef_keeps ref rest s hroom) (fileRefs_keeps rest _))
    · exact .same s

theorem modLink_keeps (l : Link) (f : LinkState → LinkState) (s : State) (h : ∀ ls, LinkAgrees (f ls)) : Keeps s (modLink l f s) :=
  setLink_keeps l s _ fun _ => h _

theorem execAckNotice_answers (l : Link) (b : Byte) (s : State) : Answers s (execAckNotice l b s) := by
  unfold execAckNotice; split
  · exact .posted _ _ _ _ s
  · exact .next ((postResult_keeps _ _ _ _ s).trans (modLink_keeps l _ _ fun _ => judgeAttention_agrees _)) id

theorem execSetNoticeMask_answers (l : Link) (b : Byte) (s : State) : Answers s (execSetNoticeMask l b s) := by
  unfold execSetNoticeMask; split
  · exact .posted _ _ _ _ s
  · exact .next ((postResult_keeps _ _ _ _ s).trans (modLink_keeps l _ _ fun _ => judgeAttention_agrees _)) id

theorem setClock_moves (s : State) (k : Option Clock) : Moves [.clock] s { s with clock := k } := by
  intro p hp; cases p <;> first | rfl | exact absurd (by decide) hp

theorem setClock_keeps (s : State) (k : Option Clock) : Keeps s { s with clock := k } := (setClock_moves s k).keeps (by decide)

theorem execSetClock_answers (l : Link) (minute day : Word) (s : State) : Answers s (execSetClock l minute day s) := by
  unfold execSetClock; split
  · exact .posted _ _ _ _ s
  · exact .next ((postResult_keeps _ _ _ _ s).trans (setClock_keeps _ _)) id

theorem execClockSecond_answers (s : State) : Answers s (execClockSecond s) := by
  unfold execClockSecond; split
  · exact .same s
  · exact .next ((jumpTo_keeps _ s).trans (setClock_keeps _ _)) id

theorem Answers.written (l : Link) (b : Byte) (w : StoreWrite) (s : State) : Answers s (.next (takeWrite l b w s)) :=
  .next ((postResult_keeps _ _ _ _ s).trans (setStore_keeps _ _)) id

theorem execWriteDirectory_answers (l : Link) (i : Byte) (a : EntryArgs) (s : State) : Answers s (execWriteDirectory l i a s) := by
  unfold execWriteDirectory
  split
  · exact .posted _ _ _ _ s
  · split
    · exact .posted _ _ _ _ s
    · split
      · exact .posted _ _ _ _ s
      · split
        · exact .posted _ _ _ _ s
        · split
          · exact .posted _ _ _ _ s
          · exact .written _ _ _ s

theorem execEraseDirectory_answers (l : Link) (i : Byte) (s : State) : Answers s (execEraseDirectory l i s) := by
  unfold execEraseDirectory
  split
  · exact .posted _ _ _ _ s
  · split
    · exact .posted _ _ _ _ s
    · split
      · exact .posted _ _ _ _ s
      · split
        · exact .posted _ _ _ _ s
        · split
          · exact .posted _ _ _ _ s
          · exact .written _ _ _ s

theorem execWriteCurve_answers (l : Link) (i : Byte) (ps : List Byte) (s : State) : Answers s (execWriteCurve l i ps s) := by
  unfold execWriteCurve
  split
  · exact .posted _ _ _ _ s
  · split
    · exact .posted _ _ _ _ s
    · split
      · exact .posted _ _ _ _ s
      · split
        · exact .posted _ _ _ _ s
        · split
          · exact .posted _ _ _ _ s
          · exact .written _ _ _ s

theorem execWriteSettings_answers (l : Link) (a : SettingsArgs) (s : State) : Answers s (execWriteSettings l a s) := by
  unfold execWriteSettings
  split
  · exact .posted _ _ _ _ s
  · split
    · exact .posted _ _ _ _ s
    · split
      · exact .posted _ _ _ _ s
      · split
        · exact .posted _ _ _ _ s
        · exact .written _ _ _ s

theorem execSetLock_answers (l : Link) (s : State) : Answers s (execSetLock l s) := by
  unfold execSetLock; split
  · exact .posted _ _ _ _ s
  · exact .written _ _ _ s

theorem execClearLock_answers (l : Link) (s : State) : Answers s (execClearLock l s) := by
  unfold execClearLock; split
  · exact .posted _ _ _ _ s
  · split
    · exact .posted _ _ _ _ s
    · exact .written _ _ _ s

end Sys2Proof.Machine
end

section
/-! PROOF. What the drum controller's events, the events of a call, the back-channel frames and the line periods keep. -/

namespace Sys2Proof.Machine

/-! ### The drum controller -/

theorem holdRevolution_keeps (s : State) : Keeps s (holdRevolution s) := setHead_keeps s _

theorem lineFiled_keeps (s : State) : Keeps s (lineFiled s) := by
  have hstep : Keeps s { s with head := { s.head with position := s.head.position + 1 }, pins := { s.pins with home := false } } :=
    (setHead_keeps s { s.head with position := s.head.position + 1 }).trans (setPins_keeps _ _)
  unfold lineFiled
  dsimp only
  split
  · exact hstep.trans (setRound_keeps _ _)
  · exact hstep

theorem requestFiling_keeps (levels : List Nat) (s : State) : Keeps s (requestFiling levels s) := by
  unfold requestFiling
  split
  · rename_i ls hfile
    exact (setLineStore_keeps fun h => by simpa [hfile] using fileLine_wf s.head.position levels (filingMarks s) s.lineStore h).trans
      (lineFiled_keeps _)
  · exact holdRevolution_keeps s

theorem offer_keeps (readings : List Nat) (s : State) : Keeps s (offer readings s) := by
  unfold offer
  dsimp only
  split
  · exact (setConverter_keeps s _).trans (requestFiling_keeps _ _)
  · unfold invalidRevolution
    dsimp only
    have hheld := fun x => (setConverter_keeps s x).trans (holdRevolution_keeps _)
    split
    · exact ((hheld _).trans (setConverter_keeps _ _)).trans (abortForFault_keeps _ _)
    · exact hheld _

theorem scanningRevolution_keeps (g : Option Gathering) (s : State) : Keeps s (scanningRevolution g s) := by
  unfold scanningRevolution
  split
  · split
    · exact holdRevolution_keeps s
    · split
      · exact offer_keeps _ s
      · exact holdRevolution_keeps s
  · exact Keeps.refl s

theorem correctedDrive_le {drive period tt : Nat} (h : drive ≤ 1023) : correctedDrive drive period tt ≤ 1023 := by
  unfold correctedDrive; split <;> omega

/-- A drum with a target class that is SPINNING or LOCKED is coherent. -/
theorem drumCoherent_turning {s : State} (ht : s.drum.target.isSome = true) (hst : s.drum.state = .spinning ∨ s.drum.state = .locked)
    (hdrive : s.drum.drive ≤ 1023) : DrumCoherent s :=
  ⟨by rw [ht, (turning_iff _).mpr hst], hdrive, fun hs => by rw [hs] at hst; simp at hst⟩

theorem spinningRevolution_keeps (period tt : Nat) (s : State) (ht : s.drum.target.isSome = true) :
    Keeps s (spinningRevolution period tt s) := by
  unfold spinningRevolution
  generalize (if withinTight period tt then s.drum.lockCount + 1 else 0) = count
  dsimp only
  split
  · refine Keeps.trans ?_ (testStart_keeps _)
    exact setDrum_keeps s _ fun h => drumCoherent_turning ht (.inr rfl) h.2.1
  · exact setDrum_keeps s _ id

theorem looseMissed_keeps (s : State) (ht : s.drum.target.isSome = true) : Keeps s (looseMissed s) := by
  have hheld : Keeps s (if mayFile s then holdRevolution s else s) := Keeps.andIf (Keeps.refl s) (holdRevolution_keeps s)
  have hdrum : (if mayFile s then holdRevolution s else s).drum = s.drum := by split <;> rfl
  unfold looseMissed
  dsimp only
  split
  · refine hheld.trans (setDrum_keeps _ _ fun h => drumCoherent_turning ?_ (.inl rfl) h.2.1)
    simpa [hdrum] using ht
  · exact hheld.trans (setDrum_keeps _ _ id)

theorem endRevolution_keeps (period : Nat) (g : Option Gathering) (s : State) : Keeps s (endRevolution period g s) := by
  unfold endRevolution
  split
  · exact Keeps.refl s
  · rename_i k hk
    have ht : s.drum.target.isSome = true := by rw [hk]; rfl
    have hregulated : Keeps s { s with drum := { s.drum with drive := correctedDrive s.drum.drive period k.period } } :=
      setDrum_keeps s _ fun h => ⟨h.1, correctedDrive_le h.2.1, h.2.2⟩
    dsimp only
    split
    · unfold lockedRevolution
      split
      · refine (hregulated.trans ?_).trans (scanningRevolution_keeps g _)
        exact setDrum_keeps _ _ id
      · exact hregulated.trans (looseMissed_keeps _ ht)
    · exact hregulated.trans (spinningRevolution_keeps _ _ _ ht)

theorem pulseByState_keeps (g : Option Gathering) (s : State) : Keeps s (pulseByState g s) := by
  unfold pulseByState
  dsimp only
  split
  · exact Keeps.refl s
  · rename_i hst
    exact setDrum_keeps s _ fun h => ⟨h.1, h.2.1, fun hs => by rw [hst] at hs; cases hs⟩
  · rename_i h1 _
    have hpulse : ∀ p, DrumCoherent s → DrumCoherent { s with drum := { s.drum with lastPulse := some s.now, period := p } } :=
      fun p h => ⟨h.1, h.2.1, fun hs => absurd hs h1⟩
    split
    · exact setDrum_keeps s _ (hpulse _)
    · exact (setDrum_keeps s _ (hpulse _)).trans (endRevolution_keeps _ _ _)

theorem execIndexPulse_answers (time : Nat) (s : State) : Answers s (execIndexPulse time s) :=
  .finish (((jumpTo_keeps _ s).trans (pulseByState_keeps _ _)).trans (setConverter_keeps _ _))

theorem execPhotocellReading_answers (v : BitVec 12) (s : State) : Answers s (execPhotocellReading v s) := by
  unfold execPhotocellReading
  split
  · exact .same s
  · dsimp only
    split
    · exact .next ((jumpTo_keeps _ s).trans (setConverter_keeps _ _)) id
    · exact .same s

theorem execCoverOpen_answers (s : State) : Answers s (execCoverOpen s) := by
  unfold execCoverOpen
  exact .finish (Keeps.andIf ((setPins_keeps s _).trans (cutDrive_keeps _)) (abortForFault_keeps _ _))

theorem execCoverClose_answers (s : State) : Answers s (execCoverClose s) :=
  .finish ((setPins_keeps s _).trans (markSelection_keeps _))

theorem clampOpened_keeps (s : State) : Keeps s (clampOpened s) := by
  unfold clampOpened
  split
  · exact Keeps.andIf (((setMount_keeps s _).trans (moveOrders_keeps _ _ _)).trans (markSelection_keeps _)) (abortForFault_keeps _ _)
  · exact (setMount_keeps s _).trans (markSelection_keeps _)
  · exact Keeps.refl s
  · exact Keeps.refl s

theorem execClampOpen_answers (s : State) : Answers s (execClampOpen s) :=
  .finish (((setPins_keeps s _).trans (cutDrive_keeps _)).trans (clampOpened_keeps _))

theorem execHomeSwitchClose_answers (s : State) : Answers s (execHomeSwitchClose s) := by
  unfold execHomeSwitchClose
  dsimp only
  split
  · exact .finish (((setPins_keeps s _).trans (headHome_keeps _)).trans (closeIfDone_keeps _))
  · exact .next (setPins_keeps s _) id

theorem execLockLimit_answers (s : State) : Answers s (execLockLimit s) := by
  unfold execLockLimit
  split
  · dsimp only
    split
    · exact .finish (((jumpPast_keeps _ _ s).trans (cutDrive_keeps _)).trans (abortForFault_keeps _ _))
    · exact .moves ((jumpPast_moves _ _ s).andThen (setDrum_moves _ _) (rs := [.now, .drum]) (by decide) (by decide)) (by decide)
        ((jumpPast_keeps _ _ s).trans (setDrum_keeps _ _ id))
  · exact .same s

theorem execIdleStop_answers (s : State) : Answers s (execIdleStop s) := by
  unfold execIdleStop
  split
  · exact .moves ((jumpPast_moves _ _ s).andThen (cutDrive_moves _) (rs := [.now, .drum]) (by decide) (by decide)) (by decide)
      ((jumpPast_keeps _ _ s).trans (cutDrive_keeps _))
  · exact .same s

/-- The coast has ended: STOPPED, with what was left over discarded (R56, R82). -/
theorem coastEnded_keeps (s : State) (hcoast : s.drum.state = .coasting) :
    Keeps s { s with
      drum := { s.drum with state := .stopped, coastTimer := none, lastPulse := none, period := none },
      converter := { s.converter with gathering := none } } := by
  refine (setDrum_keeps s { s.drum with state := .stopped, coastTimer := none, lastPulse := none, period := none }
    fun h => ⟨?_, h.2.1, fun _ => ⟨rfl, rfl⟩⟩).trans (setConverter_keeps _ _)
  exact h.1.trans (by rw [turning, hcoast]; rfl)

theorem execCoastStop_answers (s : State) : Answers s (execCoastStop s) := by
  unfold execCoastStop
  split
  · rename_i hcoast
    have hjump := jumpPast_moves s.drum.coastTimer coastStopLength s
    refine .next ((jumpPast_keeps _ _ s).trans (coastEnded_keeps _ ?_)) fun hs => (hjump .selectDue (by decide)).trans hs
    rw [hjump .drum (by decide), hcoast.1]
  · exact .same s

theorem execReturnLimit_answers (s : State) : Answers s (execReturnLimit s) := by
  unfold execReturnLimit
  split
  · exact .finish ((((jumpPast_keeps _ _ s).trans (setHead_keeps _ _)).trans (noticeBoth_keeps _ _)).trans (closeIfDone_keeps _))
  · exact .same s

/-! ### The events of a call -/

theorem execCarrierPresent_answers (c : Chan) (s : State) : Answers s (execCarrierPresent c s) := by
  unfold execCarrierPresent
  dsimp only
  split
  · exact .next ((setPins_keeps s _).trans (enterAnnounce_keeps c _)) id
  · split
    · exact .next ((setPins_keeps s _).trans (modChan_keeps c _ _ id)) id
    · exact .next (setPins_keeps s _) id

theorem execCarrierAbsent_answers (c : Chan) (s : State) : Answers s (execCarrierAbsent c s) := by
  unfold execCarrierAbsent
  dsimp only
  split
  · exact .next ((setPins_keeps s _).trans (modChan_keeps c _ _ id)) id
  · exact .next (setPins_keeps s _) id

/-- A timer has run out, and of the channel only what no invariant speaks of changes. -/
theorem Answers.dialled (c : Chan) (t : Timer) (n : Nat) (d : DialPhase) (s : State) :
    Answers s (.next (modChan c (fun ch => { ch with dial := d }) (jumpPast t n s))) :=
  .moves ((jumpPast_moves t n s).andThen (modChan_moves c _ _) (rs := [.now, .channels]) (by decide) (by decide)) (by decide)
    ((jumpPast_keeps t n s).trans (modChan_keeps c _ _ id))

theorem enterAwaitAnswer_keeps (c : Chan) (s : State) : Keeps s (enterAwaitAnswer c s) :=
  Keeps.andIf (modChan_keeps c _ s fun h => h.inState (.inl rfl) rfl) (enterAnnounce_keeps c _)

theorem enterAwaitAnswer_moves (c : Chan) (s : State) : Moves [.channels] s (enterAwaitAnswer c s) := by
  unfold enterAwaitAnswer
  dsimp only
  split
  · exact (modChan_moves c _ s).trans (enterAnnounce_moves c _)
  · exact modChan_moves c _ s

theorem execDialSettleEnd_answers (c : Chan) (s : State) : Answers s (execDialSettleEnd c s) := by
  unfold execDialSettleEnd
  dsimp only
  split
  · exact .dialled c _ _ _ s
  · exact .same s

theorem execDigitToneEnd_answers (c : Chan) (s : State) : Answers s (execDigitToneEnd c s) := by
  unfold execDigitToneEnd
  dsimp only
  split
  · exact .dialled c _ _ _ s
  · exact .same s

theorem execDigitSilenceEnd_answers (c : Chan) (s : State) : Answers s (execDigitSilenceEnd c s) := by
  unfold execDigitSilenceEnd
  dsimp only
  split
  · split
    · exact .dialled c _ _ _ s
    · exact .moves ((jumpPast_moves _ _ s).andThen (enterAwaitAnswer_moves c _) (rs := [.now, .channels]) (by decide) (by decide))
        (by decide) ((jumpPast_keeps _ _ s).trans (enterAwaitAnswer_keeps c _))
  · exact .same s

/-- A limit ends the call (R103, R105, R111, R114, R131). -/
theorem Answers.ended (c : Chan) (oc : CallOutcome) (t : Timer) (n : Nat) (s : State) :
    Answers s (.next (finishStep (endWithOutcome c oc none (jumpPast t n s)))) :=
  .finish ((jumpPast_keeps t n s).trans (endWithOutcome_keepsAll c oc none _))

theorem execAnswerLimit_answers (c : Chan) (s : State) : Answers s (execAnswerLimit c s) := by
  unfold execAnswerLimit
  dsimp only
  split
  · exact .ended c _ _ _ s
  · exact .same s

theorem execAnnounceLimit_answers (c : Chan) (s : State) : Answers s (execAnnounceLimit c s) := by
  unfold execAnnounceLimit
  dsimp only
  split
  · exact .ended c _ _ _ s
  · exact .same s

theorem execCarrierLossLimit_answers (c : Chan) (s : State) : Answers s (execCarrierLossLimit c s) := by
  unfold execCarrierLossLimit
  dsimp only
  split
  · exact .ended c _ _ _ s
  · exact .same s

theorem execReceiptLimit_answers (c : Chan) (s : State) : Answers s (execReceiptLimit c s) := by
  unfold execReceiptLimit
  dsimp only
  split
  · exact .ended c _ _ _ s
  · exact .same s

theorem execHoldTimeout_answers (c : Chan) (s : State) : Answers s (execHoldTimeout c s) := by
  unfold execHoldTimeout
  dsimp only
  split
  · exact .ended c _ _ _ s
  · exact .same s

theorem execCooldownExpiry_answers (c : Chan) (s : State) : Answers s (execCooldownExpiry c s) := by
  unfold execCooldownExpiry
  dsimp only
  split
  · rename_i hcool
    have hchan := jumpPast_moves (s.channels.get c).stateTimer cooldownLength s .channels (by decide)
    refine .finish (((jumpPast_keeps _ _ s).trans (modChan_keeps c _ _ fun h => h.onHook ?_ rfl)).trans (markIfIdle_keeps c _))
    have hstate : ((jumpPast (s.channels.get c).stateTimer cooldownLength s).channels.get c).state = .cooldown := by
      rw [hchan, hcool.1]
    exact h.hook (by rw [hstate]; rfl) (by rw [hstate]; decide)
  · exact .same s

theorem putDown_coherent (now : Nat) {ch : Channel} (h : ChannelCoherent ch) : ChannelCoherent (putDown now ch) := by
  unfold putDown
  dsimp only
  split <;> exact h.onHook rfl rfl

theorem execReleaseComplete_answers (c : Chan) (s : State) : Answers s (execReleaseComplete c s) := by
  unfold execReleaseComplete
  dsimp only
  split
  · refine .finish (Keeps.trans (Keeps.trans ?_ (modChan_keeps c _ _ (putDown_coherent _))) (markIfIdle_keeps c _))
    split
    · exact Keeps.refl s
    · exact jumpTo_keeps _ s
  · exact .same s

/-! ### Back-channel frames -/

theorem receiveFrame_keeps (c : Chan) (code : Word) (kind : BackKind) {act : State → State} {s : State}
    (h : testFrame (s.channels.get c) code kind = .taken → Keeps s (act s)) : Keeps s (receiveFrame c code kind act s) := by
  unfold receiveFrame
  split
  · exact Keeps.refl s
  · exact modChan_keeps c _ s id
  · exact modChan_keeps c _ s id
  · rename_i ht; exact h ht

/-- A frame received outside the events of R15 leaves the scratch flag. -/
theorem receiveFrame_done (c : Chan) (code : Word) (kind : BackKind) {act : State → State} {s : State}
    (h : (act s).selectDue = s.selectDue) : (receiveFrame c code kind act s).selectDue = s.selectDue := by
  unfold receiveFrame
  split
  · rfl
  · rfl
  · rfl
  · exact h

theorem takeStation_keeps (c : Chan) (code : Word) (s : State) : Keeps s (takeStation c code s) := by
  unfold takeStation
  dsimp only
  have hcode : Keeps s (modChan c (fun ch => { ch with station := some code }) s) := modChan_keeps c _ s id
  split
  · exact hcode.trans (modChan_keeps c _ _ fun h => h.inState (.inl rfl) rfl)
  · exact hcode.trans (endWithOutcome_keepsAll c _ _ _)

theorem takePhased_keeps (c : Chan) (s : State) : Keeps s (takePhased c s) :=
  (modChan_keeps c _ s fun h => h.inState (.inl rfl) rfl).trans (testStart_keeps _)

theorem queueHolds_iff (q : List RetakeEntry) (line : Nat) : queueHolds q line = true ↔ line ∈ q.map RetakeEntry.line := by
  simp only [queueHolds, Bool.or_eq_true, List.contains_iff_mem, List.mem_map]
  constructor
  · rintro (h | h) <;> exact ⟨_, h, rfl⟩
  · rintro ⟨x, hx, rfl⟩
    cases x with
    | resend l => exact .inl hx
    | skip l => exact .inr hx

theorem enqueueRetake_keeps (c : Chan) (line : Nat) (s : State) : Keeps s (enqueueRetake c line s) := by
  unfold enqueueRetake
  dsimp only
  split
  · exact Keeps.refl s
  · rename_i hnew
    rw [queueHolds_iff] at hnew
    split
    · exact modChan_keeps c _ s id
    · rename_i hroom
      simp only [queuePlaces, Nat.not_le] at hroom
      refine modChan_keeps c _ s fun h => ⟨h.1, ?_, ?_⟩
      · rw [List.length_append, List.length_singleton]; omega
      · have hline : RetakeEntry.line (if (askLine c line s.lineStore).isSome then .resend line else .skip line) = line := by
          split <;> rfl
        simp only [List.map_append, List.map_cons, List.map_nil, hline]
        exact List.perm_append_comm.nodup (List.nodup_cons.mpr ⟨hnew, h.2.2⟩)

theorem takeRetake_keeps (c : Chan) (line : Nat) (s : State) : Keeps s (takeRetake c line s) := by
  unfold takeRetake
  dsimp only
  split
  · exact modChan_keeps c _ s id
  · split
    · exact raiseTrouble_keeps c 8 s
    · exact (raiseTrouble_keeps c 8 s).trans (enqueueRetake_keeps c line _)

theorem failedCheck_keeps (c : Chan) (s : State) : Keeps s (failedCheck c s) :=
  Keeps.andIf (Keeps.refl s) ((modChan_keeps c _ s id).trans (raiseTrouble_keeps c 4 _))

theorem execPhased_answers (c : Chan) (code : Word) (s : State) : Answers s (execPhased c code s) := by
  refine .next (receiveFrame_keeps c code _ fun _ => takePhased_keeps c s) fun hs => (receiveFrame_done c code _ ?_).trans hs
  exact ((modChan_moves c _ s).andThen (testStart_moves _) (rs := [.channels, .round, .head, .converter, .lineStore]) (by decide)
    (by decide)) .selectDue (by decide)

theorem execHold_answers (c : Chan) (code : Word) (s : State) : Answers s (execHold c code s) :=
  .next (receiveFrame_keeps c code _ fun _ => modChan_keeps c _ s id) fun hs => (receiveFrame_done c code .hold rfl).trans hs

theorem execGo_answers (c : Chan) (code : Word) (s : State) : Answers s (execGo c code s) :=
  .next (receiveFrame_keeps c code _ fun _ => modChan_keeps c _ s id) fun hs => (receiveFrame_done c code .go rfl).trans hs

theorem execFrameIgnored_answers (c : Chan) (code : Word) (kind : BackKind) (s : State) :
    Answers s (execFrameIgnored c code kind s) :=
  .next (receiveFrame_keeps c code kind fun _ => Keeps.refl s) fun hs => (receiveFrame_done c code kind rfl).trans hs

/-! ### Line periods and forward frames -/

theorem serveQueue_left (ask : Nat → Option (List Nat)) (q : List RetakeEntry) : (serveQueue ask q).left <:+ q := by
  induction q with
  | nil => exact List.suffix_refl _
  | cons x rest ih =>
    cases x with
    | skip l => exact ih.trans (List.suffix_cons _ _)
    | resend l =>
      unfold serveQueue
      split
      · exact List.suffix_cons _ _
      · exact ih.trans (List.suffix_cons _ _)

/-- The service of a retake queue only takes entries from it. -/
theorem afterService_coherent (ask : Nat → Option (List Nat)) {ch : Channel} (h : ChannelCoherent ch) :
    ChannelCoherent (afterService (serveQueue ask ch.queue) ch) := by
  have hleft := serveQueue_left ask ch.queue
  exact ⟨h.1, Nat.le_trans hleft.length_le h.2.1, h.2.2.sublist (hleft.sublist.map _)⟩

theorem depthRelease_keeps (c : Chan) (k : Nat) (s : State) : Keeps s (depthRelease c k s) :=
  Keeps.andIf (Keeps.refl s) (releaseMark_keeps c _ s)

theorem startLine_keeps (c : Chan) (lead : List ForwardFrame) (levels : List Nat) (s : State) :
    Keeps s (startLine c lead levels s) := by
  unfold startLine
  dsimp only
  refine ((sendFrames_keeps c _ s).trans (modChan_keeps c _ _ fun h => h.inState (.inl ?_) rfl)).trans (depthRelease_keeps c _ _)
  dsimp only
  split <;> rfl

theorem phasingPeriod_keeps (c : Chan) (s : State) : Keeps s (phasingPeriod c s) := by
  unfold phasingPeriod
  dsimp only
  split
  · exact endWithOutcome_keepsAll c _ _ s
  · exact (modChan_keeps c _ s id).trans (sendFrames_keeps c _ _)

theorem captionPeriod_keeps (c : Chan) (s : State) : Keeps s (captionPeriod c s) := by
  unfold captionPeriod
  split
  · exact Keeps.refl s
  · dsimp only
    split
    · exact (modChan_keeps c _ s id).trans (sendFrames_keeps c _ _)
    · exact (modChan_keeps c _ s fun h => h.inState (.inl rfl) rfl).trans (phasingPeriod_keeps c _)

theorem phasedPeriod_keeps (c : Chan) (s : State) : Keeps s (phasedPeriod c s) := by
  unfold phasedPeriod
  dsimp only
  split
  · exact sendFrames_keeps c _ s
  · split
    · exact sendFrames_keeps c _ s
    · exact startLine_keeps c _ _ s

theorem picturePeriod_keeps (c : Chan) (s : State) : Keeps s (picturePeriod c s) := by
  unfold picturePeriod
  dsimp only
  have hserved := modChan_keeps c (afterService (serveQueue (fun l => askLine c l s.lineStore) (s.channels.get c).queue)) s
    (afterService_coherent _)
  split
  · exact sendFrames_keeps c _ s
  · split
    · exact hserved.trans (sendFrames_keeps c _ _)
    · split
      · exact hserved.trans (sendFrames_keeps c _ _)
      · exact hserved.trans (startLine_keeps c _ _ _)

theorem beginStop_keeps (c : Chan) (s : State) : Keeps s (beginStop c s) := by
  unfold beginStop
  split
  · exact (releaseAll_keeps c s).trans (sendFrames_keeps c _ _)
  · exact Keeps.refl s

theorem stoppingPeriod_keeps (c : Chan) (s : State) : Keeps s (stoppingPeriod c s) := by
  unfold stoppingPeriod
  dsimp only
  split
  · split
    · exact (modChan_keeps c _ s id).trans (sendFrames_keeps c _ _)
    · exact beginStop_keeps c s
  · have hserved : Keeps s (modChan c (fun ch => { afterService
        (serveQueue (fun l => askLine c l s.lineStore) (s.channels.get c).queue) ch with stopping := 0 }) s) :=
      modChan_keeps c _ s (afterService_coherent _)
    split
    · exact hserved.trans (sendFrames_keeps c _ _)
    · exact hserved.trans (sendFrames_keeps c _ _)

theorem periodContent_keeps (c : Chan) (s : State) : Keeps s (periodContent c s) := by
  unfold periodContent
  split
  · unfold announcePeriod; split
    · exact sendFrames_keeps c _ s
    · exact Keeps.refl s
  · exact captionPeriod_keeps c s
  · exact phasingPeriod_keeps c s
  · exact phasedPeriod_keeps c s
  · exact picturePeriod_keeps c s
  · exact stoppingPeriod_keeps c s
  · exact Keeps.refl s

theorem execLinePeriodStart_answers (c : Chan) (s : State) : Answers s (execLinePeriodStart c s) := by
  unfold execLinePeriodStart
  dsimp only
  split
  · exact .same s
  · split
    · exact .next ((jumpTo_keeps _ s).trans (modChan_keeps c _ _ id)) id
    · exact .finish (((jumpTo_keeps _ s).trans (modChan_keeps c _ _ id)).trans (periodContent_keeps c _))

theorem enterAwaitReceipt_keeps (c : Chan) (s : State) : Keeps s (enterAwaitReceipt c s) :=
  modChan_keeps c _ s fun _ => ChannelCoherent.emptied (.inl rfl) rfl

theorem framesGone_keeps (c : Chan) (gone left : List ForwardFrame) (s : State) : Keeps s (framesGone c gone left s) :=
  (jumpTo_keeps _ s).trans (modChan_keeps c _ _ id)

theorem endResend_keeps (c : Chan) (l : Nat) (s : State) : Keeps s (endResend c l s) :=
  Keeps.andIf (Keeps.refl s) (releaseMark_keeps c l s)

theorem frameGone_keeps (c : Chan) (f : ForwardFrame) (s : State) : Keeps s (frameGone c f s) := by
  unfold frameGone
  dsimp only
  split
  · split
    · exact endResend_keeps c _ s
    · split
      · exact enterAwaitReceipt_keeps c s
      · exact Keeps.refl s
  · exact Keeps.refl s

theorem frameGone_moves (c : Chan) (f : ForwardFrame) (s : State) : Moves [.lineStore, .channels] s (frameGone c f s) := by
  unfold frameGone
  dsimp only
  split
  · split
    · exact (endResend_moves c _ s).mono (by decide)
    · split
      · exact (modChan_moves c _ s).mono (by decide)
      · exact Moves.refl _ s
  · exact Moves.refl _ s

theorem Answers.gone (c : Chan) (f : ForwardFrame) (gone left : List ForwardFrame) (s : State) :
    Answers s (.next (frameGone c f (framesGone c gone left s))) :=
  .next ((framesGone_keeps c gone left s).trans (frameGone_keeps c f _)) fun hs => (frameGone_moves c f _).stepDone (by decide) hs

theorem execForwardFrameSent_answers (c : Chan) (s : State) : Answers s (execForwardFrameSent c s) := by
  unfold execForwardFrameSent; split
  · exact .same s
  · exact .gone c _ _ _ s

theorem execStopSent_answers (c : Chan) (s : State) : Answers s (execStopSent c s) := by
  unfold execStopSent
  dsimp only
  split
  · exact .same s
  · split
    · exact .next ((framesGone_keeps c _ _ s).trans (enterAwaitReceipt_keeps c _)) id
    · exact .same s

theorem execResendEnd_answers (c : Chan) (s : State) : Answers s (execResendEnd c s) := by
  unfold execResendEnd
  dsimp only
  split
  · exact .same s
  · split
    · exact .gone c _ _ _ s
    · exact .same s

end Sys2Proof.Machine
end

section
/-! PROOF. What the slip printer's events keep, every command and every step; the invariants of O57 to O60, with O1 and O2. -/

namespace Sys2Proof.Machine

/-! ### The slip printer -/

/-- A slip in progress goes with PRINTING and WAITING (R154). -/
def PrinterCoherent (p : Printer) : Prop := p.slip.isSome = (p.state == .printing || p.state == .waiting)

theorem modPrinter_coherent {f : Printer → Printer} {s : State} (h : PrinterCoherent s.printer → PrinterCoherent (f s.printer)) :
    Keeps s (modPrinter f s) := modPrinter_keeps f s h

theorem withoutSlip_keeps (st : PrinterState) (s : State) (h : (st == .printing || st == .waiting) = false) :
    Keeps s (modPrinter (withoutSlip st) s) := modPrinter_coherent fun _ => h.symm

/-- A printer at rest in one state may come to rest in another. -/
theorem PrinterCoherent.rest {p q : Printer} (h : PrinterCoherent p) (hp : (p.state == .printing || p.state == .waiting) = false)
    (hq : (q.state == .printing || q.state == .waiting) = false) (hs : q.slip = p.slip) : PrinterCoherent q := by
  rw [PrinterCoherent, hs, h, hp, hq]

/-- A printer with a slip may begin a character or wait for one. -/
theorem nextCharacter_keeps (ready : Bool) (run : Printer → Printer) (s : State) (hrun : ∀ p, (run p).slip = p.slip)
    (hs : SlipCoherent s → s.printer.slip.isSome = true) : Keeps s (nextCharacter ready run s) := by
  unfold nextCharacter
  dsimp only
  split
  · exact (setPins_keeps s _).trans (modPrinter_coherent fun h => by simp [PrinterCoherent, hrun, hs h])
  · exact (setPins_keeps s _).trans (modPrinter_coherent fun h => by simp [PrinterCoherent, hs h])

theorem nextCharacter_selectDue (ready : Bool) (run : Printer → Printer) (s : State) :
    (nextCharacter ready run s).selectDue = s.selectDue := by
  unfold nextCharacter
  dsimp only
  split <;> rfl

theorem disableAtEnd_keeps (s : State) (h : s.printer.slip = none) : Keeps s (disableAtEnd s) :=
  (modPrinter_coherent fun _ => by simp [PrinterCoherent, h]).trans (dropPending_keeps _)

theorem paperOutFromReady_keeps (s : State) (h : s.printer.state = .ready) : Keeps s (paperOutFromReady s) :=
  (modPrinter_coherent fun hs => hs.rest (by rw [h]; rfl) rfl rfl).trans (noticeBoth_keeps _ _)

theorem completeSlip_keeps (f : Nat) (s : State) : Keeps s (completeSlip f s) := by
  unfold completeSlip
  dsimp only
  have hended := fun g => ((modRecord_keeps f (fun r => { r with slip := .printed, reprint := g }) s).trans
    (testRecord_keeps f _)).trans (withoutSlip_keeps .ready _ rfl)
  split
  · exact (hended _).trans (disableAtEnd_keeps _ rfl)
  · split
    · exact hended _
    · exact (hended _).trans (paperOutFromReady_keeps _ rfl)

theorem abandonSlip_keeps (f sent : Nat) (s : State) : Keeps s (abandonSlip f sent s) := by
  unfold abandonSlip
  dsimp only
  have hended := ((modRecord_keeps f (fun r => { r with slip := .pending, reprint := r.reprint || decide (1 ≤ sent) }) s).trans
    (withoutSlip_keeps .paperOut _ rfl)).trans (noticeBoth_keeps (.printerAttention (some f)) _)
  split
  · exact hended.trans (disableAtEnd_keeps _ rfl)
  · split
    · exact hended.trans (modPrinter_coherent fun _ => rfl)
    · exact hended

theorem turnDisabled_keeps (s : State) : Keeps s (turnDisabled s) := by
  unfold turnDisabled
  split
  · rename_i h; exact (modPrinter_coherent fun hs => hs.rest (by rw [h]; rfl) rfl rfl).trans (dropPending_keeps _)
  · rename_i h; exact (modPrinter_coherent fun hs => hs.rest (by rw [h]; rfl) rfl rfl).trans (dropPending_keeps _)
  · exact (modPrinter_coherent id).trans (dropPending_keeps _)
  · exact (modPrinter_coherent id).trans (dropPending_keeps _)
  · exact Keeps.refl s

theorem turnEnabled_keeps (s : State) : Keeps s (turnEnabled s) := by
  unfold turnEnabled
  split
  · rename_i h
    exact modPrinter_coherent fun hs => hs.rest (by rw [h]; rfl) (by dsimp only; split <;> rfl) rfl
  · exact modPrinter_coherent id
  · exact modPrinter_coherent id
  · exact Keeps.refl s
  · exact Keeps.refl s

theorem completeSlip_done (f : Nat) (s : State) (h : StepDone s) : StepDone (completeSlip f s) := by
  unfold completeSlip
  dsimp only
  split
  · exact h
  · split <;> exact h

theorem abandonSlip_done (f sent : Nat) (s : State) (h : StepDone s) : StepDone (abandonSlip f sent s) := by
  unfold abandonSlip
  dsimp only
  split
  · exact h
  · split <;> exact h

theorem turnDisabled_done (s : State) (h : StepDone s) : StepDone (turnDisabled s) := by
  unfold turnDisabled
  split <;> exact h

theorem turnEnabled_done (s : State) (h : StepDone s) : StepDone (turnEnabled s) := by
  unfold turnEnabled
  split <;> exact h

theorem applyPrinterSetting_keeps (before after : Bool) (s : State) : Keeps s (applyPrinterSetting before after s) := by
  unfold applyPrinterSetting
  split
  · exact Keeps.refl s
  · split
    · exact turnEnabled_keeps s
    · exact turnDisabled_keeps s

theorem applyPrinterSetting_done (before after : Bool) (s : State) (h : StepDone s) :
    StepDone (applyPrinterSetting before after s) := by
  unfold applyPrinterSetting
  split
  · exact h
  · split
    · exact turnEnabled_done s h
    · exact turnDisabled_done s h

theorem execSlipBegin_answers (ready : Bool) (s : State) : Answers s (execSlipBegin ready s) := by
  unfold execSlipBegin
  split
  · refine .next (Keeps.trans ?_ (nextCharacter_keeps ready _ _ (fun _ => rfl) fun _ => rfl))
      fun hs => (nextCharacter_selectDue ready _ _).trans hs
    exact (modRecord_keeps _ _ s).trans (modPrinter_coherent fun _ => rfl)
  · exact .same s

theorem execSlipCharacterSent_answers (ready : Bool) (s : State) : Answers s (execSlipCharacterSent ready s) := by
  unfold execSlipCharacterSent
  split
  · rename_i slip hprinting hslip
    dsimp only
    split
    · exact .letThrough _ ((jumpTo_keeps _ s).trans (completeSlip_keeps _ _)) fun hs => completeSlip_done _ _ hs
    · split
      · exact .letThrough _ ((jumpTo_keeps _ s).trans (abandonSlip_keeps _ _ _)) fun hs => abandonSlip_done _ _ _ hs
      · refine .next (Keeps.trans ?_ (nextCharacter_keeps ready _ _ (fun _ => rfl) fun _ => ?_))
          fun hs => (nextCharacter_selectDue ready _ _).trans hs
        · exact (jumpTo_keeps _ s).trans (modPrinter_coherent id)
        · exact (congrArg Option.isSome hslip).trans rfl
  · exact .same s

theorem execPrrdyReady_answers (s : State) : Answers s (execPrrdyReady s) := by
  unfold execPrrdyReady
  split
  · rename_i hwaiting
    exact .next (nextCharacter_keeps true _ s (fun _ => rfl) fun h => by rw [h, hwaiting]; rfl)
      fun hs => (nextCharacter_selectDue true _ s).trans hs
  · exact .next (setPins_keeps s _) id

theorem execPaperAbsent_answers (s : State) : Answers s (execPaperAbsent s) := by
  unfold execPaperAbsent
  dsimp only
  split
  · rename_i h
    exact .next ((setPins_keeps s _).trans (paperOutFromReady_keeps _ h)) id
  · exact .next ((setPins_keeps s _).trans (modPrinter_coherent id)) id
  · exact .letThrough _ ((setPins_keeps s _).trans (abandonSlip_keeps _ _ _)) fun hs => abandonSlip_done _ _ _ hs
  · exact .next (setPins_keeps s _) id

theorem execPaperPresent_answers (s : State) : Answers s (execPaperPresent s) := by
  unfold execPaperPresent
  dsimp only
  split
  · rename_i h
    exact .next ((setPins_keeps s _).trans (modPrinter_coherent fun hs => hs.rest (by dsimp only; rw [h]; rfl) rfl rfl)) id
  · exact .next (setPins_keeps s _) id

theorem execStoreCycleEnd_answers (s : State) : Answers s (execStoreCycleEnd s) := by
  unfold execStoreCycleEnd
  split
  · exact .same s
  · exact .letThrough _ ((((jumpTo_keeps _ s).trans (setStore_keeps _ _)).trans (noticeTo_keeps _ _ _)).trans
      (applyPrinterSetting_keeps _ _ _)) fun hs => applyPrinterSetting_done _ _ _ hs

/-! ### Every command and every step -/

theorem setFree_moves (s : State) (n : Nat) : Moves [.free] s { s with free := n } := by
  intro p hp; cases p <;> first | rfl | exact absurd (by decide) hp

theorem setFree_keeps (s : State) (n : Nat) : Keeps s { s with free := n } := (setFree_moves s n).keeps (by decide)

/-- Every command answers a next state and keeps every invariant. -/
theorem exec_answers (i : Instr) (s : State) : Answers s (exec i s) := by
  cases i with
  | reset => exact execReset_answers s
  | linkSelectFall l => exact .next (setAssembly_keeps l _ s) id
  | unknownCommand l code => exact .posted l _ _ _ s
  | frameError l bytes bits => exact .posted l _ _ _ s
  | submitOrder l pr tag r length curve entries => exact execSubmitOrder_answers l pr tag r length curve entries s
  | addCaption l order chars => exact execAddCaption_answers l order chars s
  | amendPriority l order pr => exact execAmendPriority_answers l order pr s
  | withdrawOrder l order => exact execWithdrawOrder_answers l order s
  | mountConfirm l tag => exact execMountConfirm_answers l tag s
  | haltRound l => exact execHaltRound_answers l s
  | lineOut l b => exact execLineOut_answers l b s
  | lineIn l b => exact execLineIn_answers l b s
  | lineReset l b => exact execLineReset_answers l b s
  | markFaultCode l b => exact execMarkFaultCode_answers l b s
  | releaseReceipt l f => exact execReleaseReceipt_answers l f s
  | reprintSlip l f => exact execReprintSlip_answers l f s
  | ackNotice l b => exact execAckNotice_answers l b s
  | setNoticeMask l b => exact execSetNoticeMask_answers l b s
  | setClock l minute day => exact execSetClock_answers l minute day s
  | writeDirectory l index args => exact execWriteDirectory_answers l index args s
  | eraseDirectory l index => exact execEraseDirectory_answers l index s
  | writeCurve l index points => exact execWriteCurve_answers l index points s
  | writeSettings l args => exact execWriteSettings_answers l args s
  | setLock l => exact execSetLock_answers l s
  | clearLock l => exact execClearLock_answers l s
  | readStatus l => exact .next ((takeAnswer_keeps l _ _ s).trans (setFree_keeps _ _)) id
  | readOrder l order => exact .next ((takeAnswer_keeps l _ _ s).trans (setFree_keeps _ _)) id
  | readResult l | readQueue l | readDestination l order index | readChannel l channel | readReceipt l filing | readNextReceipt l
  | readDirectory l index | readCurve l index | readSettings l | readNotice l | readClock l => exact .copied l _ _ s
  | presenceFall l => exact execPresenceFall_answers l s
  | presenceRise l => exact .next (setPins_keeps s _) id
  | indexPulse time => exact execIndexPulse_answers time s
  | photocellReading v => exact execPhotocellReading_answers v s
  | coverOpen => exact execCoverOpen_answers s
  | coverClose => exact execCoverClose_answers s
  | clampOpen => exact execClampOpen_answers s
  | clampClose => exact .next (setPins_keeps s _) id
  | homeSwitchClose => exact execHomeSwitchClose_answers s
  | guardFall => exact .next ((setPins_keeps s _).trans (setStore_keeps _ { s.store with
      cycle := s.store.cycle.map fun c => { c with guardFell := c.guardFell || s.pins.guard } })) id
  | guardRise => exact .next (setPins_keeps s _) id
  | carrierPresent c => exact execCarrierPresent_answers c s
  | carrierAbsent c => exact execCarrierAbsent_answers c s
  | prrdyReady => exact execPrrdyReady_answers s
  | paperAbsent => exact execPaperAbsent_answers s
  | paperPresent => exact execPaperPresent_answers s
  | station c code => exact .finish (receiveFrame_keeps c code _ fun _ => takeStation_keeps c code s)
  | phased c code => exact execPhased_answers c code s
  | retake c code line => exact .finish (receiveFrame_keeps c code _ fun _ => takeRetake_keeps c _ s)
  | hold c code => exact execHold_answers c code s
  | go c code => exact execGo_answers c code s
  | receipt c code received unrecovered grade picture =>
    exact .finish (receiveFrame_keeps c code _ fun _ => endWithOutcome_keepsAll c _ _ s)
  | badCheck c => exact .finish (failedCheck_keeps c s)
  | framingFailure c => exact .finish (failedCheck_keeps c s)
  | retryDelayExpiry order dest => exact execRetryDelayExpiry_answers order dest s
  | lockLimit => exact execLockLimit_answers s
  | idleStop => exact execIdleStop_answers s
  | coastStop => exact execCoastStop_answers s
  | returnLimit => exact execReturnLimit_answers s
  | dialSettleEnd c => exact execDialSettleEnd_answers c s
  | digitToneEnd c => exact execDigitToneEnd_answers c s
  | digitSilenceEnd c => exact execDigitSilenceEnd_answers c s
  | answerLimit c => exact execAnswerLimit_answers c s
  | announceLimit c => exact execAnnounceLimit_answers c s
  | carrierLossLimit c => exact execCarrierLossLimit_answers c s
  | receiptLimit c => exact execReceiptLimit_answers c s
  | cooldownExpiry c => exact execCooldownExpiry_answers c s
  | holdTimeout c => exact execHoldTimeout_answers c s
  | linePeriodStart c => exact execLinePeriodStart_answers c s
  | forwardFrameSent c => exact execForwardFrameSent_answers c s
  | stopSent c => exact execStopSent_answers c s
  | resendEnd c => exact execResendEnd_answers c s
  | releaseComplete c => exact execReleaseComplete_answers c s
  | storeCycleEnd => exact execStoreCycleEnd_answers s
  | clockSecond => exact execClockSecond_answers s
  | slipCharacterSent ready => exact execSlipCharacterSent_answers ready s
  | slipBegin ready => exact execSlipBegin_answers ready s
  | filingTransfer => exact execFilingTransfer_answers s
  | frameIgnored c code kind => exact execFrameIgnored_answers c code kind s

theorem tick_moves (s : State) : Moves [.now, .pending] s (tick s) := by
  unfold tick
  split
  all_goals
    intro p hp
    cases p <;> first | rfl | exact absurd (by decide) hp

/-- A step keeps every invariant, and leaves the scratch flag clear if it was. -/
theorem step_keeps {s t : State} (h : step s = .next t) : (∀ p : Part, p ≠ .pending → p.keeps s t) ∧ (StepDone s → StepDone t) := by
  unfold step at h
  split at h
  · cases h
    refine ⟨fun p hp => ?_, (tick_moves s).stepDone (by decide)⟩
    by_cases hn : p = .now
    · subst hn; trivial
    · exact Part.keeps_of_same (tick_moves s p (by simp [hp, hn]))
  · rename_i i rest _
    obtain ⟨u, hu, hkeeps, hdone⟩ := exec_answers i { s with pending := rest }
    cases hu.symm.trans h
    refine ⟨fun p hp => ?_, hdone⟩
    have hk := hkeeps p
    cases p
    case pending => exact absurd rfl hp
    all_goals exact hk

theorem channelsCoherent_iff (s : State) :
    HookCoherent s ∧ QueuesBounded s ↔ ∀ c, ChannelCoherent (s.channels.get c) :=
  ⟨fun h c => ⟨h.1 c, h.2 c⟩, fun h => ⟨fun c => (h c).1, fun c => (h c).2⟩⟩

/-- Settles O57: the links' part of what every step keeps. -/
theorem everyStepKeepsAttention : Obligations.EveryStepKeepsAttention := by
  unfold Obligations.EveryStepKeepsAttention
  exact fun s t hs h => (step_keeps h).1 .links (by decide) hs

/-- Settles O58: the parts of the line store, the book and the log. -/
theorem everyStepKeepsTheTables : Obligations.EveryStepKeepsTheTables := by
  unfold Obligations.EveryStepKeepsTheTables
  intro s t hlines ⟨hbook, hlog⟩ horders hrecords h
  have hkeeps := (step_keeps h).1
  obtain ⟨hbook', horders'⟩ := hkeeps .book (by decide) ⟨hbook, horders⟩
  obtain ⟨hlog', hrecords'⟩ := hkeeps .log (by decide) ⟨hlog, hrecords⟩
  exact ⟨hkeeps .lineStore (by decide) hlines, ⟨hbook', hlog'⟩, horders', hrecords'⟩

/-- Settles O59: the parts of the drum, the printer and the channels, and the scratch flag. -/
theorem everyStepKeepsTheStatesCoherent : Obligations.EveryStepKeepsTheStatesCoherent := by
  unfold Obligations.EveryStepKeepsTheStatesCoherent
  refine ⟨fun s t hdrum hslip hhook hqueues h => ?_, fun s t hs h => (step_keeps h).2 hs⟩
  have hkeeps := (step_keeps h).1
  exact ⟨hkeeps .drum (by decide) hdrum, hkeeps .printer (by decide) hslip,
    (channelsCoherent_iff t).mpr (hkeeps .channels (by decide) ((channelsCoherent_iff s).mp ⟨hhook, hqueues⟩))⟩

/-- Settles O2: the queue is the part of which every command keeps the value. -/
theorem everyCommandAnswersANextState : Obligations.EveryCommandAnswersANextState := by
  unfold Obligations.EveryCommandAnswersANextState
  intro i s
  obtain ⟨t, ht, hkeeps, _⟩ := exec_answers i s
  exact ⟨t, ht, hkeeps .pending⟩

/-- Settles O1. -/
theorem stepRunsTheFrontCommand : Obligations.StepRunsTheFrontCommand := by
  unfold Obligations.StepRunsTheFrontCommand
  refine ⟨fun i rest s h => by simp only [step, h], fun s h => ⟨tick s, by simp only [step, h], tick_moves s, ?_⟩⟩
  unfold tick
  cases hdue : dueCommand s with
  | none => exact .inl ⟨rfl, rfl, h⟩
  | some i => exact .inr ⟨i, rfl, rfl, rfl⟩

/-- Settles O60: each invariant, evaluated at the state after reset. -/
theorem resetMeetsEveryInvariant : Obligations.ResetMeetsEveryInvariant := by
  unfold Obligations.ResetMeetsEveryInvariant
  obtain ⟨hhook, hqueues⟩ := (channelsCoherent_iff State.reset).mpr fun c => (reset_channels c).symm ▸ reset_channelCoherent
  exact ⟨reset_attentionAgrees, reset_lineStore_wf, reset_tablesBounded, reset_ordersDistinct, reset_recordsDistinct,
    reset_drumCoherent, reset_slipCoherent, hhook, hqueues, rfl⟩

end Sys2Proof.Machine
end

section
/-! PROOF. RESET: the volatile state (O3) and the test of the stored items (O4). -/

namespace Sys2Proof.Machine

/-- The state that RESET leaves (R25). -/
def afterReset (s : State) : State :=
  { State.reset with
    store := storeAfterReset s.store,
    head := headAfterReset s.pins.home,
    printer := { State.reset.printer with
      state := printerAfterReset (readSettings (storeAfterReset s.store)).printerEnabled s.pins.paper },
    pins := s.pins,
    free := s.free,
    pending := s.pending }

theorem exec_reset (s : State) : exec .reset s = .next (afterReset s) := by rfl

theorem storeAfterReset_cycle (st : Store) : (storeAfterReset st).cycle = none := by
  unfold storeAfterReset; split <;> rfl

theorem headAfterReset_position (home : Bool) : (headAfterReset home).position = 0 := by cases home <;> rfl

theorem headAfterReset_held (home : Bool) : (headAfterReset home).held = 0 := by cases home <;> rfl

theorem headAfterReset_state (home : Bool) :
    if home then (headAfterReset home).state = .home ∧ (headAfterReset home).returnTimer = none
    else (headAfterReset home).state = .returning ∧ (headAfterReset home).returnTimer = some 0 := by
  cases home <;> exact ⟨rfl, rfl⟩

/-- Settles O3: the fields are those of `State.reset`, but for the head and the printer, which follow their inputs. -/
theorem resetReturnsTheVolatileState : Obligations.ResetReturnsTheVolatileState := by
  unfold Obligations.ResetReturnsTheVolatileState
  intro s
  refine ⟨afterReset s, exec_reset s, rfl, rfl, rfl, rfl, rfl, rfl, rfl, rfl, storeAfterReset_cycle _, rfl, rfl, rfl, rfl,
    rfl, rfl, rfl, rfl, rfl, rfl, rfl, rfl, rfl, rfl, headAfterReset_position _, headAfterReset_held _, headAfterReset_state _,
    rfl, rfl, rfl, rfl, rfl, rfl, rfl, rfl, rfl, rfl, rfl, rfl, rfl, rfl, rfl, rfl, rfl, rfl, fun c => ?_, fun l => ?_, rfl, rfl⟩
  · have hchannel : (afterReset s).channels.get c = Channel.initial := reset_channels c
    have hmember : (afterReset s).round.members.get c = none := PerChan.get_all _ c
    rw [hchannel]
    exact ⟨hmember, rfl, rfl, rfl, rfl, rfl, rfl, rfl, rfl, rfl, rfl, rfl, rfl, rfl, rfl, rfl, rfl, rfl, rfl, rfl, rfl, rfl,
      rfl, rfl, rfl, rfl, rfl, rfl, rfl, rfl⟩
  · have hlink : (afterReset s).links.get l = LinkState.initial := by cases l <;> rfl
    rw [hlink]
    exact ⟨rfl, rfl, rfl, rfl, rfl, fun k => ⟨PerKind.get_all _ k, PerKind.get_all _ k⟩⟩

/-! ### The stored items -/

@[simp] theorem testItem_contents {α : Type} (bytes : α → List Byte) (i : Stored α) : (testItem bytes i).contents = i.contents :=
  rfl

@[simp] theorem testItem_check {α : Type} (bytes : α → List Byte) (i : Stored α) : (testItem bytes i).check = i.check := rfl

/-- The test of a reset (R165). -/
@[simp] theorem testItem_damaged {α : Type} (bytes : α → List Byte) (i : Stored α) :
    (testItem bytes i).damaged = true ↔ checkCode (bytes i.contents) ≠ i.check := by
  simp [testItem]

theorem not_self_ne (w : Word) : w ≠ ~~~w := by
  intro h
  have := congrArg (BitVec.getLsbD · 0) h
  simp at this

/-- An item left half-written fails the test (R172). -/
theorem testItem_breakItem_damaged {α : Type} (bytes : α → List Byte) (i : Stored α) :
    (testItem bytes (breakItem bytes i)).damaged = true :=
  (testItem_damaged bytes _).mpr (not_self_ne _)

theorem modifyAt_getElem {α : Type} {n : Nat} (v : Vector α n) (i j : Nat) (f : α → α) (hj : j < n) :
    (modifyAt v i f)[j] = if i = j then f v[j] else v[j] := by
  unfold modifyAt
  by_cases hi : i < n
  · rw [Vector.getElem?_eq_getElem hi]
    by_cases hij : i = j
    · subst hij; simp
    · simp [hij]
  · rw [Vector.getElem?_eq_none (by omega)]
    rw [if_neg (by omega)]

theorem storeAfterReset_idle {st : Store} (h : st.cycle = none) : storeAfterReset st = testStore st := by
  simp only [storeAfterReset, h]

theorem storeAfterReset_writing {st : Store} {c : StoreCycle} (h : st.cycle = some c) :
    storeAfterReset st = testStore (breakWrite c.item st) := by
  simp only [storeAfterReset, h]

theorem testStore_entry (st : Store) (i : Nat) (hi : i < 24) :
    (testStore st).entries[i] = testItem entryContentBytes st.entries[i] := Vector.getElem_map _ _

theorem testStore_curve (st : Store) (i : Nat) (hi : i < 4) :
    (testStore st).curves[i] = testItem curveBytes st.curves[i] := Vector.getElem_map _ _

/-- The item that the interrupted write was writing is left half-written (R172). -/
theorem breakWrite_entry (e : EntryContents) (st : Store) (i : Nat) (hi : i < 24) :
    (breakWrite (.entry i e) st).entries[i] = breakItem entryContentBytes st.entries[i] :=
  (modifyAt_getElem _ _ _ _ hi).trans (if_pos rfl)

theorem breakWrite_curve (t : Curve) (st : Store) (i : Nat) (hi : i < 4) :
    (breakWrite (.curve i t) st).curves[i] = breakItem curveBytes st.curves[i] :=
  (modifyAt_getElem _ _ _ _ hi).trans (if_pos rfl)

/-- Every other item stays. -/
theorem breakWrite_entry_ne {w : StoreWrite} (st : Store) {i : Nat} (hi : i < 24) (h : ∀ e, w ≠ .entry i e) :
    (breakWrite w st).entries[i] = st.entries[i] := by
  cases w with
  | entry j e => exact (modifyAt_getElem _ _ _ _ hi).trans (if_neg fun hij => h e (by rw [hij]))
  | curve j t => rfl
  | settings v => rfl
  | lock f => rfl

theorem breakWrite_curve_ne {w : StoreWrite} (st : Store) {i : Nat} (hi : i < 4) (h : ∀ t, w ≠ .curve i t) :
    (breakWrite w st).curves[i] = st.curves[i] := by
  cases w with
  | curve j t => exact (modifyAt_getElem _ _ _ _ hi).trans (if_neg fun hij => h t (by rw [hij]))
  | entry j e => rfl
  | settings v => rfl
  | lock f => rfl

theorem breakWrite_settings (w : StoreWrite) (st : Store) (h : ∀ v, w ≠ .settings v) : (breakWrite w st).settings = st.settings := by
  cases w <;> first | rfl | exact absurd rfl (h _)

theorem breakWrite_lock (w : StoreWrite) (st : Store) (h : ∀ f, w ≠ .lock f) : (breakWrite w st).lock = st.lock := by
  cases w <;> first | rfl | exact absurd rfl (h _)

/-- The item whose write was interrupted reads as damaged (R165, R172). -/
theorem testStore_breakWrite (w : StoreWrite) (st : Store) :
    match w with
    | .entry i _ => i < 24 → readEntry (testStore (breakWrite w st)) i = .damaged
    | .curve i _ => i < 4 → curveReplaced (testStore (breakWrite w st)) i = true ∧
        readCurvePoints (testStore (breakWrite w st)) i = unityCurve
    | .settings _ => (testStore (breakWrite w st)).settings.damaged = true ∧
        readSettings (testStore (breakWrite w st)) = defaultSettings
    | .lock _ => (testStore (breakWrite w st)).lock.damaged = true ∧ readLockFlag (testStore (breakWrite w st)) = true := by
  cases w with
  | entry i e =>
    intro hi
    have hdamaged : ((testStore (breakWrite (.entry i e) st)).entries[i]).damaged = true := by
      rw [testStore_entry _ i hi, breakWrite_entry]
      exact testItem_breakItem_damaged _ _
    simp only [readEntry, Vector.getElem?_eq_getElem hi, hdamaged, if_true]
  | curve i t =>
    intro hi
    have hdamaged : ((testStore (breakWrite (.curve i t) st)).curves[i]).damaged = true := by
      rw [testStore_curve _ i hi, breakWrite_curve]
      exact testItem_breakItem_damaged _ _
    simp only [curveReplaced, readCurvePoints, Vector.getElem?_eq_getElem hi, hdamaged, if_true, and_self]
  | settings v =>
    have hdamaged := testItem_breakItem_damaged settingsBytes st.settings
    exact ⟨hdamaged, if_pos hdamaged⟩
  | lock f =>
    have hdamaged := testItem_breakItem_damaged lockBytes st.lock
    exact ⟨hdamaged, by rw [readLockFlag, Bool.or_eq_true]; exact .inl hdamaged⟩

/-- Settles O4: the store after a reset is the tested one, the interrupted write broken first. -/
theorem resetTestsTheStore : Obligations.ResetTestsTheStore := by
  unfold Obligations.ResetTestsTheStore
  refine ⟨fun s hidle => ⟨afterReset s, exec_reset s, storeAfterReset_cycle _, ?_⟩,
    fun s c hc => ⟨afterReset s, exec_reset s, storeAfterReset_cycle _, ?_⟩⟩
  · have hstore : (afterReset s).store = testStore s.store := storeAfterReset_idle hidle
    rw [hstore]
    refine ⟨fun i hi => ?_, fun i hi => ?_, ⟨rfl, rfl, testItem_damaged _ _⟩, rfl, rfl, testItem_damaged _ _⟩
    · rw [testStore_entry]; exact ⟨rfl, rfl, testItem_damaged _ _⟩
    · rw [testStore_curve]; exact ⟨rfl, rfl, testItem_damaged _ _⟩
  · have hstore : (afterReset s).store = testStore (breakWrite c.item s.store) := storeAfterReset_writing hc
    rw [hstore]
    refine ⟨testStore_breakWrite c.item s.store, fun i hi hne => ?_, fun i hi hne => ?_, fun hne => ?_, fun hne => ?_, fun l => ?_⟩
    · rw [testStore_entry, breakWrite_entry_ne s.store hi hne]; exact ⟨rfl, rfl⟩
    · rw [testStore_curve, breakWrite_curve_ne s.store hi hne]; exact ⟨rfl, rfl⟩
    · rw [testStore, breakWrite_settings c.item s.store hne]; exact ⟨rfl, rfl⟩
    · rw [testStore, breakWrite_lock c.item s.store hne]; exact ⟨rfl, rfl⟩
    · cases l <;> exact ⟨rfl, rfl⟩

end Sys2Proof.Machine
end

section
/-! PROOF. The frames of the link and of the back channel are read back (O7), and the lines of a link execute them (O5). -/

namespace Sys2Proof.Machine

/-! ### Link frames (R175, R184) -/

theorem word2_wordBytes (w : Word) : word2 (w.extractLsb' 8 8) (w.extractLsb' 0 8) = w := by
  unfold word2
  ext i hi
  simp only [BitVec.getElem_append, BitVec.getElem_extractLsb']
  split <;> rw [BitVec.getLsbD_eq_getElem (by omega)] <;> congr 1 <;> omega

theorem word3_tagBytes (w : BitVec 24) : word3 (w.extractLsb' 16 8) (w.extractLsb' 8 8) (w.extractLsb' 0 8) = w := by
  unfold word3
  ext i hi
  simp only [BitVec.getElem_append, BitVec.getElem_extractLsb']
  split
  · rw [BitVec.getLsbD_eq_getElem (by omega)]; congr 1; omega
  · split <;> rw [BitVec.getLsbD_eq_getElem (by omega)] <;> congr 1 <;> omega

theorem entryArgsOf_entryArgBytes (a : EntryArgs) (hname : a.name.length = 16) (hdigits : a.digits.length = 20) :
    entryArgsOf (entryArgBytes a) = a := by
  cases a
  simp only at hname hdigits
  simp [entryArgsOf, entryArgBytes, wordBytes, List.getD_eq_getElem?_getD, hname, hdigits, List.drop_append,
    List.take_append, word2_wordBytes]

theorem length_entryArgBytes (a : EntryArgs) (hname : a.name.length = 16) (hdigits : a.digits.length = 20) :
    (entryArgBytes a).length = 51 := by
  simp [entryArgBytes, wordBytes, hname, hdigits]

/-- A count byte counts up to 255. -/
theorem toNat_count {n : Nat} (h : n ≤ 255) : (BitVec.ofNat 8 n).toNat = n := by
  rw [BitVec.toNat_ofNat]; omega

/-- A frame with as many argument bytes as its command needs is that command (R175). -/
theorem frameRow_fits {l : Link} {code : Byte} {args : List Byte} {sh : CommandShape} {i : Instr} (hs : shapeOf code = some sh)
    (hn : argsNeeded sh.size args = some args.length) (hc : commandOf l code args = some i) :
    frameRow l (code :: args) 0 = some i := by
  have hfits : frameFits code args 0 = true := by
    simp only [frameFits, hs, hn]
    split <;> simp
  simp only [frameRow, hs, hfits, if_true, hc]

theorem argsNeeded_fixed {n : Nat} {args : List Byte} (h : args.length = n) :
    argsNeeded (.fixed n) args = some args.length := by rw [h]; rfl

/-- The number of argument bytes that a count byte asks for. -/
theorem argsNeeded_counted {header countAt limit n : Nat} {args : List Byte} (hc : args[countAt]? = some (BitVec.ofNat 8 n))
    (hn : n ≤ limit) (h255 : n ≤ 255) (hlen : args.length = header + n) :
    argsNeeded (.counted header countAt limit) args = some args.length := by
  simp only [argsNeeded, hc, toNat_count h255, if_pos hn, hlen]

/-- Every well-formed command is read back from its frame. -/
theorem frameRow_commandFrame (i : Instr) (l : Link) (bytes : List Byte) (hwf : i.wf = true)
    (h : commandFrame i = some (l, bytes)) : frameRow l bytes 0 = some i := by
  cases i
  case submitOrder k pr tag r p cu entries =>
    cases h
    have hlen : entries.length ≤ 255 := of_decide_eq_true hwf
    exact frameRow_fits (sh := { read := false, size := .counted 9 8 255 }) rfl
      (argsNeeded_counted (n := entries.length) rfl hlen hlen (by simp [tagBytes, wordBytes]; omega))
      (congr (congrArg (fun v w => some (Instr.submitOrder l pr v r w cu entries)) (word3_tagBytes tag)) (word2_wordBytes p))
  case addCaption k o chars =>
    cases h
    have hlen : chars.length ≤ 48 := of_decide_eq_true hwf
    exact frameRow_fits (sh := { read := false, size := .counted 3 2 48 }) rfl
      (argsNeeded_counted (n := chars.length) rfl hlen (by omega) (by simp [wordBytes]; omega))
      (congrArg (fun w => some (Instr.addCaption l w chars)) (word2_wordBytes o))
  case writeDirectory k index a =>
    cases h
    obtain ⟨hname, hdigits⟩ : a.name.length = 16 ∧ a.digits.length = 20 := by simpa [Instr.wf] using hwf
    exact frameRow_fits (sh := { read := false, size := .fixed 52 }) rfl
      (argsNeeded_fixed (by simp [length_entryArgBytes a hname hdigits]))
      (congrArg (fun x => some (Instr.writeDirectory l index x)) (entryArgsOf_entryArgBytes a hname hdigits))
  case writeCurve k index points =>
    cases h
    have hlen : points.length = 17 := of_decide_eq_true hwf
    exact frameRow_fits (sh := { read := false, size := .fixed 18 }) rfl (argsNeeded_fixed (by simp [hlen])) rfl
  case writeSettings k a =>
    cases h
    refine Eq.trans (b := some (.writeSettings l { a with
      diameter := word2 (a.diameter.extractLsb' 8 8) (a.diameter.extractLsb' 0 8),
      retryDelay := word2 (a.retryDelay.extractLsb' 8 8) (a.retryDelay.extractLsb' 0 8),
      bureau := word2 (a.bureau.extractLsb' 8 8) (a.bureau.extractLsb' 0 8) })) rfl ?_
    simp only [word2_wordBytes]
  case amendPriority k o p => cases h; exact congrArg (fun w => some (Instr.amendPriority l w p)) (word2_wordBytes o)
  case withdrawOrder k o => cases h; exact congrArg (fun w => some (Instr.withdrawOrder l w)) (word2_wordBytes o)
  case mountConfirm k tag => cases h; exact congrArg (fun w => some (Instr.mountConfirm l w)) (word3_tagBytes tag)
  case releaseReceipt k f => cases h; exact congrArg (fun w => some (Instr.releaseReceipt l w)) (word2_wordBytes f)
  case reprintSlip k f => cases h; exact congrArg (fun w => some (Instr.reprintSlip l w)) (word2_wordBytes f)
  case setClock k m d =>
    cases h
    exact congr (congrArg (fun v w => some (Instr.setClock l v w)) (word2_wordBytes m)) (word2_wordBytes d)
  case readOrder k o => cases h; exact congrArg (fun w => some (Instr.readOrder l w)) (word2_wordBytes o)
  case readDestination k o j => cases h; exact congrArg (fun w => some (Instr.readDestination l w j)) (word2_wordBytes o)
  case readReceipt k f => cases h; exact congrArg (fun w => some (Instr.readReceipt l w)) (word2_wordBytes f)
  all_goals cases h <;> rfl

/-! ### Back-channel frames (R112, R185) -/

/-- The last two bytes of a frame are judged against the check of those before them (R121). -/
theorem checkPasses_append (bs : List Byte) (a b : Byte) :
    checkPasses (bs ++ [a, b]) = decide (be 2 (checkCode bs).toNat = [a, b]) := by
  have htake : (bs ++ [a, b]).take ((bs ++ [a, b]).length - 2) = bs := by simp
  rw [checkPasses, htake, withCheck]
  simp

/-- A run of bytes with the size of its kind is one row (R185). -/
theorem backChannelRows_frame (c : Chan) {k : Byte} {kind : BackKind} {body : List Byte} (hk : backKindOfByte k = some kind)
    (hsize : body.length + 3 = backFrameSize kind) (a b : Byte) :
    backChannelRows c (k :: (body ++ [a, b])) =
      [if checkPasses (k :: (body ++ [a, b])) then (backRow c kind body).getD (.badCheck c) else .badCheck c] := by
  have hlen : (k :: (body ++ [a, b])).length = backFrameSize kind := by simp [← hsize]
  have hbody : (body ++ [a, b]).take (backFrameSize kind - 3) = body := by
    rw [← hsize, Nat.add_sub_cancel, List.take_left']
    rfl
  have hwhole : (k :: (body ++ [a, b])).take (backFrameSize kind) = k :: (body ++ [a, b]) :=
    List.take_of_length_le (Nat.le_of_eq hlen)
  simp only [backChannelRows, hk, hlen, hwhole, hbody, Nat.lt_irrefl, if_false, if_true, List.drop_succ_cons, List.drop_zero]

/-- A body of the size of its kind spells a row (R184). -/
theorem backRow_isSome (c : Chan) (kind : BackKind) (body : List Byte) (h : body.length + 3 = backFrameSize kind) :
    ∃ i, backRow c kind body = some i := by
  cases kind
  case retake =>
    match body, h with
    | [a, b, l0, l1], _ => exact ⟨_, rfl⟩
  case receipt =>
    match body, h with
    | [a, b, r0, r1, u0, u1, q, p0, p1], _ => exact ⟨_, rfl⟩
  all_goals
    match body, h with
    | [a, b], _ => exact ⟨_, rfl⟩

/-- Runs that an idle has ended become rows one after the other, and leave the line ready (R185). -/
theorem receive_runs (c : Chan) (runs : List (List (Byte × Nat) × Nat))
    (h : ∀ r ∈ runs, r.1 ≠ [] ∧ (∀ x ∈ r.1, x.2 < 10) ∧ 10 ≤ r.2) :
    receiveLevels (runs.flatMap fun r =>
        r.1.flatMap (fun x => backByteLevels x.1 ++ List.replicate x.2 true) ++ List.replicate r.2 true) Reception.ready =
      Reception.ready ∧
    receiveRows c (runs.flatMap fun r =>
        r.1.flatMap (fun x => backByteLevels x.1 ++ List.replicate x.2 true) ++ List.replicate r.2 true) Reception.ready =
      runs.flatMap fun r => backChannelRows c (r.1.map Prod.fst) := by
  induction runs with
  | nil => exact ⟨rfl, rfl⟩
  | cons r runs ih =>
    obtain ⟨hne, hgaps, hidle⟩ := h r (by simp)
    obtain ⟨hleft, hrows⟩ := ih fun x hx => h x (by simp [hx])
    obtain ⟨i, hi, hbytes, hopen⟩ := receive_bytes c r.1 [] idleBits hgaps
    obtain ⟨hready, hclose⟩ := receive_idle c (some (r.1.map Prod.fst)) r.2 i hi (by omega)
    have hrun : receiveLevels (r.1.flatMap fun x => backByteLevels x.1 ++ List.replicate x.2 true) Reception.ready =
        { idle := i, byte := none, run := some (r.1.map Prod.fst) } := by
      simpa [Reception.ready, hne] using hbytes
    have hrunRows : receiveRows c (r.1.flatMap fun x => backByteLevels x.1 ++ List.replicate x.2 true) Reception.ready =
        openRunRows c (r.1.map Prod.fst) := by
      simpa [Reception.ready, openRunRows] using hopen
    constructor
    · simp only [List.flatMap_cons, receiveLevels_append, hrun, hready, hleft]
    · simp only [List.flatMap_cons, receiveLevels_append, receiveRows_append, hrun, hrunRows, hready, hclose, hrows,
        openRunRows_close]

/-- The bytes after the last idle are the open run. -/
theorem receive_open (c : Chan) (last : List (Byte × Nat)) (h : ∀ x ∈ last, x.2 < 10) :
    receiveRows c (last.flatMap fun x => backByteLevels x.1 ++ List.replicate x.2 true) Reception.ready =
      openRunRows c (last.map Prod.fst) := by
  obtain ⟨_, _, _, hopen⟩ := receive_bytes c last [] idleBits h
  simpa [Reception.ready, openRunRows] using hopen

/-- Settles O7: link frames by their command, back-channel frames by kind and check, and levels by runs of bytes. -/
theorem everyFrameIsReadBack : Obligations.EveryFrameIsReadBack := by
  unfold Obligations.EveryFrameIsReadBack
  refine ⟨frameRow_commandFrame, fun c k kind body hk hsize => ⟨?_, fun a b hne => ?_⟩, fun b => rfl, ?_⟩
  · obtain ⟨i, hi⟩ := backRow_isSome c kind body hsize
    refine ⟨i, hi, ?_⟩
    obtain ⟨a, b, hcheck⟩ : ∃ a b, be 2 (checkCode (k :: body)).toNat = [a, b] := ⟨_, _, rfl⟩
    rw [withCheck, hcheck, List.cons_append, backChannelRows_frame c hk hsize, ← List.cons_append, checkPasses_append, hcheck]
    simp [hi]
  · rw [backChannelRows_frame c hk hsize, ← List.cons_append, checkPasses_append]
    simp [Ne.symm hne]
  · rintro c runs last hruns hlast ended open_ rfl rfl
    obtain ⟨hready, hrows⟩ := receive_runs c runs hruns
    refine ⟨hrows, fun k rest hk => ?_⟩
    have hopen := receive_open c last hlast
    have hlen : last.length = (k :: rest).length := by rw [← hk, List.length_map]
    simp only [backLineRows, receiveRows_append, hready, hopen, hk, hlen]
    refine ⟨fun hsize => ?_, fun kind hkind hshort => ?_⟩
    · unfold openRunRows
      cases hkind : backKindOfByte k with
      | none => simp only [hkind]
      | some kind => simp only [hkind, if_neg (Nat.not_lt.mpr (hsize kind hkind))]
    · simp only [openRunRows, hkind, if_pos hshort, List.append_nil]

/-! ### The lines of a link (R174 to R176) -/

/-- Every read command has a fixed number of argument bytes (R184). -/
theorem shapeOf_read_fixed {code : Byte} {sh : CommandShape} (h : shapeOf code = some sh) (hr : sh.read = true) :
    ∃ n, sh.size = .fixed n := by
  unfold shapeOf at h
  split at h <;> cases h <;> first | exact ⟨_, rfl⟩ | cases hr

/-- Bytes of a frame behind which no copy has been due: a read whose argument bytes have not all arrived, or no read (R176). -/
def BeforeCopy (bytes : List Byte) : Prop :=
  ∀ code args sh n, bytes = code :: args → shapeOf code = some sh → sh.read = true → argsNeeded sh.size args = some n →
    args.length < n

theorem BeforeCopy.of_append {bytes more : List Byte} (h : BeforeCopy (bytes ++ more)) : BeforeCopy bytes := by
  rintro code args sh n rfl hs hr hn
  obtain ⟨m, hm⟩ := shapeOf_read_fixed hs hr
  have := h code (args ++ more) sh n rfl hs hr (by rw [hm] at hn ⊢; exact hn)
  rw [List.length_append] at this
  omega

theorem BeforeCopy.copyDue {bytes : List Byte} (h : BeforeCopy bytes) (l : Link) (p : Nat) :
    copyDue l (.receiving bytes [] none p) = none := by
  cases bytes with
  | nil => rfl
  | cons code args =>
    cases hs : shapeOf code with
    | none => simp only [Machine.copyDue, hs]
    | some sh =>
      simp only [Machine.copyDue, hs]
      exact if_neg fun ⟨hr, hn⟩ => Nat.lt_irrefl _ (h code args sh _ rfl hs hr hn)

/-- Whole bytes clocked in before a copy is due join the frame (R175). -/
theorem linkEvents_bytes (l : Link) (more : List Byte) : ∀ (bytes : List Byte) (s : State),
    (s.links.get l).assembly = .receiving bytes [] none 0 → BeforeCopy (bytes ++ more) →
    linkEvents l ((more.flatMap msbFirst).map .clock) s = .next (setAssembly l (.receiving (bytes ++ more) [] none 0) s) := by
  induction more with
  | nil => intro bytes s ha _; simpa [← ha] using (setAssembly_self l s).symm
  | cons b more ih =>
    intro bytes s ha hcopy
    rw [List.append_cons] at hcopy
    have hbyte := linkEvents_byte l bytes b s ha
    rw [hcopy.of_append.copyDue, execRow_none] at hbyte
    rw [List.flatMap_cons, List.map_append, linkEvents_append _ hbyte, ih (bytes ++ [b]) _ (by simp) hcopy]
    simp

theorem linkEvents_single (l : Link) (e : LinkEvent) (s : State) : linkEvents l [e] s = linkEvent l e s := by
  simp only [linkEvents]
  cases linkEvent l e s <;> rfl

/-- A frame clocked in after a fall of select (R175). -/
theorem linkEvents_frame (l : Link) (bytes : List Byte) (bits : List Bool) (s : State) (hbits : bits.length < 8)
    (hcopy : BeforeCopy bytes) :
    linkEvents l (.selectFall :: clocked bytes bits) s = .next (setAssembly l (.receiving bytes bits none 0) s) := by
  have hfall : linkEvent l .selectFall s = .next (setAssembly l (.receiving [] [] none 0) s) := by rfl
  have hbytes := linkEvents_bytes l bytes [] (setAssembly l (.receiving [] [] none 0) s) (by simp) hcopy
  rw [linkEvents_cons _ hfall, clocked, List.map_append, linkEvents_append _ hbytes,
    linkEvents_partial l bytes bits [] _ (by simp) (by simpa using hbits)]
  simp

/-- The frame of a read command carries just its argument bytes (R184). -/
theorem commandFrame_read_args {i : Instr} {l : Link} {code : Byte} {args : List Byte} {sh : CommandShape}
    (h : commandFrame i = some (l, code :: args)) (hs : shapeOf code = some sh) (hr : sh.read = true) :
    argsNeeded sh.size args = some args.length := by
  cases i <;> cases h <;> cases hs <;> first | rfl | cases hr

/-- A read's copy is due with the last byte of its frame (R176). -/
theorem copyDue_read {i : Instr} {l : Link} {code : Byte} {args : List Byte} {sh : CommandShape} (hwf : i.wf = true)
    (h : commandFrame i = some (l, code :: args)) (hs : shapeOf code = some sh) (hr : sh.read = true) (p : Nat) :
    copyDue l (.receiving (code :: args) [] none p) = some i := by
  have hargs := commandFrame_read_args h hs hr
  have hfits : frameFits code args 0 = true := by simp [frameFits, hs, hargs, hr]
  have hrow := frameRow_commandFrame i l _ hwf h
  simp only [frameRow, hs, hfits, if_true] at hrow
  simp only [copyDue, hs, hr, hargs, and_self, if_true, hrow]

/-- A read is executed with the last bit of its frame (R176). -/
theorem linkEvents_read {i : Instr} {l : Link} {code : Byte} {args : List Byte} {sh : CommandShape} (hwf : i.wf = true)
    (h : commandFrame i = some (l, code :: args)) (hs : shapeOf code = some sh) (hr : sh.read = true) (s : State) :
    linkEvents l (.selectFall :: clocked (code :: args) []) s = exec i (setAssembly l (.receiving (code :: args) [] none 0) s) := by
  obtain ⟨before, b, hlast⟩ : ∃ before b, code :: args = before ++ [b] :=
    ⟨_, _, (List.dropLast_concat_getLast (List.cons_ne_nil code args)).symm⟩
  have hbefore : BeforeCopy before := by
    rintro code' args' sh' n rfl hs' hr' hn
    obtain ⟨rfl, rfl⟩ := List.cons.inj hlast
    cases hs.symm.trans hs'
    obtain ⟨m, hm⟩ := shapeOf_read_fixed hs hr
    have hargs := commandFrame_read_args h hs hr
    rw [hm] at hargs hn
    cases hargs
    cases hn
    simp
  have hframe := linkEvents_frame l before [] s (by simp) hbefore
  rw [clocked, List.append_nil] at hframe
  rw [clocked, List.append_nil, hlast, List.flatMap_append, List.map_append, ← List.cons_append, linkEvents_append _ hframe,
    List.flatMap_singleton, linkEvents_byte l before b _ (by simp), ← hlast, copyDue_read hwf h hs hr, execRow_some,
    setAssembly_setAssembly]

/-- A copy that has been taken is shifted out by one bit for each clock (R176). -/
theorem linkEvents_shift (l : Link) (answer : List Byte) (more : List Bool) : ∀ (bytes : List Byte) (bits : List Bool) (p : Nat)
    (s : State), (s.links.get l).assembly = .receiving bytes bits (some answer) p →
    ∃ bytes' bits', linkEvents l (more.map .clock) s =
      .next (setAssembly l (.receiving bytes' bits' (some answer) (p + more.length)) s) := by
  induction more with
  | nil => intro bytes bits p s ha; exact ⟨bytes, bits, by simpa [← ha] using (setAssembly_self l s).symm⟩
  | cons b more ih =>
    intro bytes bits p s ha
    obtain ⟨bytes', bits', hs⟩ : ∃ bytes' bits', sampleBit b (s.links.get l).assembly = .receiving bytes' bits' (some answer) (p + 1) := by
      rw [ha, sampleBit]
      split
      · exact ⟨_, _, rfl⟩
      · exact ⟨_, _, rfl⟩
    have he : linkEvent l (.clock b) s = .next (setAssembly l (.receiving bytes' bits' (some answer) (p + 1)) s) := by
      simp only [linkEvent, hs, copyDue_taken, execRow_none]
    obtain ⟨bytes'', bits'', hrest⟩ := ih bytes' bits' (p + 1) (setAssembly l (.receiving bytes' bits' (some answer) (p + 1)) s) (by simp)
    refine ⟨bytes'', bits'', ?_⟩
    rw [List.map_cons, linkEvents_cons _ he, hrest, setAssembly_setAssembly, List.length_cons, Nat.add_right_comm, Nat.add_assoc]

theorem setAssembly_onlyLink (l : Link) (a : Assembly) (s : State) : OnlyLink l s (setAssembly l a s) :=
  fun _ hk => setAssembly_get_ne a s hk

/-- Settles O5: the three rows by what they post, the lines by the assembly that the bits leave. -/
theorem linkFramesLeaveTheirResults : Obligations.LinkFramesLeaveTheirResults := by
  unfold Obligations.LinkFramesLeaveTheirResults
  refine ⟨⟨fun l s => ?_, fun l code s => ?_, fun l code args k s => ?_, fun l k s => ?_⟩, fun l s => ⟨fun hidle => ?_,
    fun bytes bits hbits hcopy => ⟨linkEvents_frame l bytes bits s hbits hcopy, ?_⟩,
    fun i code args sh hwf h hs hr => linkEvents_read hwf h hs hr s, fun bytes bits answer p ha => ?_, fun bytes bits p => ?_⟩⟩
  · exact ⟨_, rfl, setAssembly_get _ _ _, setAssembly_onlyLink _ _ _, setAssembly_moves _ _ _⟩
  · exact ⟨_, rfl, postResult_posted _ _ _ _ _, postResult_moves _ _ _ _ _⟩
  · exact ⟨_, rfl, postResult_posted _ _ _ _ _, postResult_moves _ _ _ _ _⟩
  · exact ⟨_, rfl, postResult_posted _ _ _ _ _, postResult_moves _ _ _ _ _⟩
  · have hself : setAssembly l .idle s = s := by rw [← hidle]; exact setAssembly_self l s
    exact ⟨fun bit => by simp only [linkEvent, hidle, sampleBit, copyDue, execRow_none, hself],
      by simp only [linkEvent, hidle, frameEnded, execRow_none, hself]⟩
  · rw [← List.cons_append, linkEvents_append _ (linkEvents_frame l bytes bits s hbits hcopy), linkEvents_single]
    simp only [linkEvent, setAssembly_get, frameEnded, setAssembly_setAssembly]
    cases frameRow l bytes bits.length <;> rfl
  · refine ⟨by simp only [linkEvent, ha, frameEnded, execRow_none], fun more => linkEvents_shift l answer more bytes bits p s ha,
      fun b hb => ?_, fun hp => ?_⟩
    · simp only [ha, dataOutBit, dataOutByte, List.getD_eq_getElem?_getD, hb, Option.getD_some]
    · have hend : answer[p / 8]? = none := List.getElem?_eq_none (by omega)
      simp [ha, dataOutBit, dataOutByte, List.getD_eq_getElem?_getD, hend]
  · simp [dataOutBit, dataOutByte]

end Sys2Proof.Machine
end

section
/-! PROOF. The notice commands (O8) and the clock (O9). -/

namespace Sys2Proof.Machine

theorem exec_ackNotice (l : Link) (kind : Byte) (s : State) : exec (.ackNotice l kind) s = execAckNotice l kind s := by rfl

theorem exec_setNoticeMask (l : Link) (m : Byte) (s : State) : exec (.setNoticeMask l m) s = execSetNoticeMask l m s := by rfl

theorem exec_setClock (l : Link) (minute day : Word) (s : State) :
    exec (.setClock l minute day) s = execSetClock l minute day s := by rfl

theorem exec_clockSecond (s : State) : exec .clockSecond s = execClockSecond s := by rfl

/-! ### Notices and masks -/

theorem noticeKindOfByte_code {b : Byte} {k : NoticeKind} (h : b.toNat = k.code) : noticeKindOfByte b = some k := by
  unfold noticeKindOfByte
  cases k <;> rw [h] <;> rfl

theorem noticeKindOfByte_none {b : Byte} (h : b.toNat = 0 ∨ 7 < b.toNat) : noticeKindOfByte b = none := by
  unfold noticeKindOfByte
  split
  case h_8 => rfl
  all_goals omega

theorem mem_noticeKinds (k : NoticeKind) : k ∈ NoticeKind.all := by cases k <;> decide

/-- The attention output shows that some present kind is enabled (R179). -/
theorem attentionOf_iff (ls : LinkState) :
    attentionOf ls = true ↔ ∃ k, (ls.notices.get k).isSome = true ∧ ls.mask.get k = true := by
  simp [attentionOf, kindRaised, List.any_eq_true, mem_noticeKinds]

@[simp] theorem modLink_get (l : Link) (f : LinkState → LinkState) (s : State) :
    (modLink l f s).links.get l = f (s.links.get l) := PerLink.get_set _ _ _

theorem modLink_onlyLink (l : Link) (f : LinkState → LinkState) (s : State) : OnlyLink l s (modLink l f s) :=
  fun _ hk => PerLink.get_set_ne _ _ hk

theorem modLink_moves (l : Link) (f : LinkState → LinkState) (s : State) : Moves [.links] s (modLink l f s) := by
  intro p hp; cases p <;> first | rfl | exact absurd (by decide) hp

theorem OnlyLink.trans {l : Link} {s t u : State} (h : OnlyLink l s t) (k : OnlyLink l t u) : OnlyLink l s u :=
  fun j hj => (k j hj).trans (h j hj)

/-- A mask byte enables the kinds of its set bits, bit 0 for kind 1 (R179). -/
theorem maskOfByte_get (m : Byte) (k : NoticeKind) : (maskOfByte m).get k = m.getLsbD (k.code - 1) := by cases k <;> rfl

theorem topBit_iff (m : Byte) : m.getLsbD 7 = true ↔ 128 ≤ m.toNat := by
  have := BitVec.msb_eq_decide m
  rw [BitVec.msb_eq_getLsbD_last] at this
  rw [this]
  simp

/-- Settles O8: the link's set or mask is replaced, and the attention output judged from both. -/
theorem acknowledgeAndMaskJudgeAttention : Obligations.AcknowledgeAndMaskJudgeAttention := by
  unfold Obligations.AcknowledgeAndMaskJudgeAttention
  refine ⟨fun l kind k s hk => ?_, fun l kind s hk => ?_, fun l m s hm => ?_, fun l m s hm => ?_⟩
  · obtain ⟨hlink, honly⟩ := postResult_posted l 0x1D#8 .ok 0 s
    refine ⟨modLink l (removeNotice k) (postResult l 0x1D#8 .ok 0 s), by simp only [exec_ackNotice, execAckNotice, noticeKindOfByte_code hk],
      honly.trans (modLink_onlyLink _ _ _), (postResult_moves _ _ _ _ _).trans (modLink_moves _ _ _), ?_⟩
    rw [modLink_get, hlink]
    refine ⟨rfl, rfl, PerKind.get_set _ _ _, fun j hj => PerKind.get_set_ne _ _ hj, rfl, ?_⟩
    rw [removeNotice, judgeAttention, attentionOf_iff]
    constructor
    · rintro ⟨j, hj, hmask⟩
      have hne : j ≠ k := by rintro rfl; simp at hj
      exact ⟨j, hne, by simpa [hne] using hj, hmask⟩
    · rintro ⟨j, hne, hj, hmask⟩
      exact ⟨j, by simpa [hne] using hj, hmask⟩
  · apply refused_of_eq
    simp only [exec_ackNotice, execAckNotice, noticeKindOfByte_none hk]
  · obtain ⟨hlink, honly⟩ := postResult_posted l 0x1E#8 .ok 0 s
    have htop : ¬ m.getLsbD 7 = true := by rw [topBit_iff]; omega
    refine ⟨modLink l (replaceMask (maskOfByte m)) (postResult l 0x1E#8 .ok 0 s),
      by simp only [exec_setNoticeMask, execSetNoticeMask, if_neg htop],
      honly.trans (modLink_onlyLink _ _ _), (postResult_moves _ _ _ _ _).trans (modLink_moves _ _ _), ?_⟩
    rw [modLink_get, hlink]
    refine ⟨rfl, rfl, rfl, maskOfByte_get m, ?_⟩
    rw [replaceMask, judgeAttention, attentionOf_iff]
    simp only [maskOfByte_get]
  · apply refused_of_eq
    simp only [exec_setNoticeMask, execSetNoticeMask, if_pos ((topBit_iff m).mpr hm)]

/-! ### The clock -/

/-- One second of the clock (R182): the three counters are one number in mixed radix, which rises by one and passes its end. -/
theorem advanceClock_counts (c : Clock) (hs : c.second ≤ 59) (hm : c.minute ≤ 1439) (hd : c.day ≤ 65535) :
    (advanceClock c).second ≤ 59 ∧ (advanceClock c).minute ≤ 1439 ∧ (advanceClock c).day ≤ 65535 ∧
      ((advanceClock c).day * 1440 + (advanceClock c).minute) * 60 + (advanceClock c).second =
        ((c.day * 1440 + c.minute) * 60 + c.second + 1) % (65536 * 86400) := by
  unfold advanceClock
  split
  · dsimp only; omega
  · split
    · dsimp only; omega
    · dsimp only; split <;> omega

/-- Settles O9. -/
theorem clockIsSetAndCounts : Obligations.ClockIsSetAndCounts := by
  unfold Obligations.ClockIsSetAndCounts
  refine ⟨fun l minute day s => ⟨fun hlate => ?_, fun hminute => ?_⟩, fun s hunset => ?_, fun s c hc hs hm hd => ?_⟩
  · apply refused_of_eq
    simp only [exec_setClock, execSetClock, if_pos hlate]
  · refine ⟨{ postResult l 0x1F#8 .ok 0 s with
      clock := some { minute := minute.toNat, day := day.toNat, second := 0, since := s.now } },
      by simp only [exec_setClock, execSetClock, if_neg (Nat.not_lt.mpr hminute)], postResult_posted _ _ _ _ _, ?_, rfl⟩
    exact (postResult_moves _ _ _ _ _).andThen (setClock_moves _ _) (by decide) (by decide)
  · simp only [exec_clockSecond, execClockSecond, hunset]
  · obtain ⟨hsecond, hminute, hday, hcount⟩ := advanceClock_counts c hs hm hd
    refine ⟨{ jumpTo (c.since + clockSecondLength) s with clock := some { advanceClock c with since := c.since + clockSecondLength } },
      _, by simp only [exec_clockSecond, execClockSecond, hc], rfl, ?_, rfl, rfl, hsecond, hminute, hday, hcount⟩
    exact (jumpTo_moves _ _).andThen (setClock_moves _ _) (by decide) (by decide)

end Sys2Proof.Machine
end

section
/-! PROOF. The order commands: SUBMIT ORDER admits (O10), ADD CAPTION and AMEND PRIORITY (O12), WITHDRAW ORDER (O13, O14) and the expiry
of a retry delay (O15). -/

namespace Sys2Proof.Machine

/-! ### SUBMIT ORDER admits (R8, R9) -/

theorem admitOrder_moves (o : Order) (s : State) : Moves [.book, .selectDue] s (admitOrder o s) := by
  intro p hp; cases p <;> first | rfl | exact absurd (by decide) hp

theorem firstIncompatible_eq_none {st : Store} {ioc samples : Nat} {entries : List Byte}
    (h : ∀ e ∈ entries, EntryTakes st ioc samples e) : firstIncompatible st ioc samples entries = none := by
  rw [firstIncompatible, List.findIdx?_eq_none_iff]
  intro e he
  simpa using (entryCompatible_iff st ioc samples e).mpr (h e he)

/-- Every check of R8 passed. -/
theorem exec_submitOrder_taken {l : Link} {pr : Byte} {tag : BitVec 24} {r : Byte} {length : Word} {curve : Byte}
    {entries : List Byte} {s : State} {p : Priority}
    (hroom : ¬ (bookPlaces ≤ s.book.orders.length ∨ lastSequence < s.book.sequence)) (hp : priorityOfByte pr = some p)
    (htag : ¬ (tag.toNat = 0 ∨ 999999 < tag.toNat))
    (hgeo : GeometryAdmitted (readSettings s.store).diameter r.toNat length.toNat curve.toNat)
    (hlist : ListAdmitted s.store entries)
    (htakes : ∀ e ∈ entries, EntryTakes s.store (iocOf (readSettings s.store).diameter r.toNat)
      (samplesOf (readSettings s.store).diameter r.toNat) e) (o : Order)
    (ho : o = freshOrder l s.book (readSettings s.store).diameter p tag.toNat r.toNat length.toNat curve.toNat entries) :
    exec (.submitOrder l pr tag r length curve entries) s =
      .next (finishStep (admitOrder o (postResult l 0x11#8 .accepted o.number s))) := by
  rw [← goodDestinations_iff] at hlist
  rw [← goodGeometry_iff] at hgeo
  subst ho
  simp only [exec_submitOrder, execSubmitOrder, if_neg hroom, hp, if_neg htag, hgeo, hlist, Bool.true_eq_false, if_false,
    firstIncompatible_eq_none htakes]

theorem freshDest_new (entry : Nat) : NewDestination entry (freshDest entry) :=
  ⟨rfl, rfl, rfl, rfl, rfl, rfl, rfl, rfl, rfl, rfl, rfl, rfl, rfl, rfl, rfl⟩

/-- Settles O10: the order that passes every check is admitted under the first free number. -/
theorem submitAdmitsAnOrder : Obligations.SubmitAdmitsAnOrder := by
  unfold Obligations.SubmitAdmitsAnOrder
  rintro l pr p tag r length curve entries s d rfl hroom hseq hnext hlast hp htag0 htag1 hgeo hlist htakes
  have hfull : ¬ (bookPlaces ≤ s.book.orders.length ∨ lastSequence < s.book.sequence) := by
    simp only [bookPlaces, lastSequence]; omega
  have hfirst : FirstFree 9999 s.book.nextNumber (s.book.orders.map Order.number) (orderNumber s.book) := by
    have := freeNumber_free 9999 (s.book.orders.map Order.number) s.book.nextNumber hnext hlast (by rw [List.length_map]; omega)
    rwa [List.length_map] at this
  refine ⟨_, freshOrder l s.book (readSettings s.store).diameter p tag.toNat r.toNat length.toNat curve.toNat entries,
    exec_submitOrder_taken hfull hp (by omega) hgeo hlist htakes _ rfl, rfl, postResult_posted _ _ _ _ _,
    (postResult_moves _ _ _ _ _).andThen (admitOrder_moves _ _) (by decide) (by decide), rfl, hfirst, rfl, rfl, rfl, rfl, rfl, rfl,
    rfl, rfl, rfl, rfl, rfl, rfl, rfl, rfl, rfl, List.length_map .., fun k hk => ⟨freshDest entries[k].toNat, ?_, freshDest_new _⟩⟩
  simp [freshOrder, hk]

/-! ### ADD CAPTION and AMEND PRIORITY (R10, R11) -/

theorem exec_addCaption (l : Link) (n : Word) (chars : List Byte) (s : State) :
    exec (.addCaption l n chars) s = execAddCaption l n chars s := by rfl

theorem exec_amendPriority (l : Link) (n : Word) (pr : Byte) (s : State) :
    exec (.amendPriority l n pr) s = execAmendPriority l n pr s := by rfl

theorem OnlyOrder.congr {n : Nat} {s t u : State} (h : OnlyOrder n s t) (hb : u.book = t.book) : OnlyOrder n s u := by
  obtain ⟨h1, h2, h3, h4⟩ := h
  exact ⟨by rw [hb, h1], by rw [hb, h2], by rw [hb, h3], fun m hm => (findOrder_congr hb m).trans (h4 m hm)⟩

theorem OnlyOrder.from {n : Nat} {s t u : State} (h : OnlyOrder n t u) (hb : t.book = s.book) : OnlyOrder n s u := by
  obtain ⟨h1, h2, h3, h4⟩ := h
  exact ⟨by rw [h1, hb], by rw [h2, hb], by rw [h3, hb], fun m hm => (h4 m hm).trans (findOrder_congr hb m)⟩

/-- A caption as extended is the whole run of characters, cut at the limit (R10). -/
theorem captionWith_eq {caption : List Byte} (chars : List Byte) (h : caption.length ≤ 240) :
    captionWith caption chars = (caption ++ chars.map captionChar).take 240 := by
  rw [captionWith, captionLimit, List.take_append, List.take_of_length_le h]

theorem length_captionWith {caption : List Byte} (chars : List Byte) (h : caption.length ≤ 240) :
    (captionWith caption chars).length = min 240 (caption.length + chars.length) := by
  rw [captionWith_eq chars h, List.length_take, List.length_append, List.length_map]

theorem priorityOfByte_rank {pr : Byte} {p : Priority} (h : p.rank = pr.toNat) : priorityOfByte pr = some p := by
  unfold priorityOfByte
  cases p <;> rw [← h] <;> rfl

/-- ADD CAPTION taken (R10): the caption grows, and the result says whether all of the characters found room. -/
theorem addCaption_taken {l : Link} {n : Word} {chars : List Byte} {s : State} {o : Order} (hlen : chars.length ≤ 48)
    (ho : findOrder s n.toNat = some o) (horigin : o.origin = l) (hopen : o.attempted = false) (hcaption : o.caption.length ≤ 240) :
    exec (.addCaption l n chars) s =
      .next (postResult l 0x12#8 (if o.caption.length + chars.length ≤ 240 then .ok else .captionClipped)
        (min 240 (o.caption.length + chars.length))
        (modOrder n.toNat (fun o' => { o' with caption := captionWith o.caption chars }) s)) := by
  simp only [exec_addCaption, execAddCaption, if_neg (Nat.not_lt.mpr hlen), ho, ne_eq, if_neg (not_not_intro horigin), hopen,
    Bool.false_eq_true, if_false, length_captionWith chars hcaption, captionLimit]
  by_cases hfits : o.caption.length + chars.length ≤ 240
  · rw [if_pos (by omega), if_pos hfits]
  · rw [if_neg (by omega), if_neg hfits, Nat.min_eq_left (by omega)]

/-- AMEND PRIORITY to another priority (R11). -/
theorem amendPriority_taken {l : Link} {n : Word} {pr : Byte} {p : Priority} {s : State} {o : Order}
    (ho : findOrder s n.toNat = some o) (hp : p.rank = pr.toNat) (hstate : ¬ (o.state = .withdrawing ∨ o.state = .filing))
    (hne : p ≠ o.priority) :
    exec (.amendPriority l n pr) s = .next (finishStep (markSelection
      (modOrder n.toNat (fun o => { o with priority := p }) (postResult l 0x13#8 .ok 0 s)))) := by
  simp only [exec_amendPriority, execAmendPriority, ho, priorityOfByte_rank hp, if_neg hstate, if_neg hne]

/-- Settles O12: the refusals by the first check that fails, and what a taken command makes of the order. -/
theorem captionAndPriorityAreAmended : Obligations.CaptionAndPriorityAreAmended := by
  unfold Obligations.CaptionAndPriorityAreAmended
  constructor
  · rintro l n chars s i rfl hlen
    have hshort : ¬ 48 < chars.length := by omega
    refine ⟨fun hnone => ?_, fun o ho => ⟨fun hother => ?_, fun horigin => ⟨fun hclosed => ?_, fun hopen hcaption => ?_⟩⟩⟩
    · apply refused_of_eq
      simp only [exec_addCaption, execAddCaption, if_neg hshort, hnone]
    · apply refused_of_eq
      simp only [exec_addCaption, execAddCaption, if_neg hshort, ho, ne_eq, if_pos hother]
    · apply refused_of_eq
      simp only [exec_addCaption, execAddCaption, if_neg hshort, ho, ne_eq, if_neg (not_not_intro horigin), if_pos hclosed]
    · refine ⟨_, { o with caption := captionWith o.caption chars }, addCaption_taken hlen ho horigin hopen hcaption,
        (modOrder_moves _ _ _).andThen (postResult_moves _ _ _ _ _) (by decide) (by decide),
        (modOrder_only _ _ (by intro _; rfl) s).congr rfl, ?_, ?_, ?_⟩
      · rw [findOrder_congr (postResult_book _ _ _ _ _), findOrder_modOrder _ _ _ (by intro _; rfl), if_pos rfl, ho, Option.map_some]
      · rw [captionWith_eq chars hcaption]; rfl
      · have hposted := fun r v => postResult_posted l 0x12#8 r v
          (modOrder n.toNat (fun o' => { o' with caption := captionWith o.caption chars }) s)
        split
        · rename_i hfits; rw [Nat.min_eq_right hfits]; exact hposted _ _
        · rename_i hlong; rw [Nat.min_eq_left (by omega)]; exact hposted _ _
  · rintro l n pr s i rfl
    refine ⟨fun hnone => ?_, fun o ho => ⟨fun hbad => ?_, fun p hp => ⟨fun hbusy => ?_, fun hw hf => ⟨fun hsame => ?_, fun hne => ?_⟩⟩⟩⟩
    · apply refused_of_eq
      simp only [exec_amendPriority, execAmendPriority, hnone]
    · apply refused_of_eq
      simp only [exec_amendPriority, execAmendPriority, ho, (priorityOfByte_eq_none_iff pr).mpr hbad]
    · apply refused_of_eq
      simp only [exec_amendPriority, execAmendPriority, ho, priorityOfByte_rank hp, if_pos hbusy]
    · have hstate : ¬ (o.state = .withdrawing ∨ o.state = .filing) := by simp [hw, hf]
      refine ⟨postResult l 0x13#8 .ok 0 s, ?_, postResult_posted _ _ _ _ _, postResult_moves _ _ _ _ _⟩
      simp only [exec_amendPriority, execAmendPriority, ho, priorityOfByte_rank hp, if_neg hstate, if_pos hsame]
    · refine ⟨_, amendPriority_taken ho hp (by simp [hw, hf]) hne, rfl, postResult_posted _ _ _ _ _,
        ((postResult_moves _ _ _ _ _).andThen (modOrder_moves _ _ _) (rs := [.links, .book]) (by decide) (by decide)).andThen
          (markSelection_moves _) (by decide) (by decide),
        ((modOrder_only _ _ (by intro _; rfl) _).from (postResult_book _ _ _ _ _)).congr rfl, ?_⟩
      rw [findOrder_congr (markSelection_book _), findOrder_modOrder _ _ _ (by intro _; rfl), if_pos rfl,
        findOrder_congr (postResult_book _ _ _ _ _), ho, Option.map_some]

end Sys2Proof.Machine
end

section
/-! PROOF. WITHDRAW ORDER (O13, O14), the expiry of a retry delay (O15) and the transfer of a filing reference (O16). -/

namespace Sys2Proof.Machine

theorem exec_withdrawOrder (l : Link) (n : Word) (s : State) : exec (.withdrawOrder l n) s = execWithdrawOrder l n s := by rfl

theorem exec_retryDelayExpiry (n j : Nat) (s : State) : exec (.retryDelayExpiry n j) s = execRetryDelayExpiry n j s := by rfl

theorem exec_filingTransfer (s : State) : exec .filingTransfer s = execFilingTransfer s := by rfl

/-- A step that changes no further part. -/
theorem Moves.also {ps qs : List Part} {s t u : State} (h : Moves ps s t) (k : Moves qs t u) (hq : qs ⊆ ps := by decide) : Moves ps s u :=
  h.trans (k.mono hq)

/-- More parts may change. -/
theorem Moves.within {ps qs : List Part} {s t : State} (h : Moves ps s t) (hp : ps ⊆ qs := by decide) : Moves qs s t := h.mono hp

/-! ### What leaves the results of the links as they are -/

/-- The result records of both links are as they were (R177). -/
def KeepsResults (s t : State) : Prop := ∀ k : Link, (t.links.get k).result = (s.links.get k).result

theorem KeepsResults.trans {s t u : State} (h : KeepsResults s t) (k : KeepsResults t u) : KeepsResults s u :=
  fun l => (k l).trans (h l)

theorem KeepsResults.of_links {s t : State} (h : t.links = s.links) : KeepsResults s t := fun l => by rw [h]

theorem finishOrder_keepsResults (n : Nat) (s : State) : KeepsResults s (finishOrder n s) := by
  unfold finishOrder; split
  · exact .of_links rfl
  · intro k; exact noticeBoth_result _ _ k

theorem cutDrive_links (s : State) : (cutDrive s).links = s.links := cutDrive_moves s .links (by decide)

theorem requestUnmount_keepsResults (s : State) : KeepsResults s (requestUnmount s) := by
  unfold requestUnmount; split
  · intro k; exact (noticeBoth_result _ _ k).trans (by rw [← cutDrive_links s])
  · exact .of_links rfl

theorem withdrawMountRequest_keepsResults (s : State) : KeepsResults s (withdrawMountRequest s) := by
  unfold withdrawMountRequest; split
  · intro k; exact noticeBoth_result _ _ k
  · exact .of_links rfl

theorem closeRound_keepsResults (s : State) : KeepsResults s (closeRound s) := by
  have idle : (markSelection (startIdle { s with round := Round.none })).links = s.links := startIdle_moves _ .links (by decide)
  unfold closeRound
  dsimp only
  split
  · exact .of_links idle
  · split
    · exact .of_links idle
    · split
      · exact ((KeepsResults.of_links idle).trans (requestUnmount_keepsResults _)).trans (finishOrder_keepsResults _ _)
      · exact .of_links idle

theorem abortRound_keepsResults (s : State) (ho : s.round.state ≠ .closed) : KeepsResults s (abortRound s) := by
  by_cases h : ClosesAtOnce s
  · rw [(abortRound_eq s ho).1 h]
    exact (KeepsResults.of_links (emptied_moves s .links (by decide))).trans (closeRound_keepsResults _)
  · exact .of_links (abortRound_open s ho h .links (by decide))

/-- An abort changes no order but a WITHDRAWING one whose round it closes (R37). -/
theorem abortRound_find (s : State) (ho : s.round.state ≠ .closed) (m : Nat) (hm : NotAbandoned s m) :
    findOrder (abortRound s) m = findOrder s m := by
  by_cases h : ClosesAtOnce s
  · obtain ⟨_, _, _, hfind, _⟩ := abortRound_closed s h
    exact hfind m hm
  · exact findOrder_congr (abortRound_open s ho h .book (by decide)) m

theorem KeepsLines.of_book {s t : State} (h : t.book = s.book) : KeepsLines s t :=
  fun n o ho => ⟨o, (findOrder_congr h n).trans ho, rfl⟩

/-- The closing frames of a call depend on the line counts of the orders alone (R116). -/
theorem ClosingFramesFollow.from {s t : State} {now : Nat} {ch u : Channel} (h : ClosingFramesFollow t now ch u) (hl : KeepsLines s t) :
    ClosingFramesFollow s now ch u := by
  refine ⟨h.1, fun hw k o hk ho => ?_⟩
  obtain ⟨x, hx, e⟩ := hl _ _ ho
  have := h.2 hw k x hk hx
  rw [e] at this
  exact this

/-- What the abort procedure does depends on these parts and on the line counts of the orders alone. -/
theorem Aborted.from {s t u : State} (h : Aborted t u) (hr : t.round = s.round) (hh : t.head = s.head) (hc : t.channels = s.channels)
    (hs : t.lineStore = s.lineStore) (hn : t.now = s.now) (hp : t.pins.home = s.pins.home) (hl : KeepsLines s t) : Aborted s u := by
  have released : ∀ ch v, ReleasedMember t ch v → ReleasedMember s ch v := by
    rintro ch v ⟨h1, h2, h3, h4, h5, h6, h7, h8, h9, h10, h11, h12, h13, h14, h15, h16, h17, h18, hf, h20⟩
    exact ⟨h1, h2, h3, h4, h5, h6, h7, h8, h9, h10, h11, h12, h13, h14, h15, h16, h17, h18, (hn ▸ hf).from hl, h20⟩
  have closes := closesAtOnce_congr hr hh hp
  have homed : HeadCommandedHome t u → HeadCommandedHome s u := by
    unfold HeadCommandedHome; rw [hp, hh, hn]; exact id
  obtain ⟨h1, h2, h3, h4, h5, h6, h7, h8⟩ := h
  rw [hr] at h2 h3 h6 h8
  rw [hc] at h2 h3
  rw [hh] at h5 h8
  rw [hp] at h8
  refine ⟨h1, h2, fun c hm => ⟨released _ _ (h3 c hm).1, (h3 c hm).2⟩, hs ▸ h4, h5, h6, fun k => h7 (closes.mpr k), ?_⟩
  revert h8
  split
  · exact id
  · exact id
  · intro k hs; exact ⟨homed (k hs).1, (k hs).2⟩
  · intro k; exact ⟨fun hs => ⟨homed (k.1 hs).1, (k.1 hs).2⟩, k.2⟩

/-! ### WITHDRAW ORDER (R12, R13) -/

/-- Where an order is withdrawn, before its state decides what follows: the result posted and every destination FINAL. -/
def withdrawn (l : Link) (o : Order) (s : State) : State := withdrawDests o (postResult l 0x14#8 .ok 0 s)

theorem exec_withdrawOrder_taken {l : Link} {n : Word} {s : State} {o : Order} (ho : findOrder s n.toNat = some o)
    (hf : o.state ≠ .filing) (hw : o.state ≠ .withdrawing) :
    exec (.withdrawOrder l n) s = .next (finishStep (markSelection (withdrawByState o (withdrawn l o s)))) := by
  simp only [exec_withdrawOrder, execWithdrawOrder, ho, if_neg hf, if_neg hw]
  rfl

theorem withdrawn_moves (l : Link) (o : Order) (s : State) : Moves [.links, .book, .filing] s (withdrawn l o s) := by
  intro p hp; cases p <;> first | rfl | exact absurd (by decide) hp

theorem withdrawn_filing (l : Link) (o : Order) (s : State) :
    (withdrawn l o s).filing = s.filing ++ withdrawRefs o.number 0 o.dests := rfl

theorem withdrawn_find {l : Link} {n : Nat} {o : Order} {s : State} (ho : findOrder s n = some o) (m : Nat) :
    findOrder (withdrawn l o s) m =
      if m = n then some { o with dests := o.dests.map (withdrawDest s) } else findOrder s m := by
  have h : findOrder (withdrawn l o s) m =
      findOrder (modOrder n (fun o => { o with dests := o.dests.map (withdrawDest s) }) s) m := by
    rw [← findOrder_number ho]; rfl
  rw [h, findOrder_modOrder _ _ _ (by intro _; rfl)]
  split
  · rename_i e; rw [e, ho]; rfl
  · rfl

theorem withdrawn_result (l : Link) (o : Order) (s : State) (k : Link) : ((withdrawn l o s).links.get k).result =
    if k = l then { command := 0x14#8, code := .ok, value := 0 } else (s.links.get k).result :=
  postResult_result l k _ _ _ s

theorem withdrawn_notices (l : Link) (o : Order) (s : State) (k : Link) :
    ((withdrawn l o s).links.get k).notices = (s.links.get k).notices := postResult_notices l k _ _ _ s

/-- A withdrawn order that is finished goes to FILING or leaves (R24): from any state that differs from the withdrawn one in
neither the book nor the queue of references. -/
theorem finishOrder_leaves {l : Link} {n : Nat} {o : Order} {s t : State} (ho : findOrder s n = some o)
    (hb : t.book = (withdrawn l o s).book) (hf : t.filing = (withdrawn l o s).filing) :
    (finishOrder n t).filing = s.filing ++ withdrawRefs n 0 o.dests ∧ WithdrawnOrderLeaves n o s (finishOrder n t) := by
  have filing : (finishOrder n t).filing = t.filing := finishOrder_moves n t .filing (by decide)
  have find : ∀ m, findOrder t m = if m = n then some { o with dests := o.dests.map (withdrawDest s) } else findOrder s m :=
    fun m => (findOrder_congr hb m).trans (withdrawn_find ho m)
  have done := finishOrder_finished n t _ ((find n).trans (if_pos rfl))
  refine ⟨by rw [filing, hf, withdrawn_filing, findOrder_number ho], fun m hm => ?_, ?_⟩
  · rw [findOrder_finishOrder n m t hm, find m, if_neg hm]
  · rw [filing]; exact done

/-- Settles O13: each destination by its state, and the withdrawn order in WAITING. -/
theorem withdrawTreatsEachDestination : Obligations.WithdrawTreatsEachDestination := by
  unfold Obligations.WithdrawTreatsEachDestination
  constructor
  · intro s d
    unfold withdrawDest withdrawRef withdrawnDest timeOfDay
    cases d.state
    case final => simp
    case sending => simp
    case delayed => simp
    case ready => refine ⟨by simp, by simp, fun n i => ?_⟩; by_cases h : d.attempts = 0 <;> simp [h]
    case assigned => refine ⟨by simp, by simp, fun n i => ?_⟩; by_cases h : d.attempts = 0 <;> simp [h]
  · rintro l n s i rfl
    refine ⟨fun hnone => ?_, fun o ho => ⟨fun hf => ?_, fun hw => ?_, fun hwait => ?_⟩⟩
    · apply refused_of_eq
      simp only [exec_withdrawOrder, execWithdrawOrder, hnone]
    · apply refused_of_eq
      simp only [exec_withdrawOrder, execWithdrawOrder, ho, if_pos hf]
    · apply refused_of_eq
      simp only [exec_withdrawOrder, execWithdrawOrder, ho, hw, reduceCtorEq, if_false, if_true]
    · have hstate : withdrawByState o (withdrawn l o s) = finishOrder n.toNat (withdrawn l o s) := by
        unfold withdrawByState; rw [hwait, findOrder_number ho]
      obtain ⟨filing, others, queued, done⟩ := finishOrder_leaves (l := l) ho rfl rfl
      have keeps : Moves [.links, .book, .filing, .selectDue] s (finishOrder n.toNat (withdrawn l o s)) :=
        (withdrawn_moves l o s).andThen (finishOrder_moves _ _) (by decide) (by decide)
      refine ⟨_, exec_withdrawOrder_taken ho (by simp [hwait]) (by simp [hwait]), rfl, ?_, fun k => ?_, ?_, fun m hm => ?_,
        fun hr => ?_, fun hr => ?_⟩ <;> rw [hstate] at *
      · exact keeps.andThen (markSelection_moves _) (by decide) (by decide)
      · exact (finishOrder_keepsResults _ _ k).trans (withdrawn_result l o s k)
      · exact filing
      · exact others m hm
      · refine ⟨queued hr, fun k => ?_⟩
        have hany : (withdrawn l o s).filing.any (fun r => r.order == n.toNat) = true := by
          rw [show (markSelection (finishOrder n.toNat (withdrawn l o s))).filing = (withdrawn l o s).filing from
            finishOrder_moves _ _ .filing (by decide)] at hr
          simpa using hr
        have hlinks : (markSelection (finishOrder n.toNat (withdrawn l o s))).links = (withdrawn l o s).links := by
          unfold finishOrder; rw [if_pos hany]; rfl
        rw [hlinks]
        exact withdrawn_notices l o s k
      · exact done hr

/-! ### A withdraw on the mount and in a round (R13, R40) -/

theorem finishOrder_keeps_notice {m : Notice} (n : Nat) {s : State} (h : NoticedToBoth m s) (hk : m.kind ≠ .orderDone) :
    NoticedToBoth m (finishOrder n s) := by
  unfold finishOrder; split
  · exact h
  · exact NoticedToBoth.notice h (.orderDone n) hk

theorem DriveCut.from {s t u : State} (h : DriveCut t u) (hd : t.drum = s.drum) (hn : t.now = s.now) : DriveCut s u := by
  unfold DriveCut at *; rw [hd, hn] at h; exact h

theorem DriveCut.congr {s t u : State} (h : DriveCut s t) (hd : u.drum = t.drum) : DriveCut s u := by
  unfold DriveCut at *; rw [hd]; exact h

theorem withdrawMountRequest_requested {s : State} {tag : Nat} (h : s.mount = .requested tag) :
    withdrawMountRequest s = noticeBoth (.mountRequest .cancelled tag none) { s with mount := .empty, selectDue := true } := by
  unfold withdrawMountRequest; rw [h]

theorem requestUnmount_mounted {s : State} {tag : Nat} (h : s.mount = .mounted tag) :
    requestUnmount s = noticeBoth (.mountRequest .unmount tag none) { cutDrive s with mount := .unmountRequested tag } := by
  unfold requestUnmount; rw [h]

/-- The withdrawn order of an open round, about to be aborted (R40). -/
def withdrawing (l : Link) (n : Nat) (o : Order) (s : State) : State := setOrderState n .withdrawing (withdrawn l o s)

theorem withdrawing_moves (l : Link) (n : Nat) (o : Order) (s : State) : Moves [.links, .book, .filing] s (withdrawing l n o s) :=
  (withdrawn_moves l o s).andThen (setOrderState_moves _ _ _) (by decide) (by decide)

theorem withdrawing_find {l : Link} {n : Nat} {o : Order} {s : State} (ho : findOrder s n = some o) (m : Nat) :
    findOrder (withdrawing l n o s) m =
      if m = n then some { o with state := .withdrawing, dests := o.dests.map (withdrawDest s) } else findOrder s m := by
  rw [withdrawing, findOrder_setOrderState, withdrawn_find ho]
  split
  · rfl
  · rfl

theorem withdrawing_keepsLines {l : Link} {n : Nat} {o : Order} {s : State} (ho : findOrder s n = some o) :
    KeepsLines s (withdrawing l n o s) := by
  intro m x hx
  rw [withdrawing_find ho]
  split
  · rename_i e; rw [e, ho] at hx; cases hx; exact ⟨_, rfl, rfl⟩
  · exact ⟨x, hx, rfl⟩

/-- Settles O14: the request cancelled, the print asked off, or the round aborted. -/
theorem withdrawActsOnTheMountAndTheRound : Obligations.WithdrawActsOnTheMountAndTheRound := by
  unfold Obligations.WithdrawActsOnTheMountAndTheRound
  rintro l n s i o tag rfl ho
  have number := findOrder_number ho
  refine ⟨fun hstate hmount => ?_, fun hstate hround hmount => ?_, fun hstate hround horder => ?_⟩
  · have e : withdrawByState o (withdrawn l o s) = finishOrder n.toNat (withdrawMountRequest (withdrawn l o s)) := by
      unfold withdrawByState; rw [hstate, number]
    have hmoves := withdrawMountRequest_moves (withdrawn l o s)
    obtain ⟨filing, leaves⟩ := finishOrder_leaves (l := l) (t := withdrawMountRequest (withdrawn l o s)) ho
      (hmoves .book (by decide)) (hmoves .filing (by decide))
    have eq := withdrawMountRequest_requested (s := withdrawn l o s) hmount
    refine ⟨_, exec_withdrawOrder_taken ho (by simp [hstate]) (by simp [hstate]), rfl, ?_, ?_, ?_, fun k => ?_, ?_, ?_⟩ <;> rw [e]
    · exact (finishOrder_moves _ _ .mount (by decide)).trans (by rw [eq]; rfl)
    · exact finishOrder_keeps_notice (m := .mountRequest .cancelled tag none) _ (by rw [eq]; exact noticeBoth_noticed _ _)
        (by simp [Notice.kind])
    · exact filing
    · exact (((withdrawMountRequest_keepsResults _).trans (finishOrder_keepsResults _ _)) k).trans (withdrawn_result l o s k)
    · exact (((withdrawn_moves l o s).within.also hmoves).also (finishOrder_moves _ _)).also (markSelection_moves _)
    · exact leaves
  · have e : withdrawByState o (withdrawn l o s) = finishOrder n.toNat (requestUnmount (withdrawn l o s)) := by
      unfold withdrawByState; rw [hstate, number]
      exact if_neg (by simp [roundOpen, withdrawn, withdrawDests, modOrder, hround])
    have hmoves := requestUnmount_moves (withdrawn l o s)
    obtain ⟨filing, leaves⟩ := finishOrder_leaves (l := l) (t := requestUnmount (withdrawn l o s)) ho
      (hmoves .book (by decide)) (hmoves .filing (by decide))
    have eq := requestUnmount_mounted (s := withdrawn l o s) hmount
    refine ⟨_, exec_withdrawOrder_taken ho (by simp [hstate]) (by simp [hstate]), rfl, ?_, ?_, ?_, ?_, fun k => ?_, ?_, ?_⟩ <;> rw [e]
    · exact (finishOrder_moves _ _ .mount (by decide)).trans (by rw [eq]; rfl)
    · exact ((cutDrive_cut (withdrawn l o s)).from rfl rfl).congr
        ((finishOrder_moves _ _ .drum (by decide)).trans (by rw [eq]; rfl))
    · exact finishOrder_keeps_notice (m := .mountRequest .unmount tag none) _ (by rw [eq]; exact noticeBoth_noticed _ _)
        (by simp [Notice.kind])
    · exact filing
    · exact (((requestUnmount_keepsResults _).trans (finishOrder_keepsResults _ _)) k).trans (withdrawn_result l o s k)
    · exact (((withdrawn_moves l o s).within.also hmoves).also (finishOrder_moves _ _)).also (markSelection_moves _)
    · exact leaves
  · have e : withdrawByState o (withdrawn l o s) = abortRound (withdrawing l n.toNat o s) := by
      unfold withdrawByState; rw [hstate, number]
      exact if_pos (by simp [roundOpen, withdrawn, withdrawDests, modOrder, hround, horder])
    have find := withdrawing_find (l := l) ho
    have open' : (withdrawing l n.toNat o s).round.state ≠ .closed := hround
    have closes : ClosesAtOnce (withdrawing l n.toNat o s) ↔ ClosesAtOnce s := closesAtOnce_congr rfl rfl rfl
    have hfiling : (abortRound (withdrawing l n.toNat o s)).filing = s.filing ++ withdrawRefs n.toNat 0 o.dests :=
      (abortRound_moves _ .filing (by decide)).trans (by rw [← number]; rfl)
    refine ⟨_, exec_withdrawOrder_taken ho (by simp [hstate]) (by simp [hstate]), rfl, ?_, ?_, fun m hm => ?_, fun k => ?_,
      fun hlater => ?_, fun hnow => ?_, ?_⟩ <;> rw [e]
    · have := (abortRound_aborted (withdrawing l n.toNat o s) open').from (s := s) rfl rfl rfl rfl rfl rfl (withdrawing_keepsLines ho)
      exact this
    · exact hfiling
    · have hm' : NotAbandoned (withdrawing l n.toNat o s) m := fun h => absurd (Option.some.inj (h.symm.trans horder)) hm
      exact (abortRound_find _ open' m hm').trans ((find m).trans (if_neg hm))
    · exact (abortRound_keepsResults _ open' k).trans (withdrawn_result l o s k)
    · have stays := abortRound_open _ open' (mt closes.mp hlater)
      exact ⟨(findOrder_congr (stays .book (by decide)) _).trans ((find _).trans (if_pos rfl)), stays .mount (by decide),
        stays .drum (by decide)⟩
    · obtain ⟨hround, hdue, hrest⟩ := abortRound_closed _ (closes.mpr hnow)
      refine ⟨withdrawing l n.toNat o s, withdrawing_moves _ _ _ _, ?_, (find _).trans (if_pos rfl), hround, rfl, hrest⟩
      rw [show (markSelection _).filing = _ from hfiling, ← number]; rfl
    · exact ((withdrawing_moves l n.toNat o s).within.also (abortRound_moves _)).also (markSelection_moves _)

/-! ### The expiry of a retry delay (R20) -/

/-- Settles O15: a DELAYED destination becomes READY as its delay runs out. -/
theorem retryDelayExpiryMakesReady : Obligations.RetryDelayExpiryMakesReady := by
  unfold Obligations.RetryDelayExpiryMakesReady
  intro n j s
  refine ⟨fun hnone => ?_, fun d hd => ⟨fun r hdelayed htimer => ?_, fun hidle => ?_⟩⟩
  · simp only [exec_retryDelayExpiry, execRetryDelayExpiry, hnone]
  · refine ⟨_, by simp only [exec_retryDelayExpiry, execRetryDelayExpiry, hd, htimer, if_pos hdelayed]; rfl, rfl, ?_, rfl, ?_, ?_,
      fun k hk => ?_⟩
    · exact ((jumpTo_moves _ s).within.also (modDest_moves _ _ _ _)).also (markSelection_moves _)
    · exact ((modOrder_only n _ (by intro _; rfl) (jumpTo (r.start + r.length) s)).from rfl).congr rfl
    · exact (findDest_modDest n j _ _).trans (congrArg (Option.map _) ((findDest_congr rfl n j).trans hd))
    · exact (findDest_modDest_ne n j n k _ _ (fun _ => hk)).trans (findDest_congr rfl n k)
  · simp only [exec_retryDelayExpiry, execRetryDelayExpiry, hd]
    split
    · rfl
    · rename_i t ht
      rw [if_neg (by simpa [ht] using hidle)]

/-! ### The transfer of the head reference (R23) -/

/-- Settles O16: a full log or an empty queue leave everything; otherwise the head reference is filed, and a record that leaves at
once lets the next ones through. -/
theorem filingTransferFilesTheHeadReference : Obligations.FilingTransferFilesTheHeadReference := by
  unfold Obligations.FilingTransferFilesTheHeadReference
  constructor
  · intro s h
    rw [exec_filingTransfer]; unfold execFilingTransfer
    split
    · rfl
    · rename_i ref rest hq
      have hfull : 32 ≤ s.log.length := h.resolve_left (by simp [hq])
      exact if_neg (by simp only [logPlaces]; omega)
  · intro s ref rest hq hroom
    have e : exec .filingTransfer s = .next (fileHead ref rest s) := by
      rw [exec_filingTransfer]; unfold execFilingTransfer; rw [hq]
      exact if_pos hroom
    refine ⟨transferRef ref rest s, _, e, transferRef_filed ref rest s hroom, fun hlong => if_neg (Nat.not_le.mpr hlong), fun hshort => ?_⟩
    rw [if_pos hshort]
    exact fileRefs_filed rest _

end Sys2Proof.Machine
end

section
/-! PROOF. The scheduler: what it does with the choice (O18) and with a reported outcome (O19), and the beginning of a call (O21). -/

namespace Sys2Proof.Machine

/-! ### The choice acted on (R17) -/

theorem mountedTag_eq_some_iff {m : Mount} {t : Nat} : mountedTag m = some t ↔ m = .mounted t := by
  cases m <;> simp [mountedTag]

theorem requestMount_requested (tag n : Nat) (s : State) :
    (requestMount tag n s).mount = .requested tag ∧ DriveCut s (requestMount tag n s) ∧
      NoticedToBoth (.mountRequest .mount tag (some n)) (requestMount tag n s) ∧ (requestMount tag n s).book = s.book :=
  ⟨rfl, (cutDrive_cut s).congr rfl, noticeBoth_noticed _ _, cutDrive_moves s .book (by decide)⟩

/-- Settles O18: the four cases of the choice. -/
theorem choiceIsActedOn : Obligations.ChoiceIsActedOn := by
  unfold Obligations.ChoiceIsActedOn
  intro o s ho
  refine ⟨fun h => if_pos h, fun hdrum hmount => ?_, fun hreq hmount => ?_, fun hwait hmount => ?_⟩
  · refine ⟨setOrderState o.number .onDrum (moveOrders .onDrum .waiting s), ?_,
      (moveOrders_moves _ _ _).trans (setOrderState_moves _ _ _), ?_, fun n x hn hx => ?_⟩
    · unfold actOnChoice; rw [if_neg hdrum, if_pos (mountedTag_eq_some_iff.mpr hmount)]
    · rw [findOrder_setOrderState, if_pos rfl, findOrder_moveOrders, ho]
      simp [hdrum]
    · rw [findOrder_setOrderState, if_neg hn, findOrder_moveOrders, hx]
      simp only [Option.map_some]
      split <;> rfl
  · unfold actOnChoice
    rw [if_neg (by simp [hreq]), if_neg (mt mountedTag_eq_some_iff.mp hmount), if_pos hreq]
  · obtain ⟨mount, cut, noticed, book⟩ := requestMount_requested o.tag o.number
      (setOrderState o.number .mountRequested (moveOrders .mountRequested .waiting (moveOrders .onDrum .waiting s)))
    refine ⟨_, by unfold actOnChoice; rw [if_neg (by simp [hwait]), if_neg (mt mountedTag_eq_some_iff.mp hmount),
      if_neg (by simp [hwait])], ?_, mount, cut.from rfl rfl, noticed, ?_, fun n x hn hx => ?_⟩
    · exact (((moveOrders_moves _ _ _).trans (moveOrders_moves _ _ _)).trans (setOrderState_moves _ _ _)).within.also
        (requestMount_moves _ _ _)
    · rw [findOrder_congr book, findOrder_setOrderState, if_pos rfl, findOrder_moveOrders, findOrder_moveOrders, ho]
      simp [hwait]
    · rw [findOrder_congr book, findOrder_setOrderState, if_neg hn, findOrder_moveOrders, findOrder_moveOrders, hx]
      by_cases h1 : x.state = .onDrum <;> by_cases h2 : x.state = .mountRequested <;> simp_all

/-! ### The outcome placed (R18, R19) -/

/-- An order settled while a reference of it is queued (R24). -/
theorem settleOrder_queued {n : Nat} {s : State} {o : Order} (h : findOrder s n = some o) (hr : ∃ r ∈ s.filing, r.order = n) :
    findOrder (settleOrder n s) n =
      some { o with state := if o.state ≠ .withdrawing ∧ ∀ y ∈ o.dests, y.state = .final then .filing else o.state } := by
  by_cases hall : o.state ≠ .withdrawing ∧ ∀ y ∈ o.dests, y.state = .final
  · rw [if_pos hall, settleOrder_finishes h hall.2 hall.1, (finishOrder_finished n s o h).1 hr]
  · rw [if_neg hall, settleOrder_keeps h, h]
    by_cases hw : o.state = .withdrawing
    · exact .inr hw
    · left; simpa [hw] using hall

theorem retryable_iff (oc : CallOutcome) : retryable oc = true ↔
    oc = .noAnswer ∨ oc = .lineLost ∨ oc = .dropped ∨ oc = .phasingFailed ∨ oc = .holdTimeout := by
  cases oc <;> simp [retryable]

/-- The retry allowance lasts for one more attempt (R19). -/
theorem lt_allowance_iff (s : State) (entry n : Nat) :
    n < allowance s entry ↔ ∃ e, readEntry s.store entry = .valid e ∧ n < e.retries := by
  unfold allowance
  constructor
  · intro h
    split at h
    · rename_i e he; exact ⟨e, (validEntry_eq_some_iff _ _ _).mp he, h⟩
    · exact absurd h (Nat.not_lt_zero _)
  · rintro ⟨e, he, h⟩
    rw [(validEntry_eq_some_iff _ _ _).mpr he]
    exact h

/-- The destination of a retryable outcome while the allowance lasts (R19). -/
def delayedDest (s : State) (d : Destination) : Destination :=
  { d with state := .delayed, retryTimer := some { start := s.now, length := (readSettings s.store).retryDelay * 1000000 } }

/-- The destination of every other outcome (R19). -/
def finalDest (oc : CallOutcome) (d : Destination) : Destination :=
  { d with state := .final, outcome := some oc, exhausted := retryable oc }

/-- A reported outcome on the channel that its destination is SENDING on: DELAYED, or FINAL with a reference (R18, R19). -/
theorem reportOutcome_placed {c : Chan} {oc : CallOutcome} {rep : Option Report} {s : State} {k : Call} {o : Order} {d : Destination}
    (hk : (s.channels.get c).call = some k) (ho : findOrder s k.order = some o) (hd : o.dests[k.dest]? = some d)
    (hs : d.state = .sending) (hc : d.channel = some c) :
    reportOutcome c oc rep s =
      if retryable oc = true ∧ d.attempts < allowance s d.entry then
        modDest k.order k.dest (fun _ => delayedDest s (reportedDest s (s.channels.get c) rep d)) s
      else settleOrder k.order (appendRef { order := k.order, dest := k.dest, channel := some c }
        (modDest k.order k.dest (fun _ => finalDest oc (reportedDest s (s.channels.get c) rep d)) s)) := by
  have found : findDest s k.order k.dest = some d := by unfold findDest; rw [ho]; exact hd
  unfold reportOutcome
  simp only [hk, found, hs, hc, and_self, if_true]
  have cond : (reportedDest s (s.channels.get c) rep d).attempts < allowance s (reportedDest s (s.channels.get c) rep d).entry + 1 ↔
      d.attempts < allowance s d.entry := Nat.succ_lt_succ_iff
  simp only [cond]
  rfl

theorem modDest_const_find {n i m : Nat} (x : Destination) {s : State} {o : Order} (ho : findOrder s n = some o) (hm : m = n) :
    findOrder (modDest n i (fun _ => x) s) m = some { o with dests := o.dests.set i x } := by
  have dests : o.dests.modify i (fun _ => x) = o.dests.set i x := @List.modify_eq_set _ ⟨x⟩ _ i o.dests
  rw [findOrder_modDest, if_pos hm, hm, ho, ← dests]
  rfl

theorem findDest_of_find {s : State} {n i : Nat} {o : Order} {x : Destination} (h : findOrder s n = some o) (hx : o.dests[i]? = some x) :
    findDest s n i = some x := by unfold findDest; rw [h]; exact hx

/-- Settles O19: discarded, DELAYED, or FINAL with its reference. -/
theorem outcomeIsPlacedByTheScheduler : Obligations.OutcomeIsPlacedByTheScheduler := by
  unfold Obligations.OutcomeIsPlacedByTheScheduler
  intro c oc rep s k o d hk ho hd
  refine ⟨fun hother => ?_, fun hs hc => ⟨retryable_iff oc, ?_⟩⟩
  · unfold reportOutcome
    simp only [hk, findDest_of_find ho hd]
    rw [if_neg (fun h => hother.elim (fun k => k h.1) (fun k => k h.2))]
  · have placed := reportOutcome_placed (rep := rep) (oc := oc) hk ho hd hs hc
    have moves := reportOutcome_moves c oc rep s
    have only := ((reportOutcome_onlyCalledDest c oc rep s).2 k hk).1
    have hlt : k.dest < o.dests.length := (List.getElem?_eq_some_iff.mp hd).1
    have mem : ∀ x, x ∈ o.dests.set k.dest x := fun x => List.mem_set hlt x
    have get : ∀ x, (o.dests.set k.dest x)[k.dest]? = some x := fun x => List.getElem?_set_self hlt
    by_cases hlast : retryable oc = true ∧ d.attempts < allowance s d.entry
    · rw [if_pos hlast] at placed
      have find := modDest_const_find (i := k.dest) (delayedDest s (reportedDest s (s.channels.get c) rep d)) ho rfl
      refine ⟨_, delayedDest s (reportedDest s (s.channels.get c) rep d), rfl, moves, only, ?_, rfl, rfl, rfl, rfl, rfl, rfl, rfl, rfl, rfl,
        rfl, ?_, ?_⟩ <;> rw [placed]
      · rw [find, if_neg]
        exact fun h => absurd (h.2 _ (mem _)) (by simp [delayedDest])
      · exact fun e _ => ⟨rfl, rfl, rfl, findDest_of_find find (get _), rfl⟩
      · intro hover
        obtain ⟨e, he, hmore⟩ := (lt_allowance_iff _ _ _).mp hlast.2
        have := hover e he hlast.1
        omega
    · rw [if_neg hlast] at placed
      have find := modDest_const_find (i := k.dest) (finalDest oc (reportedDest s (s.channels.get c) rep d)) ho rfl
      have settled := settleOrder_queued (n := k.order) (o := { o with dests := o.dests.set k.dest (finalDest oc (reportedDest s (s.channels.get c) rep d)) })
        (s := appendRef { order := k.order, dest := k.dest, channel := some c } (modDest k.order k.dest (fun _ => finalDest oc (reportedDest s (s.channels.get c) rep d)) s))
        find ⟨_, List.mem_append_right _ (List.mem_singleton.mpr rfl), rfl⟩
      refine ⟨_, finalDest oc (reportedDest s (s.channels.get c) rep d), rfl, moves, only, ?_, rfl, rfl, rfl, rfl, rfl, rfl, rfl, rfl, rfl,
        rfl, ?_, ?_⟩ <;> rw [placed]
      · exact settled
      · rintro e ⟨he, hr, hmore⟩
        exact absurd ⟨hr, (lt_allowance_iff _ _ _).mpr ⟨e, he, hmore⟩⟩ hlast
      · intro _
        refine ⟨rfl, rfl, rfl, ?_, findDest_of_find settled (get _)⟩
        exact settleOrder_moves _ _ .filing (by decide)

/-! ### The beginning of a call (R100, R102, R104) -/

/-- The copy that a beginning call takes of its entry and of the settings (R100). -/
def callCopy (s : State) (c : Chan) (n i entry : Nat) (e : Entry) : Call :=
  { order := n, dest := i, entryIndex := entry, entry := e, config := (readSettings s.store).config.get c,
    bureau := (readSettings s.store).bureau }

/-- The book once the call has begun: the destination SENDING and its order attempted (R3, R5). -/
def attempted (n i : Nat) (s : State) : State :=
  modOrder n (fun o => { o with attempted := true }) (modDest n i (sendingDest s) s)

/-- A dialled call begins off hook, in the settle before the first digit (R102). -/
theorem beginCall_dialled {c : Chan} {n i : Nat} {s : State} {d : Destination} {e : Entry} (hd : findDest s n i = some d)
    (he : readEntry s.store d.entry = .valid e) (hc : (readSettings s.store).config.get c = .dialled) :
    beginCall c n i s = modChan c (fun ch => { ch with state := .dialling, hook := .offHook, stateTimer := some s.now, dial := .settle })
      (modChan c (freshCall (callCopy s c n i d.entry e)) (attempted n i s)) := by
  unfold beginCall
  simp only [hd, (validEntry_eq_some_iff _ _ _).mpr he, hc]
  simp only [callCopy, hc, attempted]

/-- A leased call begins in ANNOUNCE (R104). -/
theorem beginCall_leased {c : Chan} {n i entry : Nat} {s : State} {d : Destination} {e : Entry} (hd : findDest s n i = some d)
    (he : readEntry s.store d.entry = .valid e) (hc : (readSettings s.store).config.get c = .leased entry) :
    beginCall c n i s = enterAnnounce c (modChan c (freshCall (callCopy s c n i d.entry e)) (attempted n i s)) := by
  unfold beginCall
  simp only [hd, (validEntry_eq_some_iff _ _ _).mpr he, hc]
  simp only [callCopy, hc, attempted]

theorem attempted_only (n i : Nat) (s : State) : OnlyOrder n s (attempted n i s) := by
  obtain ⟨a1, a2, a3, a4⟩ := modOrder_only n (fun o => { o with dests := o.dests.modify i (sendingDest s) }) (by intro _; rfl) s
  obtain ⟨b1, b2, b3, b4⟩ := modOrder_only n (fun o => { o with attempted := true }) (by intro _; rfl) (modDest n i (sendingDest s) s)
  exact ⟨b1.trans a1, b2.trans a2, b3.trans a3, fun m hm => (b4 m hm).trans (a4 m hm)⟩

theorem attempted_find (n i : Nat) (s : State) {o : Order} (ho : findOrder s n = some o) :
    findOrder (attempted n i s) n = some { o with attempted := true, dests := o.dests.modify i (sendingDest s) } := by
  rw [attempted, findOrder_modOrder _ _ _ (by intro _; rfl), if_pos rfl, findOrder_modDest, if_pos rfl, ho]
  rfl

theorem enterAnnounce_get (c : Chan) (s : State) : (enterAnnounce c s).channels.get c =
    { s.channels.get c with
      state := .announce, stateTimer := some s.now, dial := .silent, lineTimer := some { start := s.now, begun := 0 },
      linePeriod := (match (s.channels.get c).call with
        | some k => k.entry.lpm.period
        | none => (s.channels.get c).linePeriod),
      carrierTimer := if s.pins.carrier.get c then none else some s.now } := modChan_get _ _ _

theorem beginCall_onlyChannel (c : Chan) (n i : Nat) (s : State) : OnlyChannel c s (beginCall c n i s) := by
  intro b hb
  unfold beginCall
  split
  · rfl
  · split
    · rfl
    · dsimp only
      split
      · rw [modChan_get_ne _ _ hb, modChan_get_ne _ _ hb]; rfl
      · unfold enterAnnounce; rw [modChan_get_ne _ _ hb, modChan_get_ne _ _ hb]; rfl

/-- Settles O21: the call copy, and DIALLING or ANNOUNCE by the channel's configuration. -/
theorem callBeginsByTheConfiguration : Obligations.CallBeginsByTheConfiguration := by
  unfold Obligations.CallBeginsByTheConfiguration
  intro c n i s o d e ho hd he
  have found := findDest_of_find ho hd
  have moves := beginCall_moves c n i s
  have only := beginCall_onlyChannel c n i s
  have find := attempted_find n i s ho
  have book := attempted_only n i s
  cases hc : (readSettings s.store).config.get c with
  | dialled =>
    have eq := beginCall_dialled found he hc
    have chan : (beginCall c n i s).channels.get c = { freshCall (callCopy s c n i d.entry e) (s.channels.get c) with
        state := .dialling, hook := .offHook, stateTimer := some s.now, dial := .settle } := by
      rw [eq, modChan_get, modChan_get]; rfl
    refine ⟨_, callCopy s c n i d.entry e, rfl, moves, only, by rw [eq]; exact book, ?_⟩
    rw [chan]
    exact ⟨rfl, rfl, rfl, rfl, rfl, hc, rfl, fun _ => ⟨rfl, rfl, rfl, rfl⟩, fun h => absurd hc h, rfl, rfl, rfl, rfl, rfl, rfl, rfl, rfl, rfl, rfl,
      rfl, rfl, rfl, by rw [eq]; exact find⟩
  | leased entry =>
    have eq := beginCall_leased found he hc
    have chan : (beginCall c n i s).channels.get c = { freshCall (callCopy s c n i d.entry e) (s.channels.get c) with
        state := .announce, stateTimer := some s.now, dial := .silent, lineTimer := some { start := s.now, begun := 0 },
        linePeriod := e.lpm.period, carrierTimer := if s.pins.carrier.get c then none else some s.now } := by
      rw [eq, enterAnnounce_get, modChan_get]; rfl
    refine ⟨_, callCopy s c n i d.entry e, rfl, moves, only, by rw [eq]; exact book, ?_⟩
    rw [chan]
    exact ⟨rfl, rfl, rfl, rfl, rfl, hc, rfl, fun h => absurd (h.symm.trans hc) (by simp), fun _ => ⟨rfl, rfl, rfl, rfl, rfl, rfl⟩, rfl, rfl, rfl, rfl, rfl, rfl, rfl, rfl, rfl, rfl,
      rfl, rfl, rfl, by rw [eq]; exact find⟩

end Sys2Proof.Machine
end

section
/-! PROOF. The walk of round assembly (R28 to R30): what each destination of the walk meets. -/

namespace Sys2Proof.Machine

/-! ### The verdict on one destination -/

theorem available_iff (s : State) (w : Walk) (c : Chan) :
    available s w c = true ↔ (s.channels.get c).state = .idle ∧ w.members.get c = none := by
  simp [available]

/-- The first channel with a property has it, and no channel of a lower number does. -/
theorem find_channel {p : Chan → Bool} {c : Chan} (h : Chan.all.find? p = some c) :
    p c = true ∧ ∀ b : Chan, b.number < c.number → p b = false := by
  refine ⟨List.find?_some h, fun b hb => ?_⟩
  simp only [Chan.all, List.find?_cons] at h
  repeat' split at h
  all_goals cases h
  all_goals cases b <;> first | assumption | exact absurd hb (by decide)

theorem no_channel {p : Chan → Bool} (h : Chan.all.find? p = none) (c : Chan) : p c = false := by
  have := List.find?_eq_none.mp h c (by cases c <;> decide)
  simpa using this

/-- The channel and entry of a destination that the walk assigns (R28, R30). -/
def Assignable (s : State) (o : Order) (w : Walk) (entry : Nat) (c : Chan) (e : Entry) : Prop :=
  readEntry s.store entry = .valid e ∧ compatible o.ioc o.samples e = true ∧ available s w c = true ∧
    ((e.kind = .leased c ∧ (readSettings s.store).config.get c = .leased entry) ∨
      (e.kind = .dialled ∧ (readSettings s.store).config.get c = .dialled ∧
        ∀ b : Chan, b.number < c.number → (readSettings s.store).config.get b = .dialled → available s w b = false))

/-- The recheck that a destination fails (R30): its entry is not VALID, or an eligible channel was there. -/
def Failing (s : State) (o : Order) (w : Walk) (entry : Nat) : Prop :=
  (∀ e, readEntry s.store entry ≠ .valid e) ∨
    ∃ e c, readEntry s.store entry = .valid e ∧ available s w c = true ∧
      ((e.kind = .leased c ∧
          ((readSettings s.store).config.get c ≠ .leased entry ∨ compatible o.ioc o.samples e = false)) ∨
        (e.kind = .dialled ∧ (readSettings s.store).config.get c = .dialled ∧ compatible o.ioc o.samples e = false))

/-- No channel that could serve a destination is available (R28). -/
def Unserved (s : State) (w : Walk) (entry : Nat) : Prop :=
  ∃ e, readEntry s.store entry = .valid e ∧
    ∀ c, (e.kind = .leased c ∨ e.kind = .dialled ∧ (readSettings s.store).config.get c = .dialled) → available s w c = false

/-- What a verdict says of the destination it is on. -/
def Judged (s : State) (o : Order) (w : Walk) (entry : Nat) : Verdict → Prop
  | .passOver => Unserved s w entry
  | .fail => Failing s o w entry
  | .assign c k => ∃ e, e.lpm = k ∧ Assignable s o w entry c e

/-- The recheck judges a destination for which an eligible channel is available (R30). -/
theorem recheck_judged {s : State} {o : Order} {w : Walk} {entry : Nat} {e : Entry} {c : Chan}
    (he : readEntry s.store entry = .valid e) (ha : available s w c = true)
    (hk : (e.kind = .leased c ∧ (readSettings s.store).config.get c = .leased entry) ∨
      (e.kind = .dialled ∧ (readSettings s.store).config.get c = .dialled ∧
        ∀ b : Chan, b.number < c.number → (readSettings s.store).config.get b = .dialled → available s w b = false)) :
    Judged s o w entry (recheck o e c) := by
  unfold recheck
  split
  · rename_i hcomp; exact ⟨e, rfl, he, hcomp, ha, hk⟩
  · rename_i hcomp
    have hcomp : compatible o.ioc o.samples e = false := by simpa using hcomp
    exact .inr ⟨e, c, he, ha, hk.imp (fun h => ⟨h.1, .inr hcomp⟩) (fun h => ⟨h.1, h.2.1, hcomp⟩)⟩

theorem verdict_judged (s : State) (o : Order) (w : Walk) (entry : Nat) : Judged s o w entry (verdict s o w entry) := by
  unfold verdict
  dsimp only
  split
  · rename_i hnone
    exact .inl fun e he => absurd ((validEntry_eq_some_iff _ _ _).mpr he) (by simp [hnone])
  · rename_i e hvalid
    have he := (validEntry_eq_some_iff _ _ _).mp hvalid
    split
    · rename_i c hkind
      split
      · rename_i ha
        split
        · rename_i hcfg; exact recheck_judged he ha (.inl ⟨hkind, hcfg⟩)
        · rename_i hcfg; exact .inr ⟨e, c, he, ha, .inl ⟨hkind, .inl hcfg⟩⟩
      · rename_i ha
        refine ⟨e, he, fun b hb => ?_⟩
        rcases hb with hb | hb
        · obtain rfl : c = b := by simpa [hkind] using hb
          simpa using ha
        · exact absurd (hkind.symm.trans hb.1) (by simp)
    · rename_i hkind
      split
      · rename_i hnone
        refine ⟨e, he, fun b hb => ?_⟩
        rcases hb with hb | hb
        · exact absurd (hkind.symm.trans hb) (by simp)
        · simpa [hb.2] using no_channel hnone b
      · rename_i c hfirst
        obtain ⟨hc, hbefore⟩ := find_channel hfirst
        simp only [Bool.and_eq_true, beq_iff_eq] at hc
        refine recheck_judged he hc.2 (.inr ⟨hkind, hc.1, fun b hb hcfg => ?_⟩)
        simpa [hcfg] using hbefore b hb

/-! ### The walk, destination by destination -/

/-- The walk over the first destinations of an order. -/
def walkTo (s : State) (o : Order) : Nat → Walk
  | 0 => { members := PerChan.all none, classes := [], failed := [] }
  | i + 1 =>
    match o.dests[i]? with
    | none => walkTo s o i
    | some d => walkStep s o i d (walkTo s o i)

theorem walkFrom_drop (s : State) (o : Order) : ∀ (n i : Nat), i + n = o.dests.length →
    walkFrom s o i (o.dests.drop i) (walkTo s o i) = walkTo s o o.dests.length
  | 0, i, h => by
    obtain rfl : i = o.dests.length := by omega
    rw [List.drop_length]; rfl
  | n + 1, i, h => by
    have hi : i < o.dests.length := by omega
    rw [List.drop_eq_getElem_cons hi]
    have hstep : walkTo s o (i + 1) = walkStep s o i o.dests[i] (walkTo s o i) := by
      rw [walkTo, List.getElem?_eq_getElem hi]
    rw [walkFrom, ← hstep]
    exact walkFrom_drop s o n (i + 1) (by omega)

theorem walkOrder_eq (s : State) (o : Order) : walkOrder s o = walkTo s o o.dests.length := by
  have h := walkFrom_drop s o o.dests.length 0 (Nat.zero_add _)
  rwa [List.drop_zero] at h

/-- The verdict that the walk reaches on destination `i`. -/
def verdictAt (s : State) (o : Order) (i : Nat) (d : Destination) : Verdict :=
  if d.state = .ready ∧ (walkTo s o i).classes.length < 4 then verdict s o (walkTo s o i) d.entry else .passOver

/-- What a verdict on destination `i` makes of the walk. -/
def Walk.take (w : Walk) (i : Nat) : Verdict → Walk
  | .passOver => w
  | .fail => { w with failed := w.failed ++ [i] }
  | .assign c k => { w with members := w.members.set c (some i), classes := w.classes ++ [k] }

theorem walkTo_succ {s : State} {o : Order} {i : Nat} {d : Destination} (hd : o.dests[i]? = some d) :
    walkTo s o (i + 1) = (walkTo s o i).take i (verdictAt s o i d) := by
  rw [walkTo, hd]
  dsimp only
  unfold walkStep verdictAt
  split
  · cases verdict s o (walkTo s o i) d.entry <;> rfl
  · rfl

theorem verdictAt_judged {s : State} {o : Order} {i : Nat} {d : Destination}
    (h : d.state = .ready ∧ (walkTo s o i).classes.length < 4) :
    Judged s o (walkTo s o i) d.entry (verdictAt s o i d) := by
  unfold verdictAt; rw [if_pos h]; exact verdict_judged _ _ _ _

theorem verdictAt_taken {s : State} {o : Order} {i : Nat} {d : Destination} (h : verdictAt s o i d ≠ .passOver) :
    d.state = .ready ∧ (walkTo s o i).classes.length < 4 := by
  refine Classical.byContradiction fun hn => ?_
  exact h (if_neg hn)

theorem verdictAt_assign {s : State} {o : Order} {i : Nat} {d : Destination} {c : Chan} {k : LpmClass}
    (h : verdictAt s o i d = .assign c k) : d.state = .ready ∧ ∃ e, e.lpm = k ∧ Assignable s o (walkTo s o i) d.entry c e := by
  have ht := verdictAt_taken (h ▸ Verdict.noConfusion : verdictAt s o i d ≠ .passOver)
  have hj := verdictAt_judged ht
  rw [h] at hj
  exact ⟨ht.1, hj⟩

/-- Destination `i` is one of the first `n` and has a property. -/
def Reached (o : Order) (n i : Nat) (p : Destination → Prop) : Prop := i < n ∧ ∃ d, o.dests[i]? = some d ∧ p d

theorem reached_zero {o : Order} {i : Nat} {p : Destination → Prop} : ¬ Reached o 0 i p := fun h => absurd h.1 (Nat.not_lt_zero i)

theorem reached_succ {o : Order} {n i : Nat} {p : Destination → Prop} :
    Reached o (n + 1) i p ↔ Reached o n i p ∨ (i = n ∧ ∃ d, o.dests[n]? = some d ∧ p d) := by
  constructor
  · rintro ⟨h, hp⟩
    rcases Nat.lt_succ_iff_lt_or_eq.mp h with h | rfl
    · exact .inl ⟨h, hp⟩
    · exact .inr ⟨rfl, hp⟩
  · rintro (⟨h, hp⟩ | ⟨rfl, hp⟩)
    · exact ⟨by omega, hp⟩
    · exact ⟨Nat.lt_succ_self _, hp⟩

theorem Walk.take_assign (w : Walk) (i : Nat) (c : Chan) (k : LpmClass) : (w.take i (.assign c k)).members.get c = some i :=
  PerChan.get_set _ _ _

theorem Walk.take_other {w : Walk} {i : Nat} {v : Verdict} {c : Chan} (h : ∀ k, v ≠ .assign c k) :
    (w.take i v).members.get c = w.members.get c := by
  cases v with
  | passOver => rfl
  | fail => rfl
  | assign b k => exact PerChan.get_set_ne _ _ fun e => h k (by rw [e])

/-- The members of the walk are the destinations it assigned (R28, R29). -/
theorem walkTo_member (s : State) (o : Order) (n : Nat) (c : Chan) (i : Nat) :
    (walkTo s o n).members.get c = some i ↔ Reached o n i fun d => ∃ k, verdictAt s o i d = .assign c k := by
  induction n with
  | zero => simp [walkTo, reached_zero]
  | succ n ih =>
    rw [reached_succ, ← ih]
    cases hd : o.dests[n]? with
    | none => rw [walkTo, hd]; simp
    | some d =>
      rw [walkTo_succ hd]
      by_cases hk : ∃ k, verdictAt s o n d = .assign c k
      · obtain ⟨k, hk⟩ := hk
        obtain ⟨_, e, _, _, _, hfree, _⟩ := verdictAt_assign hk
        rw [available_iff] at hfree
        rw [hk, Walk.take_assign, hfree.2]
        constructor
        · intro h; cases h; exact .inr ⟨rfl, d, rfl, k, hk⟩
        · rintro (h | ⟨rfl, _⟩)
          · cases h
          · rfl
      · rw [Walk.take_other fun k h => hk ⟨k, h⟩]
        refine ⟨.inl, fun h => h.resolve_right ?_⟩
        rintro ⟨rfl, d', hd', h⟩
        cases hd'
        exact hk h

/-- The destinations that failed the recheck in the walk (R30). -/
theorem walkTo_failed (s : State) (o : Order) (n i : Nat) :
    i ∈ (walkTo s o n).failed ↔ Reached o n i fun d => verdictAt s o i d = .fail := by
  induction n with
  | zero => simp [walkTo, reached_zero]
  | succ n ih =>
    rw [reached_succ, ← ih]
    cases hd : o.dests[n]? with
    | none => rw [walkTo, hd]; simp
    | some d =>
      rw [walkTo_succ hd]
      cases hv : verdictAt s o n d with
      | passOver => simpa [Walk.take] using fun h => by simp [h, hv]
      | fail =>
        simp only [Walk.take, List.mem_append, List.mem_singleton, Option.some.injEq, exists_eq_left']
        exact or_congr_right ⟨fun h => ⟨h, h ▸ hv⟩, And.left⟩
      | assign b k => simpa [Walk.take] using fun h => by simp [h, hv]

theorem walkTo_failed_nodup (s : State) (o : Order) (n : Nat) : (walkTo s o n).failed.Nodup := by
  induction n with
  | zero => exact List.nodup_nil
  | succ n ih =>
    cases hd : o.dests[n]? with
    | none => rw [walkTo, hd]; exact ih
    | some d =>
      rw [walkTo_succ hd]
      cases verdictAt s o n d with
      | passOver => exact ih
      | fail =>
        refine List.nodup_append.mpr ⟨ih, List.pairwise_singleton _ _, fun x hx y hy => ?_⟩
        have := ((walkTo_failed s o n x).mp hx).1
        rw [List.mem_singleton.mp hy]
        omega
      | assign b k => exact ih

/-- The classes of the walk are those of the entries it assigned (R31). -/
theorem walkTo_class (s : State) (o : Order) (n : Nat) (k : LpmClass) :
    k ∈ (walkTo s o n).classes ↔ ∃ i, Reached o n i fun d => ∃ c, verdictAt s o i d = .assign c k := by
  induction n with
  | zero => simp [walkTo, reached_zero]
  | succ n ih =>
    simp only [reached_succ, exists_or, exists_eq_left]
    rw [← ih]
    cases hd : o.dests[n]? with
    | none => rw [walkTo, hd]; simp
    | some d =>
      rw [walkTo_succ hd]
      cases hv : verdictAt s o n d with
      | passOver => simp [Walk.take, hv]
      | fail => simp [Walk.take, hv]
      | assign b k' =>
        simp only [Walk.take, List.mem_append, List.mem_singleton, Option.some.injEq, exists_eq_left', hv, Verdict.assign.injEq]
        exact or_congr_right eq_comm

/-- How many channels a membership holds. -/
def memberCount (m : PerChan (Option Nat)) : Nat := Chan.all.countP fun c => (m.get c).isSome

theorem memberCount_set {m : PerChan (Option Nat)} {c : Chan} (i : Nat) (h : m.get c = none) :
    memberCount (m.set c (some i)) = memberCount m + 1 := by
  cases c <;> simp [PerChan.get] at h <;> simp [memberCount, Chan.all, PerChan.get, PerChan.set, List.countP_cons, h] <;> omega

theorem memberCount_eq_zero {m : PerChan (Option Nat)} : memberCount m = 0 ↔ ∀ c, m.get c = none := by
  unfold memberCount
  rw [List.countP_eq_zero]
  exact ⟨fun h c => by simpa using h c (by cases c <;> decide), fun h c _ => by simp [h c]⟩

theorem memberCount_lt {m : PerChan (Option Nat)} : memberCount m < 4 ↔ ∃ c, m.get c = none := by
  have hle : memberCount m ≤ Chan.all.length := List.countP_le_length
  have hall : memberCount m = Chan.all.length ↔ ∀ c ∈ Chan.all, (m.get c).isSome = true := List.countP_eq_length
  change memberCount m ≤ 4 at hle
  change memberCount m = 4 ↔ _ at hall
  constructor
  · intro h
    refine Classical.byContradiction fun hn => ?_
    refine absurd (hall.mpr fun c _ => ?_) (by omega)
    cases hc : m.get c with
    | none => exact absurd ⟨c, hc⟩ hn
    | some i => rfl
  · rintro ⟨c, hc⟩
    refine Nat.lt_of_le_of_ne hle fun h => ?_
    have := hall.mp h c (by cases c <;> decide)
    rw [hc] at this; cases this

/-- As many classes as members. -/
theorem walkTo_count (s : State) (o : Order) (n : Nat) : (walkTo s o n).classes.length = memberCount (walkTo s o n).members := by
  induction n with
  | zero => rfl
  | succ n ih =>
    cases hd : o.dests[n]? with
    | none => rw [walkTo, hd]; exact ih
    | some d =>
      rw [walkTo_succ hd]
      cases hv : verdictAt s o n d with
      | passOver => exact ih
      | fail => exact ih
      | assign c k =>
        obtain ⟨_, e, _, _, _, hfree, _⟩ := verdictAt_assign hv
        rw [available_iff] at hfree
        simp only [Walk.take, List.length_append, List.length_singleton, memberCount_set n hfree.2, ih]

/-! ### The walk as a whole -/

theorem member_iff {s : State} {o : Order} {c : Chan} {i : Nat} :
    (walkOrder s o).members.get c = some i ↔ ∃ d k, o.dests[i]? = some d ∧ verdictAt s o i d = .assign c k := by
  rw [walkOrder_eq, walkTo_member]
  exact ⟨fun ⟨_, d, hd, k, hk⟩ => ⟨d, k, hd, hk⟩, fun ⟨d, k, hd, hk⟩ => ⟨(List.getElem?_eq_some_iff.mp hd).1, d, hd, k, hk⟩⟩

theorem failed_iff {s : State} {o : Order} {i : Nat} :
    i ∈ (walkOrder s o).failed ↔ ∃ d, o.dests[i]? = some d ∧ verdictAt s o i d = .fail := by
  rw [walkOrder_eq, walkTo_failed]
  exact ⟨fun ⟨_, h⟩ => h, fun ⟨d, hd, h⟩ => ⟨(List.getElem?_eq_some_iff.mp hd).1, d, hd, h⟩⟩

theorem class_iff {s : State} {o : Order} {k : LpmClass} :
    k ∈ (walkOrder s o).classes ↔ ∃ i d c, o.dests[i]? = some d ∧ verdictAt s o i d = .assign c k := by
  rw [walkOrder_eq, walkTo_class]
  exact ⟨fun ⟨i, _, d, hd, c, h⟩ => ⟨i, d, c, hd, h⟩, fun ⟨i, d, c, hd, h⟩ => ⟨i, (List.getElem?_eq_some_iff.mp hd).1, d, hd, c, h⟩⟩

/-- What the walk had taken before destination `i` is what the whole walk has taken by one before it. -/
theorem taken_before {s : State} {o : Order} {i j : Nat} {c : Chan} (hi : i ≤ o.dests.length) :
    (walkTo s o i).members.get c = some j ↔ j < i ∧ (walkOrder s o).members.get c = some j := by
  rw [walkTo_member, walkOrder_eq, walkTo_member]
  exact ⟨fun ⟨h, d⟩ => ⟨h, by omega, d⟩, fun ⟨h, _, d⟩ => ⟨h, d⟩⟩

theorem free_before {s : State} {o : Order} {i : Nat} {c : Chan} (hi : i ≤ o.dests.length) :
    (walkTo s o i).members.get c = none ↔ ∀ j, j < i → (walkOrder s o).members.get c ≠ some j := by
  constructor
  · intro h j hj hm
    rw [(taken_before hi).mpr ⟨hj, hm⟩] at h; cases h
  · intro h
    cases hm : (walkTo s o i).members.get c with
    | none => rfl
    | some j => obtain ⟨hj, hw⟩ := (taken_before hi).mp hm; exact absurd hw (h j hj)

theorem unavailable_before {s : State} {o : Order} {i : Nat} {c : Chan} (hi : i ≤ o.dests.length)
    (h : available s (walkTo s o i) c = false) :
    (s.channels.get c).state ≠ .idle ∨ ∃ j, j < i ∧ (walkOrder s o).members.get c = some j := by
  refine Classical.byContradiction fun hn => ?_
  obtain ⟨h1, h2⟩ := not_or.mp hn
  have : available s (walkTo s o i) c = true :=
    (available_iff _ _ _).mpr ⟨by simpa using h1, (free_before hi).mpr fun j hj hm => h2 ⟨j, hj, hm⟩⟩
  rw [this] at h; cases h

theorem dest_le {o : Order} {i : Nat} {d : Destination} (h : o.dests[i]? = some d) : i ≤ o.dests.length :=
  Nat.le_of_lt (List.getElem?_eq_some_iff.mp h).1

/-- A channel serves at most one destination, and a destination is served on at most one channel (R29). -/
theorem member_injective {s : State} {o : Order} {b c : Chan} {i : Nat} (hb : (walkOrder s o).members.get b = some i)
    (hc : (walkOrder s o).members.get c = some i) : b = c := by
  obtain ⟨d, k, hd, h⟩ := member_iff.mp hb
  obtain ⟨d', k', hd', h'⟩ := member_iff.mp hc
  rw [hd] at hd'; cases hd'
  rw [h] at h'; cases h'
  rfl

theorem failed_not_member {s : State} {o : Order} {i : Nat} (hf : i ∈ (walkOrder s o).failed) (c : Chan) :
    (walkOrder s o).members.get c ≠ some i := by
  intro hc
  obtain ⟨d, hd, h⟩ := failed_iff.mp hf
  obtain ⟨d', k, hd', h'⟩ := member_iff.mp hc
  rw [hd] at hd'; cases hd'
  rw [h] at h'; cases h'

/-- A member of the walk (R28). -/
theorem member_spec {s : State} {o : Order} {c : Chan} {i : Nat} (h : (walkOrder s o).members.get c = some i) :
    ∃ d e, o.dests[i]? = some d ∧ d.state = .ready ∧ Assignable s o (walkTo s o i) d.entry c e := by
  obtain ⟨d, k, hd, hv⟩ := member_iff.mp h
  obtain ⟨hr, e, _, he⟩ := verdictAt_assign hv
  exact ⟨d, e, hd, hr, he⟩

theorem failed_spec {s : State} {o : Order} {i : Nat} (h : i ∈ (walkOrder s o).failed) :
    ∃ d, o.dests[i]? = some d ∧ d.state = .ready ∧ (walkTo s o i).classes.length < 4 ∧ Failing s o (walkTo s o i) d.entry := by
  obtain ⟨d, hd, hv⟩ := failed_iff.mp h
  have ht := verdictAt_taken (hv ▸ Verdict.noConfusion : verdictAt s o i d ≠ .passOver)
  have hj := verdictAt_judged ht
  rw [hv] at hj
  exact ⟨d, hd, ht.1, ht.2, hj⟩

theorem no_class_iff (s : State) (o : Order) : (walkOrder s o).classes = [] ↔ ∀ c, (walkOrder s o).members.get c = none := by
  rw [← List.length_eq_zero_iff, walkOrder_eq, walkTo_count, memberCount_eq_zero]

end Sys2Proof.Machine
end

section
/-! PROOF. Round assembly: what it makes of the walk (O20). -/

namespace Sys2Proof.Machine

/-! ### Destinations changed one by one -/

/-- The destinations at some indices changed. -/
def modifyAll (f : Destination → Destination) (is : List Nat) (ds : List Destination) : List Destination :=
  is.foldl (fun ds i => ds.modify i f) ds

theorem modifyAll_get {f : Destination → Destination} (hf : ∀ d, f (f d) = f d) (j : Nat) : ∀ (is : List Nat) (ds : List Destination),
    (modifyAll f is ds)[j]? = if j ∈ is then ds[j]?.map f else ds[j]?
  | [], ds => by simp [modifyAll]
  | i :: is, ds => by
    rw [show modifyAll f (i :: is) ds = modifyAll f is (ds.modify i f) from rfl, modifyAll_get hf j is, List.getElem?_modify]
    by_cases hi : i = j
    · subst hi
      cases ds[i]? <;> simp [hf]
    · simp [hi, Ne.symm hi]

/-- The destination that a channel serves changed, if it serves one. -/
def modifyMember (m : PerChan (Option Nat)) (f : Chan → Destination → Destination) (ds : List Destination) (c : Chan) : List Destination :=
  match m.get c with
  | none => ds
  | some i => ds.modify i (f c)

/-- The destinations that some channels serve changed. -/
def modifyMembers (m : PerChan (Option Nat)) (f : Chan → Destination → Destination) (cs : List Chan) (ds : List Destination) :
    List Destination := cs.foldl (modifyMember m f) ds

theorem modifyMember_get_ne {m : PerChan (Option Nat)} (f : Chan → Destination → Destination) {c : Chan} {j : Nat} (ds : List Destination)
    (h : m.get c ≠ some j) : (modifyMember m f ds c)[j]? = ds[j]? := by
  unfold modifyMember
  split
  · rfl
  · rename_i i hi
    rw [List.getElem?_modify]
    simp [show i ≠ j from fun e => h (e ▸ hi)]

theorem modifyMember_get {m : PerChan (Option Nat)} (f : Chan → Destination → Destination) {c : Chan} {j : Nat} (ds : List Destination)
    (h : m.get c = some j) : (modifyMember m f ds c)[j]? = ds[j]?.map (f c) := by
  unfold modifyMember
  rw [h]
  simp

theorem modifyMembers_get_ne {m : PerChan (Option Nat)} (f : Chan → Destination → Destination) {j : Nat} :
    ∀ (cs : List Chan) (ds : List Destination), (∀ c ∈ cs, m.get c ≠ some j) → (modifyMembers m f cs ds)[j]? = ds[j]?
  | [], _, _ => rfl
  | c :: cs, ds, h => (modifyMembers_get_ne f cs _ fun b hb => h b (List.mem_cons_of_mem _ hb)).trans
      (modifyMember_get_ne f ds (h c List.mem_cons_self))

/-- A destination that one channel alone serves is changed once. -/
theorem modifyMembers_get {m : PerChan (Option Nat)} (f : Chan → Destination → Destination) {c : Chan} {j : Nat} (h : m.get c = some j)
    (hone : ∀ b, m.get b = some j → b = c) :
    ∀ (cs : List Chan) (ds : List Destination), cs.Nodup → c ∈ cs → (modifyMembers m f cs ds)[j]? = ds[j]?.map (f c)
  | [], _, _, hc => absurd hc List.not_mem_nil
  | b :: cs, ds, hn, hc => by
    obtain ⟨hb, hn⟩ := List.nodup_cons.mp hn
    rw [show modifyMembers m f (b :: cs) ds = modifyMembers m f cs (modifyMember m f ds b) from rfl]
    by_cases hbc : b = c
    · subst hbc
      rw [modifyMembers_get_ne f cs _ fun a ha e => hb (hone a e ▸ ha), modifyMember_get f ds h]
    · have hrest : c ∈ cs := (List.mem_cons.mp hc).resolve_left (Ne.symm hbc)
      rw [modifyMembers_get f h hone cs _ hn hrest, modifyMember_get_ne f ds fun e => hbc (hone b e)]

theorem chan_mem (c : Chan) : c ∈ Chan.all := by cases c <;> decide

theorem chan_nodup : Chan.all.Nodup := by decide

/-! ### The destinations that fail the recheck (R30) -/

/-- A destination that failed the recheck. -/
def failedDest (s : State) (d : Destination) : Destination :=
  { d with state := .final, outcome := some .incompatible, endTime := timeOfDay s }

theorem failAll_find {n : Nat} : ∀ (is : List Nat) {s : State} {o : Order}, findOrder s n = some o →
    findOrder (is.foldl (failDest n) s) n = some { o with dests := modifyAll (failedDest s) is o.dests }
  | [], _, _, ho => ho
  | i :: is, s, o, ho => by
    have hfirst : findOrder (failDest n s i) n = some { o with dests := o.dests.modify i (failedDest s) } := by
      rw [findOrder_congr (show (failDest n s i).book = (modDest n i (failedDest s) s).book from rfl), findOrder_modDest, if_pos rfl, ho]
      rfl
    exact failAll_find is hfirst

theorem failAll_filing {n : Nat} : ∀ (is : List Nat) (s : State),
    (is.foldl (failDest n) s).filing = s.filing ++ is.map fun i => { order := n, dest := i, channel := none }
  | [], s => (List.append_nil _).symm
  | i :: is, s => by
    rw [List.foldl_cons, failAll_filing is]
    simp [failDest, appendRef, modDest, modOrder]

/-! ### The members' destinations assigned and their calls begun (R29, R31) -/

theorem forMembers_eq (f : Chan → Option Nat → State → State) (m : PerChan (Option Nat)) (s : State) :
    forMembers f m s = Chan.all.foldl (fun s c => f c (m.get c) s) s := rfl

/-- A destination assigned to a channel. -/
def assignedOn (c : Chan) (d : Destination) : Destination := { d with state := .assigned, channel := some c }

theorem assignMembers_find {n : Nat} {m : PerChan (Option Nat)} : ∀ (cs : List Chan) {s : State} {o : Order}, findOrder s n = some o →
    findOrder (cs.foldl (fun s c => assignMember n c (m.get c) s) s) n = some { o with dests := modifyMembers m assignedOn cs o.dests }
  | [], _, _, ho => ho
  | c :: cs, s, o, ho => by
    have hfirst : findOrder (assignMember n c (m.get c) s) n = some { o with dests := modifyMember m assignedOn o.dests c } := by
      unfold assignMember modifyMember
      cases m.get c with
      | none => exact ho
      | some i => dsimp only; rw [findOrder_modDest, if_pos rfl, ho]; rfl
    exact assignMembers_find cs hfirst

/-- The members' calls begun, over some channels (R31). -/
def beginMembers (n : Nat) (m : PerChan (Option Nat)) (cs : List Chan) (s : State) : State :=
  cs.foldl (fun s c => beginMember n c (m.get c) s) s

theorem beginMembers_moves (n : Nat) (m : PerChan (Option Nat)) : ∀ (cs : List Chan) (s : State),
    Moves [.book, .channels] s (beginMembers n m cs s)
  | [], _ => Moves.refl _ _
  | c :: cs, s => (beginMember_moves n c (m.get c) s).trans (beginMembers_moves n m cs _)

/-- Every member serves a destination with a VALID entry. -/
def MembersValid (s : State) (m : PerChan (Option Nat)) (cs : List Chan) (ds : List Destination) : Prop :=
  ∀ c ∈ cs, ∀ i, m.get c = some i → ∃ d e, ds[i]? = some d ∧ readEntry s.store d.entry = .valid e

theorem MembersValid.begun {s : State} {m : PerChan (Option Nat)} {cs : List Chan} {ds : List Destination} (h : MembersValid s m cs ds)
    (c : Chan) (n i : Nat) : MembersValid (beginCall c n i s) m cs (ds.modify i (sendingDest s)) := by
  intro b hb j hj
  obtain ⟨x, y, hx, hy⟩ := h b hb j hj
  rw [List.getElem?_modify, hx, show (beginCall c n i s).store = s.store from beginCall_moves c n i s .store (by decide)]
  by_cases hij : i = j
  · exact ⟨sendingDest s x, y, by simp [hij], hy⟩
  · exact ⟨x, y, by simp [hij], hy⟩

/-- The call that has begun on a channel for destination `i` of order `n` (R100, R104). -/
def CallBegun (s : State) (n i : Nat) (c : Chan) (t : State) : Prop :=
  ∃ call, (t.channels.get c).call = some call ∧ call.order = n ∧ call.dest = i ∧
    (t.channels.get c).state = if (readSettings s.store).config.get c = .dialled then .dialling else .announce

/-- The beginning of one call, as the next beginnings see it. -/
theorem beginMember_begun {n i : Nat} {c : Chan} {s : State} {o : Order} {d : Destination} {e : Entry} (ho : findOrder s n = some o)
    (hd : o.dests[i]? = some d) (he : readEntry s.store d.entry = .valid e) :
    OnlyChannel c s (beginCall c n i s) ∧ CallBegun s n i c (beginCall c n i s) ∧
      findOrder (beginCall c n i s) n = some { o with attempted := true, dests := o.dests.modify i (sendingDest s) } := by
  obtain ⟨t, k, rfl, _, only, _, hcall, horder, hdest, _, _, hconfig, _, hdialled, hleased, h⟩ :=
    callBeginsByTheConfiguration c n i s o d e ho hd he
  obtain ⟨_, _, _, _, _, _, _, _, _, _, _, _, _, find⟩ := h
  refine ⟨only, ⟨k, hcall, horder, hdest, ?_⟩, find⟩
  rw [hconfig] at hdialled hleased
  split
  · rename_i h; exact (hdialled h).1
  · rename_i h; exact (hleased h).1

theorem beginMembers_find {n : Nat} {m : PerChan (Option Nat)} : ∀ (cs : List Chan) {s : State} {o : Order}, findOrder s n = some o →
    MembersValid s m cs o.dests → findOrder (beginMembers n m cs s) n =
      some { o with attempted := o.attempted || cs.any fun c => (m.get c).isSome, dests := modifyMembers m (fun _ => sendingDest s) cs o.dests }
  | [], s, o, ho, _ => by simp [beginMembers, modifyMembers, ho]
  | c :: cs, s, o, ho, hv => by
    have hrest : MembersValid s m cs o.dests := fun b hb => hv b (List.mem_cons_of_mem _ hb)
    cases hc : m.get c with
    | none =>
      have ih := beginMembers_find cs ho hrest
      simp only [beginMembers, modifyMembers, List.foldl_cons, beginMember, modifyMember, hc, List.any_cons, Option.isSome_none,
        Bool.false_or] at ih ⊢
      exact ih
    | some i =>
      obtain ⟨d, e, hd, he⟩ := hv c List.mem_cons_self i hc
      obtain ⟨_, _, find⟩ := beginMember_begun (c := c) ho hd he
      have hclock : (beginCall c n i s).clock = s.clock := beginCall_moves c n i s .clock (by decide)
      have hsame : sendingDest (beginCall c n i s) = sendingDest s := by unfold sendingDest timeOfDay; rw [hclock]
      have hvalid := hrest.begun c n i
      have ih := beginMembers_find cs find hvalid
      rw [hsame] at ih
      simp only [beginMembers, modifyMembers, List.foldl_cons, beginMember, modifyMember, hc, List.any_cons, Option.isSome_some,
        Bool.true_or, Bool.or_true] at ih ⊢
      exact ih

/-- Every member's call has begun, and no other channel has changed (R31). -/
theorem beginMembers_channels {n : Nat} {m : PerChan (Option Nat)} : ∀ (cs : List Chan) {s : State} {o : Order}, findOrder s n = some o →
    MembersValid s m cs o.dests → cs.Nodup →
      (∀ c ∈ cs, ∀ i, m.get c = some i → CallBegun s n i c (beginMembers n m cs s)) ∧
      ∀ c, c ∉ cs ∨ m.get c = none → (beginMembers n m cs s).channels.get c = s.channels.get c
  | [], s, o, _, _, _ => ⟨fun c hc => absurd hc List.not_mem_nil, fun _ _ => rfl⟩
  | b :: cs, s, o, ho, hv, hn => by
    obtain ⟨hb, hn⟩ := List.nodup_cons.mp hn
    have hrest : MembersValid s m cs o.dests := fun a ha => hv a (List.mem_cons_of_mem _ ha)
    cases hm : m.get b with
    | none =>
      obtain ⟨begun, stay⟩ := beginMembers_channels cs ho hrest hn
      have e : beginMembers n m (b :: cs) s = beginMembers n m cs s := by
        simp only [beginMembers, List.foldl_cons, beginMember, hm]
      rw [e]
      refine ⟨fun c hc i hi => begun c ((List.mem_cons.mp hc).resolve_left ?_) i hi, fun c hc => ?_⟩
      · rintro rfl; rw [hm] at hi; cases hi
      · exact stay c (hc.imp_left fun h hmem => h (List.mem_cons_of_mem _ hmem))
    | some i =>
      obtain ⟨d, e, hd, he⟩ := hv b List.mem_cons_self i hm
      obtain ⟨only, ⟨call, hcall, horder, hdest, hstate⟩, find⟩ := beginMember_begun (c := b) ho hd he
      have hstore : (beginCall b n i s).store = s.store := beginCall_moves b n i s .store (by decide)
      have hvalid := hrest.begun b n i
      obtain ⟨begun, stay⟩ := beginMembers_channels cs find hvalid hn
      have e : beginMembers n m (b :: cs) s = beginMembers n m cs (beginCall b n i s) := by
        simp only [beginMembers, List.foldl_cons, beginMember, hm]
      rw [e]
      refine ⟨fun c hc j hj => ?_, fun c hc => ?_⟩
      · rcases List.mem_cons.mp hc with rfl | hc
        · obtain rfl : i = j := Option.some.inj (hm.symm.trans hj)
          have same := stay c (.inl hb)
          exact ⟨call, by rw [same]; exact hcall, horder, hdest, by rw [same]; exact hstate⟩
        · have := begun c hc j hj
          unfold CallBegun at this ⊢
          rw [hstore] at this
          exact this
      · have hne : c ≠ b := by
          rintro rfl
          rcases hc with hc | hc
          · exact hc List.mem_cons_self
          · rw [hm] at hc; cases hc
        exact (stay c (hc.imp_left fun h hmem => h (List.mem_cons_of_mem _ hmem))).trans (only c hne)

/-! ### The highest class (R31) -/

theorem highestClass_cons (k l : LpmClass) (rest : List LpmClass) : highestClass (k :: l :: rest) =
    if (highestClass (l :: rest)).lpm ≤ k.lpm then k else highestClass (l :: rest) := by
  rw [highestClass]; simp

theorem highestClass_mem : ∀ {ks : List LpmClass}, ks ≠ [] → highestClass ks ∈ ks
  | [], h => absurd rfl h
  | [k], _ => List.mem_singleton.mpr rfl
  | k :: l :: rest, _ => by
    rw [highestClass_cons]
    split
    · exact List.mem_cons_self
    · exact List.mem_cons_of_mem _ (highestClass_mem (List.cons_ne_nil l rest))

theorem le_highestClass : ∀ {ks : List LpmClass} {k : LpmClass}, k ∈ ks → k.lpm ≤ (highestClass ks).lpm
  | [x], k, h => by rw [List.mem_singleton.mp h]; exact Nat.le_refl _
  | x :: y :: rest, k, h => by
    rw [highestClass_cons]
    have ih : k ∈ y :: rest → k.lpm ≤ (highestClass (y :: rest)).lpm := le_highestClass
    rcases List.mem_cons.mp h with rfl | h
    · split <;> omega
    · have := ih h
      split <;> omega

/-! ### Assembly (R27 to R31) -/

theorem assemblyAllowed_iff (s : State) : assemblyAllowed s = true ↔
    s.round.state = .closed ∧ s.head.state = .home ∧ s.pins.cover = true ∧ s.converter.lamp = .ok ∧ ∃ t, s.mount = .mounted t := by
  unfold assemblyAllowed drumFree
  cases s.mount <;> simp [and_assoc]

/-- The round as it forms, before the members' calls begin (R29, R31). -/
def assembling (n samples : Nat) (w : Walk) (s : State) : State :=
  spinCommand (highestClass w.classes)
    { forMembers (assignMember n) w.members s with
      round := { state := .assembling, order := some n, drumClass := some (highestClass w.classes), members := w.members,
                 scanComplete := false, samples := samples },
      head := { (forMembers (assignMember n) w.members s).head with held := 0 } }

theorem formRound_eq (n samples : Nat) (w : Walk) (s : State) :
    formRound n samples w s = beginMembers n w.members Chan.all (assembling n samples w s) := rfl

theorem assigned_moves (n : Nat) (m : PerChan (Option Nat)) (s : State) : Moves [.book] s (forMembers (assignMember n) m s) :=
  forMembers_moves (fun c m s => assignMember_moves n c m s) m s

theorem assembling_find {n samples : Nat} {w : Walk} {s : State} {o : Order} (ho : findOrder s n = some o) :
    findOrder (assembling n samples w s) n = some { o with dests := modifyMembers w.members assignedOn Chan.all o.dests } := by
  rw [findOrder_congr (show (assembling n samples w s).book = (forMembers (assignMember n) w.members s).book from
    spinCommand_moves _ _ .book (by decide)), forMembers_eq, assignMembers_find _ ho]

theorem assembling_moves (n samples : Nat) (w : Walk) (s : State) : Moves [.book, .round, .head, .drum] s (assembling n samples w s) := by
  refine ((assigned_moves n w.members s).within.trans ?_).also (spinCommand_moves _ _)
  intro p hp; cases p <;> first | rfl | exact absurd (by decide) hp

theorem spinCommand_drum_congr (k : LpmClass) {s t : State} (hd : t.drum = s.drum) (hn : t.now = s.now) :
    (spinCommand k t).drum = (spinCommand k s).drum := by
  unfold spinCommand; rw [hd, hn]

/-- What the walk leaves of each destination of the order, in a state where the failed ones have been made FINAL. -/
theorem assembling_membersValid {s t : State} {n samples : Nat} {o : Order} (hs : t.store = s.store) :
    MembersValid (assembling n samples (walkOrder s o) t) (walkOrder s o).members Chan.all
      (modifyMembers (walkOrder s o).members assignedOn Chan.all (modifyAll (failedDest s) (walkOrder s o).failed o.dests)) := by
  intro c _ i hi
  obtain ⟨d, e, hd, _, he, _⟩ := member_spec hi
  have hstore : (assembling n samples (walkOrder s o) t).store = s.store :=
    (assembling_moves n samples (walkOrder s o) t .store (by decide)).trans hs
  refine ⟨assignedOn c d, e, ?_, by rw [hstore]; exact he⟩
  rw [modifyMembers_get _ hi (fun b hb => member_injective hb hi) _ _ chan_nodup (chan_mem c),
    modifyAll_get (by intro _; rfl), if_neg (fun h => failed_not_member h c hi), hd]
  rfl

/-- The destinations after round assembly (R29, R30, R31). -/
def assembledDests (s : State) (o : Order) : List Destination :=
  modifyMembers (walkOrder s o).members (fun _ => sendingDest s) Chan.all
    (modifyMembers (walkOrder s o).members assignedOn Chan.all (modifyAll (failedDest s) (walkOrder s o).failed o.dests))

theorem assembledDests_get (s : State) (o : Order) (i : Nat) (d : Destination) (hd : o.dests[i]? = some d) :
    (i ∈ (walkOrder s o).failed → (assembledDests s o)[i]? = some (failedDest s d)) ∧
    (∀ c, (walkOrder s o).members.get c = some i → (assembledDests s o)[i]? = some (sendingDest s (assignedOn c d))) ∧
    (i ∉ (walkOrder s o).failed → (∀ c, (walkOrder s o).members.get c ≠ some i) → (assembledDests s o)[i]? = some d) := by
  have none' : (∀ c, (walkOrder s o).members.get c ≠ some i) →
      (assembledDests s o)[i]? = if i ∈ (walkOrder s o).failed then some (failedDest s d) else some d := fun h => by
    rw [assembledDests, modifyMembers_get_ne _ _ _ fun c _ => h c, modifyMembers_get_ne _ _ _ fun c _ => h c,
      modifyAll_get (by intro _; rfl), hd]
    rfl
  refine ⟨fun hf => ?_, fun c hc => ?_, fun hf hm => ?_⟩
  · rw [none' fun c => failed_not_member hf c, if_pos hf]
  · have hone : ∀ b, (walkOrder s o).members.get b = some i → b = c := fun b hb => member_injective hb hc
    rw [assembledDests, modifyMembers_get _ hc hone _ _ chan_nodup (chan_mem c),
      modifyMembers_get _ hc hone _ _ chan_nodup (chan_mem c), modifyAll_get (by intro _; rfl),
      if_neg (fun h => failed_not_member h c hc), hd]
    rfl
  · rw [none' hm, if_neg hf]

theorem modifyMembers_nobody {m : PerChan (Option Nat)} (f : Chan → Destination → Destination) (h : ∀ c, m.get c = none) :
    ∀ (cs : List Chan) (ds : List Destination), modifyMembers m f cs ds = ds
  | [], _ => rfl
  | c :: cs, ds => by
    have := modifyMembers_nobody f h cs (modifyMember m f ds c)
    rw [show modifyMembers m f (c :: cs) ds = modifyMembers m f cs (modifyMember m f ds c) from rfl, this]
    unfold modifyMember; rw [h c]

theorem settleOrder_queued_moves {n : Nat} {s : State} (h : ∃ r ∈ s.filing, r.order = n) : Moves [.book] s (settleOrder n s) := by
  unfold settleOrder
  split
  · exact Moves.refl _ _
  · split
    · unfold finishOrder
      rw [if_pos (by simpa using h)]
      exact setOrderState_moves _ _ _
    · exact Moves.refl _ _

/-- Assembly for an order whose walk assigned no channel (R30, R31). -/
theorem assemble_nobody {s : State} {n : Nat} {o : Order} (ha : assemblyAllowed s = true) (ho : findOrder s n = some o)
    (hm : ∀ c, (walkOrder s o).members.get c = none) :
    ((assemble n s).2 = true ↔ (walkOrder s o).failed ≠ []) ∧ Moves [.book, .filing] s (assemble n s).1 ∧
      (assemble n s).1.filing = s.filing ++ (walkOrder s o).failed.map (fun i => { order := n, dest := i, channel := none }) ∧
      findOrder (assemble n s).1 n = some { o with
        dests := assembledDests s o,
        state := if (walkOrder s o).failed ≠ [] ∧ (∀ d ∈ assembledDests s o, d.state = .final) ∧ o.state ≠ .withdrawing then .filing
          else o.state } := by
  have hdests : assembledDests s o = modifyAll (failedDest s) (walkOrder s o).failed o.dests := by
    rw [assembledDests, modifyMembers_nobody _ hm, modifyMembers_nobody _ hm]
  have hfind := failAll_find (walkOrder s o).failed ho
  have hfiling := failAll_filing (n := n) (walkOrder s o).failed s
  have hmoves := foldl_failDest_moves n (walkOrder s o).failed s
  rw [← hdests] at hfind
  unfold assemble
  rw [if_pos ha, ho]
  dsimp only
  rw [if_pos ((no_class_iff s o).mpr hm)]
  by_cases hf : (walkOrder s o).failed = []
  · rw [if_pos hf]
    refine ⟨by simp [hf], hmoves, hfiling, ?_⟩
    rw [if_neg (fun h => h.1 hf)]
    exact hfind
  · rw [if_neg hf]
    obtain ⟨i, rest, hcons⟩ := List.exists_cons_of_ne_nil hf
    have hqueued : ∃ r ∈ ((walkOrder s o).failed.foldl (failDest n) s).filing, r.order = n := by
      rw [hfiling, hcons]
      exact ⟨{ order := n, dest := i, channel := none }, by simp, rfl⟩
    have hsettle := settleOrder_queued_moves hqueued
    refine ⟨by simp [hf], hmoves.also hsettle, (hsettle .filing (by decide)).trans hfiling, ?_⟩
    rw [settleOrder_queued hfind hqueued]
    simp only [ne_eq, hf, not_false_eq_true, true_and, and_comm]

/-- Assembly for an order with members: the round forms (R29, R31). -/
theorem assemble_forms {s : State} {n : Nat} {o : Order} (ha : assemblyAllowed s = true) (ho : findOrder s n = some o)
    {c : Chan} {i : Nat} (hm : (walkOrder s o).members.get c = some i) :
    assemble n s = (formRound n o.samples (walkOrder s o) ((walkOrder s o).failed.foldl (failDest n) s), false) ∧
      findOrder (formRound n o.samples (walkOrder s o) ((walkOrder s o).failed.foldl (failDest n) s)) n =
        some { o with attempted := true, dests := assembledDests s o } := by
  have hstore : ((walkOrder s o).failed.foldl (failDest n) s).store = s.store := foldl_failDest_moves n _ s .store (by decide)
  have hclock : (assembling n o.samples (walkOrder s o) ((walkOrder s o).failed.foldl (failDest n) s)).clock = s.clock :=
    (assembling_moves _ _ _ _ .clock (by decide)).trans (foldl_failDest_moves n _ s .clock (by decide))
  have hsame : sendingDest (assembling n o.samples (walkOrder s o) ((walkOrder s o).failed.foldl (failDest n) s)) = sendingDest s := by
    unfold sendingDest timeOfDay; rw [hclock]
  have hfind := beginMembers_find Chan.all (assembling_find (samples := o.samples) (failAll_find (walkOrder s o).failed ho))
    (assembling_membersValid hstore)
  have hany : (Chan.all.any fun c => ((walkOrder s o).members.get c).isSome) = true :=
    List.any_eq_true.mpr ⟨c, chan_mem c, by rw [hm]; rfl⟩
  rw [hsame, hany, Bool.or_true, ← formRound_eq] at hfind
  obtain ⟨d, e, hd, _⟩ := member_spec hm
  have hsending : ∃ x ∈ assembledDests s o, x.state ≠ .final := by
    refine ⟨sendingDest s (assignedOn c d), List.mem_of_getElem? ((assembledDests_get s o i d hd).2.1 c hm), ?_⟩
    simp [sendingDest]
  refine ⟨?_, hfind⟩
  unfold assemble
  rw [if_pos ha, ho]
  dsimp only
  rw [if_neg (fun h => by rw [(no_class_iff s o).mp h c] at hm; cases hm), settleOrder_keeps hfind (.inl hsending)]

/-- The round that forms, its drum and its channels (R31). -/
theorem formRound_formed {s : State} {n : Nat} {o : Order} (ho : findOrder s n = some o) :
    let v := formRound n o.samples (walkOrder s o) ((walkOrder s o).failed.foldl (failDest n) s)
    Moves [.book, .filing, .round, .drum, .head, .channels] s v ∧
      v.filing = s.filing ++ (walkOrder s o).failed.map (fun i => { order := n, dest := i, channel := none }) ∧
      v.round = { state := .assembling, order := some n, drumClass := some (highestClass (walkOrder s o).classes),
                  members := (walkOrder s o).members, scanComplete := false, samples := o.samples } ∧
      v.head = { s.head with held := 0 } ∧ v.drum = (spinCommand (highestClass (walkOrder s o).classes) s).drum ∧
      (∀ c i, (walkOrder s o).members.get c = some i → CallBegun s n i c v) ∧
      ∀ c, (walkOrder s o).members.get c = none → v.channels.get c = s.channels.get c := by
  have hfail := foldl_failDest_moves n (walkOrder s o).failed s
  generalize hs1 : (walkOrder s o).failed.foldl (failDest n) s = s1 at hfail
  have hassigned := assigned_moves n (walkOrder s o).members s1
  have hmid := assembling_moves n o.samples (walkOrder s o) s1
  have hbegin := beginMembers_moves n (walkOrder s o).members Chan.all (assembling n o.samples (walkOrder s o) s1)
  have hstore : s1.store = s.store := hfail .store (by decide)
  obtain ⟨begun, stay⟩ := beginMembers_channels Chan.all
    (assembling_find (samples := o.samples) (w := walkOrder s o) (hs1 ▸ failAll_find (walkOrder s o).failed ho))
    (assembling_membersValid hstore) chan_nodup
  rw [formRound_eq]
  refine ⟨(hfail.within.also hmid).also hbegin, ?_, ?_, ?_, ?_, fun c i hi => ?_, fun c hc => ?_⟩
  · rw [hbegin .filing (by decide), hmid .filing (by decide), ← hs1, failAll_filing]
  · rw [hbegin .round (by decide)]; exact spinCommand_moves _ _ .round (by decide)
  · rw [hbegin .head (by decide), show (assembling n o.samples (walkOrder s o) s1).head = _ from spinCommand_moves _ _ .head (by decide),
      ← (hfail .head (by decide) : s1.head = s.head), ← (hassigned .head (by decide) : _ = s1.head)]
  · rw [hbegin .drum (by decide)]
    exact spinCommand_drum_congr _ ((hassigned .drum (by decide)).trans (hfail .drum (by decide)))
      ((hassigned .now (by decide)).trans (hfail .now (by decide)))
  · have := begun c (chan_mem c) i hi
    unfold CallBegun at this ⊢
    rw [hmid .store (by decide), hstore] at this
    exact this
  · rw [stay c (.inr hc), hmid .channels (by decide), hfail .channels (by decide)]

/-- A destination of the walk is passed over or fails only as R28 and R30 say. -/
theorem walk_passes_or_fails (s : State) (o : Order) (i : Nat) (d : Destination) (hd : o.dests[i]? = some d) (hr : d.state = .ready) :
    ((∀ c, (walkOrder s o).members.get c ≠ some i) → i ∉ (walkOrder s o).failed → PassedOver s (walkOrder s o) i d) ∧
      (i ∈ (walkOrder s o).failed → FailsRecheck s o (walkOrder s o) i d) := by
  have hle := dest_le hd
  have free : (walkTo s o i).classes.length < 4 → ∃ c, ∀ j, j < i → (walkOrder s o).members.get c ≠ some j := by
    intro h
    rw [walkTo_count, memberCount_lt] at h
    obtain ⟨c, hc⟩ := h
    exact ⟨c, (free_before hle).mp hc⟩
  constructor
  · intro hm hf
    by_cases hroom : (walkTo s o i).classes.length < 4
    · right
      have hj := verdictAt_judged ⟨hr, hroom⟩
      cases hv : verdictAt s o i d with
      | passOver =>
        rw [hv] at hj
        obtain ⟨e, he, hall⟩ := hj
        exact ⟨e, he, fun c hc => unavailable_before hle (hall c hc)⟩
      | fail => exact absurd (failed_iff.mpr ⟨d, hd, hv⟩) hf
      | assign c k => exact absurd (member_iff.mpr ⟨d, k, hd, hv⟩) (hm c)
    · left
      intro c
      rw [walkTo_count, memberCount_lt] at hroom
      cases hc : (walkTo s o i).members.get c with
      | none => exact absurd ⟨c, hc⟩ hroom
      | some j => exact ⟨j, (taken_before hle).mp hc⟩
  · intro hf
    obtain ⟨d', hd', _, hroom, hfails⟩ := failed_spec hf
    obtain rfl : d = d' := Option.some.inj (hd.symm.trans hd')
    refine ⟨free hroom, hfails.imp_right ?_⟩
    rintro ⟨e, c, he, ha, hk⟩
    obtain ⟨hidle, hfree⟩ := (available_iff _ _ _).mp ha
    exact ⟨e, c, he, hidle, (free_before hle).mp hfree, hk⟩

/-- A member of the walk, its entry and its channel (R28, R29). -/
theorem walk_members (s : State) (o : Order) (c : Chan) (i : Nat) (h : (walkOrder s o).members.get c = some i) :
    (s.channels.get c).state = .idle ∧
      ∃ d e, o.dests[i]? = some d ∧ d.state = .ready ∧ readEntry s.store d.entry = .valid e ∧ compatible o.ioc o.samples e = true ∧
        ((e.kind = .leased c ∧ (readSettings s.store).config.get c = .leased d.entry) ∨
          (e.kind = .dialled ∧ (readSettings s.store).config.get c = .dialled ∧
            ∀ b : Chan, b.number < c.number → (readSettings s.store).config.get b = .dialled →
              (s.channels.get b).state = .idle → ∃ j, j < i ∧ (walkOrder s o).members.get b = some j)) := by
  obtain ⟨d, e, hd, hr, he, hcomp, ha, hk⟩ := member_spec h
  refine ⟨((available_iff _ _ _).mp ha).1, d, e, hd, hr, he, hcomp, hk.imp_right ?_⟩
  rintro ⟨hkind, hcfg, hfirst⟩
  exact ⟨hkind, hcfg, fun b hb hcb hidle => (unavailable_before (dest_le hd) (hfirst b hb hcb)).resolve_left (not_not_intro hidle)⟩

/-- The class of the round is the highest among those of its members' entries (R31). -/
theorem highestClass_members (s : State) (o : Order) :
    ((∃ c, (walkOrder s o).members.get c ≠ none) → ∃ c i d e, (walkOrder s o).members.get c = some i ∧ o.dests[i]? = some d ∧
      readEntry s.store d.entry = .valid e ∧ e.lpm = highestClass (walkOrder s o).classes) ∧
    ∀ c i d e, (walkOrder s o).members.get c = some i → o.dests[i]? = some d → readEntry s.store d.entry = .valid e →
      e.lpm.lpm ≤ (highestClass (walkOrder s o).classes).lpm := by
  constructor
  · rintro ⟨c, hc⟩
    have hne : (walkOrder s o).classes ≠ [] := fun h => hc ((no_class_iff s o).mp h c)
    obtain ⟨i, d, b, hd, hv⟩ := class_iff.mp (highestClass_mem hne)
    obtain ⟨_, e, hk, he, _⟩ := verdictAt_assign hv
    exact ⟨b, i, d, e, member_iff.mpr ⟨d, _, hd, hv⟩, hd, he, hk⟩
  · intro c i d e hc hd he
    obtain ⟨d', k, hd', hv⟩ := member_iff.mp hc
    obtain rfl : d = d' := Option.some.inj (hd.symm.trans hd')
    obtain ⟨_, e', hk, he', _⟩ := verdictAt_assign hv
    obtain rfl : e = e' := by simpa using he.symm.trans he'
    exact le_highestClass (class_iff.mpr ⟨i, d, c, hd, hk ▸ hv⟩)

/-- Settles O20: the members of the walk, the destinations it passes over or fails, and what assembly makes of it. -/
theorem walkAssignsEligibleChannels : Obligations.WalkAssignsEligibleChannels := by
  unfold Obligations.WalkAssignsEligibleChannels
  refine ⟨?_, ?_, ?_⟩
  · rintro s o w rfl
    refine ⟨walk_members s o, fun b c i hb hc => member_injective hb hc, ?_, ?_, fun i hi => ⟨failed_not_member hi, ?_⟩⟩
    · rw [walkOrder_eq, walkTo_count]; exact List.countP_le_length
    · rw [walkOrder_eq]; exact walkTo_failed_nodup s o _
    · obtain ⟨d, hd, hr, _⟩ := failed_spec hi
      exact ⟨d, hd, hr⟩
  · rintro s o w i d rfl hd hr
    exact walk_passes_or_fails s o i d hd hr
  · rintro s n o w v again ho rfl hv
    refine ⟨fun hnot => ?_, fun h1 h2 h3 h4 h5 => ?_⟩
    · rw [assemble, if_neg (mt (assemblyAllowed_iff s).mp hnot)] at hv
      cases hv; exact ⟨rfl, rfl⟩
    · have ha : assemblyAllowed s = true := (assemblyAllowed_iff s).mpr ⟨h1, h2, h3, h4, h5⟩
      have dests : ∀ x, findOrder v n = some x → x.dests = assembledDests s o → ∀ i d, o.dests[i]? = some d →
          (i ∈ (walkOrder s o).failed → ∃ x, findDest v n i = some x ∧ MadeIncompatible s d x) ∧
          (∀ c, (walkOrder s o).members.get c = some i → ∃ x, findDest v n i = some x ∧ SendingOn c s d x) ∧
          (i ∉ (walkOrder s o).failed → (∀ c, (walkOrder s o).members.get c ≠ some i) → findDest v n i = some d) := by
        intro x hx hds i d hd
        obtain ⟨k1, k2, k3⟩ := assembledDests_get s o i d hd
        rw [← hds] at k1 k2 k3
        exact ⟨fun hf => ⟨_, findDest_of_find hx (k1 hf), rfl⟩, fun c hc => ⟨_, findDest_of_find hx (k2 c hc), rfl⟩,
          fun hf hm => findDest_of_find hx (k3 hf hm)⟩
      by_cases hmem : ∃ c, (walkOrder s o).members.get c ≠ none
      · obtain ⟨c, hc⟩ := hmem
        obtain ⟨i, hi⟩ := Option.ne_none_iff_exists'.mp hc
        obtain ⟨heq, hfind⟩ := assemble_forms ha ho hi
        obtain ⟨moves, filing, round, head, drum, begun, stay⟩ := formRound_formed ho
        obtain ⟨highest, le⟩ := highestClass_members s o
        rw [heq] at hv
        cases hv
        exact ⟨filing, dests _ hfind rfl, fun h => absurd (h c) hc, fun hsome => ⟨rfl, moves, _, round, highest hsome, le, head, drum, begun,
          stay, _, hfind, rfl, rfl⟩⟩
      · have hnobody : ∀ c, (walkOrder s o).members.get c = none := fun c => by
          exact Classical.byContradiction fun h => hmem ⟨c, h⟩
        obtain ⟨hagain, moves, filing, hfind⟩ := assemble_nobody ha ho hnobody
        rw [hv] at hagain moves filing hfind
        exact ⟨filing, dests _ hfind rfl, fun _ => ⟨hagain, moves, _, hfind, rfl, rfl⟩, fun h => absurd h hmem⟩

end Sys2Proof.Machine
end

section
/-! PROOF. The selection (O17): the choice by the four steps of R16, and the end of a step in which an event of R15 was met. -/

namespace Sys2Proof.Machine

/-! ### The choice (R16) -/

theorem isCandidate_iff (o : Order) : isCandidate o = true ↔ Candidate o := by
  simp [isCandidate, Candidate, or_assoc]

theorem ahead_iff (a b : Order) : ahead a b = true ↔
    a.priority.rank < b.priority.rank ∨ (a.priority.rank = b.priority.rank ∧ a.sequence ≤ b.sequence) := by
  simp [ahead]

theorem firstOrder_eq_none_iff {os : List Order} : firstOrder os = none ↔ os = [] := by
  cases os with
  | nil => simp [firstOrder]
  | cons o rest =>
    simp only [firstOrder, reduceCtorEq, iff_false]
    split
    · simp
    · split <;> simp

/-- The first order in selection order is ahead of every one (1.1, R16 step 4). -/
theorem firstOrder_first : ∀ {os : List Order} {b : Order}, firstOrder os = some b → b ∈ os ∧ ∀ x ∈ os, ahead b x = true
  | [], _, h => by cases h
  | o :: rest, b, h => by
    have self : ∀ a : Order, ahead a a = true := fun a => (ahead_iff a a).mpr (.inr ⟨rfl, Nat.le_refl _⟩)
    rw [firstOrder] at h
    split at h
    · rename_i hrest
      cases h
      rw [firstOrder_eq_none_iff.mp hrest]
      exact ⟨List.mem_cons_self, fun x hx => by rw [List.mem_singleton.mp hx]; exact self _⟩
    · rename_i r hrest
      obtain ⟨hmem, hall⟩ := firstOrder_first hrest
      split at h
      · rename_i hfirst
        cases h
        refine ⟨List.mem_cons_self, fun x hx => ?_⟩
        rcases List.mem_cons.mp hx with rfl | hx
        · exact self _
        · have := hall x hx
          rw [ahead_iff] at *
          omega
      · rename_i hfirst
        cases h
        refine ⟨List.mem_cons_of_mem _ hmem, fun x hx => ?_⟩
        rcases List.mem_cons.mp hx with rfl | hx
        · rw [ahead_iff] at *
          omega
        · exact hall x hx

theorem mem_candidates {s : State} {o : Order} : o ∈ s.book.orders.filter isCandidate ↔ o ∈ s.book.orders ∧ Candidate o := by
  rw [List.mem_filter, isCandidate_iff]

/-- The outcomes of the choice (R16): the order ON DRUM unless `best` is of higher priority, or one of the mounted tag, or `best`. -/
inductive Chosen (s : State) (best o : Order) : Prop where
  | onDrum (h : o.state = .onDrum) (hp : o.priority.rank ≤ best.priority.rank)
  | mounted (t : Nat) (hm : s.mount = .mounted t) (hp : o.priority = best.priority) (ht : o.tag = t)
      (hfirst : ∀ x ∈ s.book.orders, Candidate x → x.priority = best.priority → x.tag = t → ahead o x = true)
      (hd : ∀ x ∈ s.book.orders, Candidate x → x.state = .onDrum → best.priority.rank < x.priority.rank)
  | best (ho : o = best) (hm : ∀ t, s.mount = .mounted t → ∀ x ∈ s.book.orders, Candidate x → x.priority = best.priority → x.tag ≠ t)
      (hd : ∀ x ∈ s.book.orders, Candidate x → x.state = .onDrum → best.priority.rank < x.priority.rank)

theorem chooseOrder_chosen {s : State} {o : Order} (h : chooseOrder s = some o) :
    ∃ best, (best ∈ s.book.orders ∧ Candidate best) ∧ (∀ x ∈ s.book.orders, Candidate x → ahead best x = true) ∧
      (o ∈ s.book.orders ∧ Candidate o) ∧ Chosen s best o := by
  unfold chooseOrder at h
  dsimp only at h
  split at h
  · cases h
  · rename_i best hbest
    obtain ⟨hmem, hall⟩ := firstOrder_first hbest
    have hbest := mem_candidates.mp hmem
    refine ⟨best, hbest, fun x hx hc => hall x (mem_candidates.mpr ⟨hx, hc⟩), ?_⟩
    split at h
    · rename_i d hd
      cases h
      have hp := List.find?_some hd
      simp only [Bool.and_eq_true, beq_iff_eq, decide_eq_true_eq] at hp
      exact ⟨mem_candidates.mp (List.mem_of_find?_eq_some hd), .onDrum hp.1 hp.2⟩
    · rename_i hnone
      have hdrum : ∀ x ∈ s.book.orders, Candidate x → x.state = .onDrum → best.priority.rank < x.priority.rank := by
        intro x hx hc hs
        have := List.find?_eq_none.mp hnone x (mem_candidates.mpr ⟨hx, hc⟩)
        simpa [hs] using this
      split at h
      · rename_i htag
        cases h
        refine ⟨hbest, .best rfl (fun t ht => ?_) hdrum⟩
        rw [mountedTag_eq_some_iff.mpr ht] at htag; cases htag
      · rename_i t htag
        have hmount := mountedTag_eq_some_iff.mp htag
        have inTag : ∀ x, x ∈ (s.book.orders.filter isCandidate).filter (fun o => o.priority == best.priority && o.tag == t) ↔
            (x ∈ s.book.orders ∧ Candidate x) ∧ x.priority = best.priority ∧ x.tag = t := by
          intro x; rw [List.mem_filter, mem_candidates]; simp
        split at h
        · rename_i m hm
          cases h
          obtain ⟨hmem', hall'⟩ := firstOrder_first hm
          obtain ⟨hc, hp, ht⟩ := (inTag _).mp hmem'
          exact ⟨hc, .mounted t hmount hp ht (fun x hx hcx hpx htx => hall' x ((inTag x).mpr ⟨⟨hx, hcx⟩, hpx, htx⟩)) hdrum⟩
        · rename_i hm
          cases h
          refine ⟨hbest, .best rfl (fun t' ht' x hx hcx hpx htx => ?_) hdrum⟩
          obtain rfl : t = t' := by simpa [hmount] using ht'
          have := (inTag x).mpr ⟨⟨hx, hcx⟩, hpx, htx⟩
          rw [firstOrder_eq_none_iff.mp hm] at this
          exact List.not_mem_nil this

theorem chooseOrder_eq_none_iff (s : State) : chooseOrder s = none ↔ ∀ o ∈ s.book.orders, ¬ Candidate o := by
  constructor
  · intro h o ho hc
    have hne : firstOrder (s.book.orders.filter isCandidate) ≠ none := fun hn => by
      have := mem_candidates.mpr ⟨ho, hc⟩
      rw [firstOrder_eq_none_iff.mp hn] at this
      exact List.not_mem_nil this
    unfold chooseOrder at h
    dsimp only at h
    split at h
    · rename_i hn; exact hne hn
    · split at h
      · cases h
      · split at h
        · cases h
        · split at h <;> cases h
  · intro h
    refine Classical.byContradiction fun hn => ?_
    obtain ⟨o, ho⟩ := Option.ne_none_iff_exists'.mp hn
    obtain ⟨_, _, _, ⟨hmem, hc⟩, _⟩ := chooseOrder_chosen ho
    exact h o hmem hc

theorem chooseOrder_four_steps {s : State} {o : Order} (h : chooseOrder s = some o)
    (hone : ∀ a ∈ s.book.orders, ∀ b ∈ s.book.orders, a.state = .onDrum → b.state = .onDrum → a = b) :
    ∀ x ∈ s.book.orders, Candidate x → o.priority.rank ≤ x.priority.rank ∧
      (x.priority = o.priority → (x.state = .onDrum → x = o) ∧
        (o.state ≠ .onDrum → (∀ t, s.mount = .mounted t → x.tag = t → o.tag = t) ∧
          ((∀ t, s.mount = .mounted t → o.tag = t → x.tag = t) → o.sequence ≤ x.sequence))) := by
  obtain ⟨best, _, hbest, ⟨hmem, _⟩, hchosen⟩ := chooseOrder_chosen h
  intro x hx hc
  have hle : best.priority.rank ≤ x.priority.rank := by
    have := (ahead_iff _ _).mp (hbest x hx hc); omega
  cases hchosen with
  | onDrum hs hp => exact ⟨by omega, fun _ => ⟨fun hxs => hone x hx o hmem hxs hs, fun hns => absurd hs hns⟩⟩
  | mounted t hm hp ht hfirst hd =>
    refine ⟨by rw [hp]; exact hle, fun hxp => ⟨fun hxs => ?_, fun _ => ⟨fun t' ht' _ => ?_, fun htag => ?_⟩⟩⟩
    · have := hd x hx hc hxs; rw [hxp, hp] at this; omega
    · rw [hm] at ht'; cases ht'; exact ht
    · have := (ahead_iff _ _).mp (hfirst x hx hc (hxp.trans hp) (htag t hm ht))
      rw [hxp] at this; omega
  | best ho hm hd =>
    subst ho
    refine ⟨hle, fun hxp => ⟨fun hxs => ?_, fun _ => ⟨fun t ht hxt => absurd hxt (hm t ht x hx hc hxp), fun _ => ?_⟩⟩⟩
    · have := hd x hx hc hxs; rw [hxp] at this; omega
    · have := (ahead_iff _ _).mp (hbest x hx hc)
      rw [hxp] at this; omega

/-! ### The READY destinations of the book -/

/-- Sums of numbers that do not rise, and that fall where one of them does. -/
theorem sum_map_le {α : Type} {f g : α → Nat} (hle : ∀ x, f x ≤ g x) : ∀ xs : List α, (xs.map f).sum ≤ (xs.map g).sum ∧
    ∀ x ∈ xs, f x < g x → (xs.map f).sum < (xs.map g).sum
  | [] => ⟨Nat.le_refl _, fun _ hx => absurd hx List.not_mem_nil⟩
  | y :: ys => by
    obtain ⟨le, lt⟩ := sum_map_le hle ys
    have first := hle y
    simp only [List.map_cons, List.sum_cons]
    refine ⟨by omega, fun x hx hlt => ?_⟩
    rcases List.mem_cons.mp hx with rfl | hx
    · omega
    · have := lt x hx hlt
      omega

theorem sum_map_filter_le {α : Type} (f : α → Nat) (p : α → Bool) (xs : List α) : ((xs.filter p).map f).sum ≤ (xs.map f).sum := by
  induction xs with
  | nil => exact Nat.le_refl _
  | cons x xs ih =>
    rw [List.filter_cons]
    split <;> simp only [List.map_cons, List.sum_cons] <;> omega

/-- The READY destinations of an order. -/
def readyDests (ds : List Destination) : Nat := (ds.filter fun d => d.state == .ready).length

theorem readyCount_eq (s : State) : readyCount s = (s.book.orders.map fun o => readyDests o.dests).sum := by
  rw [List.sum_eq_foldl]; rfl

theorem readyCount_congr {s t : State} (h : t.book.orders.map Order.dests = s.book.orders.map Order.dests) :
    readyCount t = readyCount s := by
  have e : ∀ os : List Order, (os.map fun o => readyDests o.dests) = (os.map Order.dests).map readyDests := fun os => by
    rw [List.map_map]; rfl
  rw [readyCount_eq, readyCount_eq, e, e, h]

theorem readyDests_cons (d : Destination) (ds : List Destination) :
    readyDests (d :: ds) = (if d.state = .ready then 1 else 0) + readyDests ds := by
  unfold readyDests
  rw [List.filter_cons]
  by_cases h : d.state = .ready
  · simp [h, Nat.add_comm]
  · simp [h]

/-- A destination made FINAL is READY no more. -/
theorem readyDests_modify {f : Destination → Destination} (hf : ∀ d, (f d).state = .final) : ∀ (i : Nat) (ds : List Destination),
    readyDests (ds.modify i f) ≤ readyDests ds ∧
      ∀ d, ds[i]? = some d → d.state = .ready → readyDests (ds.modify i f) < readyDests ds
  | _, [] => by simp
  | 0, d :: ds => by
    rw [List.modify_zero_cons, readyDests_cons, readyDests_cons, if_neg (by rw [hf]; decide)]
    exact ⟨by omega, fun e he hr => by cases he; rw [if_pos hr]; omega⟩
  | i + 1, d :: ds => by
    rw [List.modify_succ_cons, readyDests_cons, readyDests_cons]
    obtain ⟨h1, h2⟩ := readyDests_modify hf i ds
    refine ⟨by omega, fun e he hr => ?_⟩
    have := h2 e (by simpa using he) hr
    omega

theorem readyCount_failDest (n i : Nat) (s : State) : readyCount (failDest n s i) ≤ readyCount s ∧
    ∀ o d, findOrder s n = some o → o.dests[i]? = some d → d.state = .ready → readyCount (failDest n s i) < readyCount s := by
  have hbook : (failDest n s i).book.orders.map (fun o => readyDests o.dests) =
      s.book.orders.map fun o => readyDests (if o.number = n then o.dests.modify i (failedDest s) else o.dests) := by
    show (s.book.orders.map _).map _ = _
    rw [List.map_map]
    refine List.map_congr_left fun o _ => ?_
    show readyDests (if o.number = n then _ else o).dests = _
    split <;> rfl
  have hle : ∀ o : Order, readyDests (if o.number = n then o.dests.modify i (failedDest s) else o.dests) ≤ readyDests o.dests := by
    intro o; split
    · exact (readyDests_modify (fun _ => rfl) i o.dests).1
    · exact Nat.le_refl _
  rw [readyCount_eq, readyCount_eq, hbook]
  obtain ⟨le, lt⟩ := sum_map_le (f := fun o : Order => readyDests (if o.number = n then o.dests.modify i (failedDest s) else o.dests)) hle
    s.book.orders
  refine ⟨le, fun o d ho hd hr => lt o (findOrder_mem ho) ?_⟩
  rw [if_pos (findOrder_number ho)]
  exact (readyDests_modify (fun _ => rfl) i o.dests).2 d hd hr

theorem readyCount_failAll (n : Nat) : ∀ (is : List Nat) (s : State), readyCount (is.foldl (failDest n) s) ≤ readyCount s
  | [], _ => Nat.le_refl _
  | i :: is, s => Nat.le_trans (readyCount_failAll n is _) (readyCount_failDest n i s).1

theorem readyCount_leaveBook (n : Nat) (s : State) : readyCount (leaveBook n s) ≤ readyCount s := by
  rw [readyCount_eq, readyCount_eq]
  exact sum_map_filter_le _ _ _

theorem readyCount_setOrderState (n : Nat) (st : OrderState) (s : State) : readyCount (setOrderState n st s) = readyCount s := by
  refine readyCount_congr ?_
  show (s.book.orders.map _).map _ = _
  rw [List.map_map]
  refine List.map_congr_left fun o _ => ?_
  show (if o.number = n then _ else o).dests = _
  split <;> rfl

theorem readyCount_moveOrders (a b : OrderState) (s : State) : readyCount (moveOrders a b s) = readyCount s := by
  refine readyCount_congr ?_
  show (s.book.orders.map _).map _ = _
  rw [List.map_map]
  refine List.map_congr_left fun o _ => ?_
  show (if o.state = a then _ else o).dests = _
  split <;> rfl

theorem readyCount_settleOrder (n : Nat) (s : State) : readyCount (settleOrder n s) ≤ readyCount s := by
  unfold settleOrder
  split
  · exact Nat.le_refl _
  · split
    · unfold finishOrder
      split
      · exact Nat.le_of_eq (readyCount_setOrderState _ _ _)
      · exact readyCount_leaveBook _ _
    · exact Nat.le_refl _

/-- A walk that calls for a fresh selection has taken a READY destination away (R31). -/
theorem assemble_again {n : Nat} {s v : State} (h : assemble n s = (v, true)) :
    assemblyAllowed s = true ∧ readyCount v < readyCount s := by
  unfold assemble at h
  split at h
  · rename_i ha
    refine ⟨ha, ?_⟩
    split at h
    · cases h
    · rename_i o ho
      dsimp only at h
      split at h
      · split at h
        · cases h
        · rename_i hf
          cases h
          obtain ⟨i, rest, hcons⟩ := List.exists_cons_of_ne_nil hf
          obtain ⟨d, hd, hr, _⟩ := failed_spec (i := i) (s := s) (o := o) (by rw [hcons]; exact List.mem_cons_self)
          refine Nat.lt_of_le_of_lt (readyCount_settleOrder _ _) ?_
          rw [hcons, List.foldl_cons]
          exact Nat.lt_of_le_of_lt (readyCount_failAll n rest _) ((readyCount_failDest n i s).2 o d ho hd hr)
      · cases h
  · cases h

/-! ### The end of a step (R15) -/

theorem actOnChoice_moves_few (o : Order) (s : State) : Moves [.links, .book, .drum, .mount] s (actOnChoice o s).1 := by
  unfold actOnChoice; split
  · exact Moves.refl _ _
  · split
    · exact ((moveOrders_moves _ _ _).trans (setOrderState_moves _ _ _)).within
    · split
      · exact Moves.refl _ _
      · exact (((moveOrders_moves _ _ _).trans (moveOrders_moves _ _ _)).trans (setOrderState_moves _ _ _)).within.also
          (requestMount_moves _ _ _)

theorem readyCount_actOnChoice {o : Order} {s u : State} (h : actOnChoice o s = (u, true)) : readyCount u = readyCount s := by
  unfold actOnChoice at h
  split at h
  · cases h; rfl
  · split at h
    · cases h; rw [readyCount_setOrderState, readyCount_moveOrders]
    · split at h <;> cases h

theorem selectOrder_none {fuel : Nat} {s : State} (h : chooseOrder s = none) : selectOrder fuel s = s := by
  cases fuel with
  | zero => rfl
  | succ n => rw [selectOrder, h]

theorem selectOrder_waits {fuel : Nat} {s u : State} {o : Order} (h : chooseOrder s = some o) (ha : actOnChoice o s = (u, false)) :
    selectOrder (fuel + 1) s = u := by
  rw [selectOrder, h]; dsimp only; rw [ha]; rfl

theorem selectOrder_assembles {fuel : Nat} {s u v : State} {o : Order} (h : chooseOrder s = some o) (ha : actOnChoice o s = (u, true))
    {again : Bool} (hv : assemble o.number u = (v, again)) :
    selectOrder (fuel + 1) s = if again then selectOrder fuel v else v := by
  rw [selectOrder, h]; dsimp only; rw [ha]; dsimp only; rw [hv]; rfl

/-- More fuel than READY destinations makes no difference, since each fresh selection follows a destination made FINAL. -/
theorem selectOrder_fuel (fuel : Nat) : ∀ s : State, readyCount s < fuel → selectOrder fuel s = selectOrder (readyCount s + 1) s := by
  induction fuel using Nat.strongRecOn with
  | _ fuel ih =>
    intro s hlt
    obtain ⟨f, rfl⟩ : ∃ f, fuel = f + 1 := ⟨fuel - 1, by omega⟩
    cases hc : chooseOrder s with
    | none => rw [selectOrder_none hc, selectOrder_none hc]
    | some o =>
      rcases ha : actOnChoice o s with ⟨u, onDrum⟩
      cases onDrum with
      | false => rw [selectOrder_waits hc ha, selectOrder_waits hc ha]
      | true =>
        rcases hv : assemble o.number u with ⟨v, again⟩
        rw [selectOrder_assembles hc ha hv, selectOrder_assembles hc ha hv]
        cases again with
        | false => rfl
        | true =>
          have hless := (assemble_again hv).2
          rw [readyCount_actOnChoice ha] at hless
          simp only [if_true]
          rw [ih f (by omega) v (by omega), ih (readyCount s) (by omega) v (by omega)]

theorem drumFree_iff (s : State) : drumFree s = true ↔ s.round.state = .closed ∧ s.head.state = .home := by simp [drumFree]

theorem finishStep_due {s : State} (h : s.selectDue = true) (hf : drumFree s = true) :
    finishStep s = { selectOrder (readyCount s + 1) s with selectDue := false } := by
  simp [finishStep, h, hf]

theorem settleOrder_due {n : Nat} {s : State} (h : s.selectDue = true) : (settleOrder n s).selectDue = true := by
  unfold settleOrder
  split
  · exact h
  · split
    · unfold finishOrder; split
      · exact h
      · rfl
    · exact h

/-- A walk that formed no round leaves the drum as free as it was, and the flag set (R31). -/
theorem assemble_again_due {n : Nat} {s v : State} (h : assemble n s = (v, true)) (hd : s.selectDue = true) :
    v.selectDue = true ∧ drumFree v = drumFree s := by
  unfold assemble at h
  split at h
  · split at h
    · cases h
    · dsimp only at h
      split at h
      · split at h
        · cases h
        · cases h
          rename_i o _ _ _
          have hfail := foldl_failDest_moves n (walkOrder s o).failed s
          have hsettle := settleOrder_moves n ((walkOrder s o).failed.foldl (failDest n) s)
          refine ⟨settleOrder_due ((hfail .selectDue (by decide)).trans hd), ?_⟩
          unfold drumFree
          rw [hsettle .round (by decide), hsettle .head (by decide), hfail .round (by decide), hfail .head (by decide)]
      · cases h
  · cases h

/-- Settles O17: when a selection is made, what it chooses, and what follows. -/
theorem selectionFollowsTheFourSteps : Obligations.SelectionFollowsTheFourSteps := by
  unfold Obligations.SelectionFollowsTheFourSteps
  refine ⟨fun s h => ?_, fun s o h hone => ?_, fun s => ⟨chooseOrder_eq_none_iff s, fun hdue h1 h2 => ?_⟩⟩
  · have : (s.selectDue && drumFree s) = false := by
      rw [Bool.and_eq_false_iff, ← Bool.not_eq_true, ← Bool.not_eq_true, drumFree_iff]
      rcases h with h | h | h
      · exact .inr fun k => h k.1
      · exact .inr fun k => h k.2
      · exact .inl (by simp [h])
    unfold finishStep
    rw [this]; rfl
  · obtain ⟨_, _, _, ⟨hmem, hstate, hready⟩, _⟩ := chooseOrder_chosen h
    exact ⟨hmem, hstate, hready, fun x hx hxs hxr => chooseOrder_four_steps h hone x hx ⟨hxs, hxr⟩⟩
  · have hfree := (drumFree_iff s).mpr ⟨h1, h2⟩
    have hend := finishStep_due hdue hfree
    refine ⟨fun hnone => by rw [hend, selectOrder_none hnone], fun o u hc => ⟨fun ha => by rw [hend, selectOrder_waits hc ha],
      fun ha v => ⟨fun hv => by rw [hend, selectOrder_assembles hc ha hv]; rfl, fun hv => ?_⟩⟩⟩
    have hact := actOnChoice_moves_few o s
    rw [ha] at hact
    have hudue : u.selectDue = true := (hact .selectDue (by decide)).trans hdue
    have hufree : drumFree u = true := (drumFree_iff u).mpr
      ⟨by rw [hact .round (by decide), h1], by rw [hact .head (by decide), h2]⟩
    obtain ⟨hvdue, hvfree⟩ := assemble_again_due hv hudue
    have hless := (assemble_again hv).2
    rw [readyCount_actOnChoice ha] at hless
    have hsame : ({ v with selectDue := true } : State) = v := by cases v; simp_all
    rw [hsame, finishStep_due hvdue (hvfree.trans hufree), hend, selectOrder_assembles hc ha hv, if_pos rfl,
      selectOrder_fuel _ v hless]

end Sys2Proof.Machine
end

section
/-! PROOF. The start condition of a scan (O22), and a member that leaves the round (O23). -/

namespace Sys2Proof.Machine

/-! ### The start condition (R32) -/

theorem membersPhased_iff (s : State) :
    membersPhased s = true ↔ ∀ c, s.round.members.get c ≠ none → (s.channels.get c).state = .phased := by
  simp only [membersPhased, List.all_eq_true, Bool.or_eq_true, Option.isNone_iff_eq_none, beq_iff_eq]
  exact ⟨fun h c hc => (h c (chan_mem c)).resolve_left hc, fun h c _ => Classical.or_iff_not_imp_left.mpr (h c)⟩

/-- The drum LOCKED at the class of an ASSEMBLING round whose members are PHASED (R32). -/
def StartMet (s : State) : Prop :=
  s.round.state = .assembling ∧ s.drum.state = .locked ∧ s.drum.target = s.round.drumClass ∧
    ∀ c, s.round.members.get c ≠ none → (s.channels.get c).state = .phased

theorem testStart_starts {s : State} (hm : noMembers s.round = false) (h : StartMet s) : testStart s = startScanning s := by
  obtain ⟨h1, h2, h3, h4⟩ := h
  unfold testStart
  rw [if_pos (by simp [h1, h2, h3, hm, (membersPhased_iff s).mpr h4])]

theorem testStart_waits {s : State} (h : ¬ StartMet s) : testStart s = s := by
  unfold testStart
  rw [if_neg]
  intro k
  simp only [Bool.and_eq_true, beq_iff_eq, membersPhased_iff] at k
  obtain ⟨⟨⟨⟨k1, k2⟩, k3⟩, k4⟩, _⟩ := k
  exact h ⟨k1, k2, k3, k4⟩

/-- Settles O22: the start condition, and what a round that starts to scan prepares. -/
theorem scanningStartsWhenTheDrumAndAllMembersAreReady : Obligations.ScanningStartsWhenTheDrumAndAllMembersAreReady := by
  unfold Obligations.ScanningStartsWhenTheDrumAndAllMembersAreReady
  intro s hm
  constructor
  · intro h1 h2 h3 h4
    refine ⟨_, testStart_starts hm ⟨h1, h2, h3, h4⟩, rfl, rfl, rfl, rfl, rfl, rfl, rfl, rfl, fun n o hn ho => ?_, startScanning_moves s⟩
    have : roundOrder s = some o := by unfold roundOrder; rw [hn]; exact ho
    simp [startScanning, this]
  · intro h
    refine testStart_waits fun ⟨k1, k2, k3, k4⟩ => ?_
    rcases h with h | h | h | ⟨c, hc, hs⟩
    · exact h k1
    · exact h k2
    · exact h k3
    · exact hs (k4 c hc)

/-! ### A member leaves (R33, R35, R36) -/

/-- The state as a member has just left: no longer a member, its marks gone (R33, R92). -/
def memberLeft (c : Chan) (s : State) : State :=
  { s with round := { s.round with members := s.round.members.set c none }, lineStore := releaseAll c s.lineStore }

theorem leaveRound_eq {c : Chan} {i : Nat} {s : State} (h : s.round.members.get c = some i) :
    leaveRound c s = afterLeaving (memberLeft c s) := by
  unfold leaveRound
  rw [if_pos (by rw [h]; rfl)]
  rfl

theorem noMembers_memberLeft (c : Chan) (s : State) :
    noMembers (memberLeft c s).round = true ↔ ∀ d, d ≠ c → s.round.members.get d = none := by
  rw [noMembers_iff]
  refine forall_congr' fun d => ?_
  by_cases h : d = c
  · subst h; simp [memberLeft]
  · simp [memberLeft, h, PerChan.get_set_ne]

theorem cutScanShort_round (s : State) : (cutScanShort s).round = { s.round with state := .draining } :=
  commandReturn_moves _ .round (by decide)

theorem cutScanShort_lineStore (s : State) : (cutScanShort s).lineStore = flushLines s.lineStore :=
  commandReturn_moves _ .lineStore (by decide)

theorem cutScanShort_head (s : State) : (cutScanShort s).head =
    if s.head.state = .scanning ∨ s.head.state = .home then
      if s.pins.home then { s.head with state := .home, position := 0, returnTimer := none }
      else { s.head with state := .returning, returnTimer := some s.now }
    else s.head := commandReturn_head _

theorem drainOut_round (s : State) : (drainOut s).round = s.round := drainOut_moves s .round (by decide)

theorem drainOut_lineStore (s : State) : (drainOut s).lineStore = flushLines s.lineStore := by
  unfold drainOut
  dsimp only
  split
  · exact commandReturn_moves _ .lineStore (by decide)
  · rfl

theorem drainOut_head (s : State) : (drainOut s).head =
    if s.head.state = .scanning then
      if s.pins.home then { s.head with state := .home, position := 0, returnTimer := none }
      else { s.head with state := .returning, returnTimer := some s.now }
    else s.head := by
  unfold drainOut
  dsimp only
  by_cases h : s.head.state = .scanning
  · rw [if_pos (by simpa using h), commandReturn_head, if_pos (.inl h), if_pos h]
  · rw [if_neg (by simpa using h), if_neg h]

/-- A DRAINING round without members, its store flushed and its head commanded home from `s`, before its close is judged. -/
structure Drained (s t : State) : Prop where
  state : t.round.state = .draining
  empty : noMembers t.round = true
  order : t.round.order = s.round.order
  complete : t.round.scanComplete = s.round.scanComplete
  store : t.lineStore.held = [] ∧ t.lineStore.depth = s.lineStore.depth
  moves : Moves [.round, .lineStore, .head, .selectDue] s t

/-- What becomes of a drained round by the head (R36): CLOSED with the head HOME or in FAULT, and otherwise as it is. -/
theorem Drained.closed {s t : State} (h : Drained s t) (hh : t.head.state = .home ∨ t.head.state = .fault) :
    RoundClosed s (closeIfDone t) := by
  rw [closeIfDone_eq, if_pos ⟨h.state, h.empty, hh⟩]
  exact (closeRound_closed t).from h.order (h.moves .book (by decide)) (h.moves .mount (by decide)) (h.moves .drum (by decide))
    (h.moves .now (by decide)) (h.moves .filing (by decide))

/-- With the head away from HOME and not in FAULT the round stays open (R36). -/
theorem closeIfDone_away {t : State} (hh : t.head.state ≠ .home) (hf : t.head.state ≠ .fault) : closeIfDone t = t := by
  rw [closeIfDone_eq, if_neg (by simp [hh, hf])]

/-- The head that was SCANNING is commanded home, at once where its switch is closed (R59). -/
theorem Drained.scanning {s t : State} (h : Drained s t)
    (hh : t.head = if s.pins.home then { s.head with state := .home, position := 0, returnTimer := none }
      else { s.head with state := .returning, returnTimer := some s.now }) :
    HeadCommandedHome s (closeIfDone t) ∧
      (s.pins.home = false → (closeIfDone t).round.state = .draining ∧ (closeIfDone t).round.scanComplete = s.round.scanComplete) ∧
      (s.pins.home = true → RoundClosed s (closeIfDone t)) := by
  have head : (closeIfDone t).head = t.head := closeIfDone_moves t .head (by decide)
  unfold HeadCommandedHome
  rw [head, hh]
  cases hp : s.pins.home with
  | true =>
    rw [hp, if_pos rfl] at hh
    exact ⟨by simp, fun h => by simp at h, fun _ => h.closed (.inl (by rw [hh]))⟩
  | false =>
    rw [hp, if_neg (by simp)] at hh
    refine ⟨by simp, fun _ => ?_, fun h => by simp at h⟩
    rw [closeIfDone_away (by rw [hh]; simp) (by rw [hh]; simp)]
    exact ⟨h.state, h.complete⟩

theorem cutScanShort_drained {c : Chan} {s : State} (hl : ∀ d, d ≠ c → s.round.members.get d = none) :
    Drained s (cutScanShort (memberLeft c s)) where
  state := by rw [cutScanShort_round]
  empty := by
    rw [cutScanShort_round]
    exact (noMembers_memberLeft c s).mpr hl
  order := by rw [cutScanShort_round]; rfl
  complete := by rw [cutScanShort_round]; rfl
  store := by rw [cutScanShort_lineStore]; exact ⟨rfl, rfl⟩
  moves := by
    have h : Moves [.round, .lineStore] s (memberLeft c s) := by
      intro p hp; cases p <;> first | rfl | exact absurd (by decide) hp
    exact h.within.also (cutScanShort_moves _)

theorem drainOut_drained {c : Chan} {s : State} (hs : s.round.state = .draining) (hl : ∀ d, d ≠ c → s.round.members.get d = none) :
    Drained s (drainOut (memberLeft c s)) where
  state := by rw [drainOut_round]; exact hs
  empty := by rw [drainOut_round]; exact (noMembers_memberLeft c s).mpr hl
  order := by rw [drainOut_round]; rfl
  complete := by rw [drainOut_round]; rfl
  store := by rw [drainOut_lineStore]; exact ⟨rfl, rfl⟩
  moves := by
    have h : Moves [.round, .lineStore] s (memberLeft c s) := by
      intro p hp; cases p <;> first | rfl | exact absurd (by decide) hp
    exact h.within.also (drainOut_moves _)

theorem closeIfDone_lineStore (s : State) : (closeIfDone s).lineStore = s.lineStore := closeIfDone_moves s .lineStore (by decide)

theorem closeIfDone_head (s : State) : (closeIfDone s).head = s.head := closeIfDone_moves s .head (by decide)

/-- While members remain only an ASSEMBLING round is tested (R32). -/
theorem afterLeaving_others {c : Chan} {s : State} (h : ∃ d, d ≠ c ∧ s.round.members.get d ≠ none) :
    (s.round.state = .assembling → afterLeaving (memberLeft c s) = testStart (memberLeft c s)) ∧
      (s.round.state = .scanning ∨ s.round.state = .draining → afterLeaving (memberLeft c s) = memberLeft c s) := by
  have hm : ¬ noMembers (memberLeft c s).round = true := fun k => by
    obtain ⟨d, hd, hn⟩ := h
    exact hn ((noMembers_memberLeft c s).mp k d hd)
  have hr : (memberLeft c s).round.state = s.round.state := rfl
  unfold afterLeaving
  refine ⟨fun hs => ?_, ?_⟩
  · rw [hr, hs]; exact if_neg hm
  · rintro (hs | hs) <;> rw [hr, hs] <;> exact if_neg hm

/-- The last member gone (R35, R36). -/
theorem afterLeaving_last {c : Chan} {s : State} (h : ∀ d, d ≠ c → s.round.members.get d = none) :
    (s.round.state = .assembling → afterLeaving (memberLeft c s) = closeRound (memberLeft c s)) ∧
      (s.round.state = .scanning → afterLeaving (memberLeft c s) = closeIfDone (cutScanShort (memberLeft c s))) ∧
      (s.round.state = .draining → afterLeaving (memberLeft c s) = closeIfDone (drainOut (memberLeft c s))) := by
  have hm := (noMembers_memberLeft c s).mpr h
  have hr : (memberLeft c s).round.state = s.round.state := rfl
  unfold afterLeaving
  refine ⟨fun hs => ?_, fun hs => ?_, fun hs => ?_⟩ <;> rw [hr, hs] <;> exact if_pos hm

/-- Settles O23: a member leaves, alone or as the last. -/
theorem lastMemberLeavingEndsTheScan : Obligations.LastMemberLeavingEndsTheScan := by
  unfold Obligations.LastMemberLeavingEndsTheScan
  rintro c i s u w hc rfl rfl
  have marks := (leaveRound_unmarked c s (by rw [hc]; simp)).askLine
  refine ⟨leaveRound_members c s, leaveRound_moves c s .channels (by decide), marks, fun hothers => ?_, fun hlast => ?_⟩
  · rw [leaveRound_eq hc]; exact afterLeaving_others hothers
  · obtain ⟨assembling, scanning, draining⟩ := afterLeaving_last hlast
    rw [leaveRound_eq hc]
    refine ⟨fun hs => ?_, fun hs => ?_, fun hs => ?_⟩
    · rw [assembling hs]
      exact ⟨(closeRound_closed _).from rfl rfl rfl rfl rfl rfl, closeRound_moves _ .head (by decide)⟩
    · rcases hs with hs | hs
      · have drained := cutScanShort_drained hlast
        rw [scanning hs, closeIfDone_lineStore]
        refine ⟨drained.store.1, drained.store.2, fun hh => drained.scanning ?_⟩
        rw [cutScanShort_head, if_pos (.inl hh)]; rfl
      · have drained := drainOut_drained hs hlast
        rw [draining hs, closeIfDone_lineStore]
        refine ⟨drained.store.1, drained.store.2, fun hh => drained.scanning ?_⟩
        exact (drainOut_head _).trans (if_pos hh)
    · have drained := drainOut_drained hs hlast
      rw [draining hs, closeIfDone_head]
      refine ⟨fun hh => ?_, fun hh => ?_⟩
      · have head : (drainOut (memberLeft c s)).head = s.head := by
          rw [drainOut_head, if_neg]; · rfl
          · show s.head.state ≠ .scanning
            rcases hh with hh | hh <;> rw [hh] <;> decide
        exact ⟨head, drained.closed (by rw [head]; exact hh)⟩
      · have head : (drainOut (memberLeft c s)).head = s.head := by
          rw [drainOut_head, if_neg]; · rfl
          · show s.head.state ≠ .scanning
            rw [hh]; decide
        refine ⟨head, ?_⟩
        rw [closeIfDone_away (by rw [head, hh]; decide) (by rw [head, hh]; decide), drainOut_round]
        rfl

end Sys2Proof.Machine
end

section
/-! PROOF. HALT ROUND (O24), and the device faults of an open round (O25). -/

namespace Sys2Proof.Machine

theorem exec_haltRound (l : Link) (s : State) : exec (.haltRound l) s = execHaltRound l s := by rfl

theorem exec_coverOpen (s : State) : exec .coverOpen s = execCoverOpen s := by rfl

theorem exec_clampOpen (s : State) : exec .clampOpen s = execClampOpen s := by rfl

theorem exec_lockLimit (s : State) : exec .lockLimit s = execLockLimit s := by rfl

theorem roundOpen_iff (s : State) : roundOpen s = true ↔ s.round.state ≠ .closed := by simp [roundOpen]

/-! ### What the predicates about an abort depend on -/

theorem KeepsLines.trans {s t u : State} (h : KeepsLines s t) (k : KeepsLines t u) : KeepsLines s u := by
  intro n o ho
  obtain ⟨x, hx, e⟩ := h n o ho
  obtain ⟨y, hy, f⟩ := k n x hx
  exact ⟨y, hy, f.trans e⟩

theorem returnMember_keepsLines (c : Chan) (s : State) : KeepsLines s (returnMember c s) := by
  intro n o ho
  rw [returnMember_dests, ho]
  exact ⟨_, rfl, rfl⟩

theorem returnMembers_keepsLines (s : State) : KeepsLines s (returnMembers s) :=
  (((returnMember_keepsLines .c1 s).trans (returnMember_keepsLines .c2 _)).trans (returnMember_keepsLines .c3 _)).trans
    (returnMember_keepsLines .c4 _)

theorem NotAbandoned.congr {s t : State} (hr : t.round.order = s.round.order)
    (hb : ∀ n o, findOrder t n = some o → o.state = .withdrawing → ∃ x, findOrder s n = some x ∧ x.state = .withdrawing) {n : Nat}
    (h : NotAbandoned s n) : NotAbandoned t n := by
  intro hn o ho hw
  obtain ⟨x, hx, hxw⟩ := hb n o ho hw
  exact h (hr ▸ hn) x hx hxw

theorem MembersReturned.from {s t u : State} (h : MembersReturned t u) (hr : t.round = s.round) (hb : t.book = s.book) :
    MembersReturned s u := by
  unfold MembersReturned NotAbandoned ServedByMember findOrder at *
  rw [hr, hb] at h
  exact h

theorem MembersReturned.congr {s t u : State} (h : MembersReturned s t) (hu : ∀ n, NotAbandoned s n → findOrder u n = findOrder t n) :
    MembersReturned s u := by
  intro n hn
  rw [hu n hn]
  exact h n hn

theorem OrdersKeepState.trans {s t u : State} (h : OrdersKeepState s t) (k : OrdersKeepState t u) : OrdersKeepState s u :=
  fun n => (k n).trans (h n)

theorem OrdersKeepState.of_book {s t : State} (h : t.book = s.book) : OrdersKeepState s t := fun n => by rw [findOrder_congr h]

theorem returnMembers_notAbandoned {s : State} {n : Nat} (h : NotAbandoned s n) : NotAbandoned (returnMembers s) n := by
  refine h.congr (by rw [show (returnMembers s).round = s.round from returnMembers_moves s .round (by decide)]) fun m o ho hw => ?_
  have := returnMembers_state s m
  rw [ho] at this
  cases hx : findOrder s m with
  | none => rw [hx] at this; cases this
  | some x => rw [hx] at this; exact ⟨x, rfl, (Option.some.inj this).symm.trans hw⟩

/-- What the abort procedure leaves depends on these parts alone; a head that was in FAULT may be commanded home again (R41). -/
theorem Aborted.congr {s t u : State} (h : Aborted s t) (hr : u.round = t.round) (hc : u.channels = t.channels)
    (hl : u.lineStore = t.lineStore) (hheld : u.head.held = t.head.held) (hh : s.head.state ≠ .fault → u.head = t.head) : Aborted s u := by
  obtain ⟨h1, h2, h3, h4, h5, h6, h7, h8⟩ := h
  have homed : s.head.state ≠ .fault → HeadCommandedHome s t → HeadCommandedHome s u := by
    intro hf; unfold HeadCommandedHome; rw [hh hf]; exact id
  refine ⟨by rw [hr]; exact h1, by rw [hc]; exact h2, by rw [hc, hl]; exact h3, by rw [hl]; exact h4, by rw [hheld]; exact h5,
    by rw [hl]; exact h6, by rw [hr]; exact h7, ?_⟩
  revert h8
  split
  · exact id
  · exact fun k hs => (hh hs).trans (k hs)
  · intro k hs
    have hf : s.head.state ≠ .fault := by rw [hs]; decide
    rw [hr]
    exact ⟨homed hf (k hs).1, (k hs).2⟩
  · rintro ⟨k1, k2, k3⟩
    rw [hr]
    refine ⟨fun hs => ?_, fun hs => ?_, fun hs => ?_⟩
    · exact ⟨homed (by rw [hs]; decide) (k1 hs).1, (k1 hs).2⟩
    · exact ⟨(hh (by rw [hs]; decide)).trans (k2 hs).1, (k2 hs).2⟩
    · exact (hh (by rw [hs]; decide)).trans (k3 hs)

theorem RoundClosed.congr {s t u : State} (h : RoundClosed s t) (hr : u.round = t.round) (hd : u.selectDue = true) (hm : u.mount = t.mount)
    (hb : u.book = t.book) (hdr : u.drum = t.drum) (hn : ∀ m : Notice, m.kind = .mountRequest ∨ m.kind = .orderDone →
      NoticedToBoth m t → NoticedToBoth m u) : RoundClosed s u := by
  obtain ⟨h1, h2, h3, h4, h5⟩ := h
  have find := findOrder_congr hb
  refine ⟨hr.trans h1, hd, fun k => ?_, fun n hn => (find n).trans (h4 n hn), fun n o hno ho hw => ?_⟩
  · obtain ⟨k1, k2, k3⟩ := h3 k
    exact ⟨hm.trans k1, hb.trans k2, hdr.trans k3⟩
  · obtain ⟨k1, k2, k3, k4⟩ := h5 n o hno ho hw
    refine ⟨fun tag ht => ?_, fun ht => ?_, fun hq => (find n).trans (k3 hq), fun hq => ?_⟩
    · obtain ⟨j1, j2, j3⟩ := k1 tag ht
      exact ⟨hm.trans j1, j2.congr hdr, hn _ (.inl rfl) j3⟩
    · obtain ⟨j1, j2⟩ := k2 ht
      exact ⟨hm.trans j1, hdr.trans j2⟩
    · obtain ⟨j1, j2⟩ := k4 hq
      exact ⟨(find n).trans j1, hn _ (.inr rfl) j2⟩

/-! ### The abort of an open round whose members' destinations are READY again (R38, R41 to R45) -/

theorem abortRound_head_fault {s : State} (ho : s.round.state ≠ .closed) :
    ((abortRound s).head.state = .fault ↔ s.head.state = .fault) ∧ (s.head.state = .fault → (abortRound s).head = s.head) := by
  have head : (abortRound s).head = (emptied s).head := by
    by_cases h : ClosesAtOnce s
    · rw [(abortRound_eq s ho).1 h]; exact closeRound_moves _ .head (by decide)
    · rw [((abortRound_eq s ho).2 h).1]
  obtain ⟨_, _, _, _, _, _, _, _, hhead⟩ := emptied_spec s ho
  rw [head]
  by_cases hf : s.head.state = .fault
  · have same : (emptied s).head = s.head := by rw [hhead, if_neg (by simp [hf])]
    rw [same]
    exact ⟨Iff.rfl, fun _ => rfl⟩
  · refine ⟨⟨fun h => absurd h ?_, fun h => absurd h hf⟩, fun h => absurd h hf⟩
    rw [hhead]
    split
    · split <;> simp
    · exact hf

/-- The round aborted with its members' destinations READY again. -/
theorem abort_returned (s : State) (ho : s.round.state ≠ .closed) :
    Aborted s (abortRound (returnMembers s)) ∧ MembersReturned s (abortRound (returnMembers s)) ∧
      (ClosesAtOnce s → RoundClosed (returnMembers s) (abortRound (returnMembers s))) ∧
      (¬ ClosesAtOnce s → Moves [.book, .round, .head, .lineStore, .channels, .selectDue] s (abortRound (returnMembers s)) ∧
        OrdersKeepState s (abortRound (returnMembers s))) ∧
      KeepsResults s (abortRound (returnMembers s)) := by
  have moves := returnMembers_moves s
  have round : (returnMembers s).round = s.round := moves .round (by decide)
  have head : (returnMembers s).head = s.head := moves .head (by decide)
  have pins : (returnMembers s).pins = s.pins := moves .pins (by decide)
  have open' : (returnMembers s).round.state ≠ .closed := by rw [round]; exact ho
  have closes : ClosesAtOnce (returnMembers s) ↔ ClosesAtOnce s := closesAtOnce_congr round head (by rw [pins])
  refine ⟨?_, ?_, fun h => abortRound_closed _ (closes.mpr h), fun h => ?_, ?_⟩
  · exact (abortRound_aborted _ open').from round head (moves .channels (by decide)) (moves .lineStore (by decide))
      (moves .now (by decide)) (by rw [pins]) (returnMembers_keepsLines s)
  · exact (returnMembers_returned s).congr fun n hn => abortRound_find _ open' n (returnMembers_notAbandoned hn)
  · have later := abortRound_open _ open' (mt closes.mp h)
    exact ⟨moves.within.also later, fun n => by
      rw [findOrder_congr (later .book (by decide))]; exact returnMembers_state s n⟩
  · exact (KeepsResults.of_links (moves .links (by decide))).trans (abortRound_keepsResults _ open')

theorem returnMembers_ordersKeepState (s : State) : OrdersKeepState s (returnMembers s) := returnMembers_state s

/-! ### HALT ROUND (R41) -/

theorem haltLamp_moves (s : State) : Moves [.converter, .selectDue] s (haltLamp s) := by
  unfold haltLamp
  split
  · exact Moves.refl _ _
  · intro p hp; cases p <;> first | rfl | exact absurd (by decide) hp

theorem haltLamp_ok {s : State} (h : s.converter.lamp = .ok) : haltLamp s = s := by unfold haltLamp; rw [h]

theorem haltLamp_fault {s : State} (h : s.converter.lamp = .fault) :
    haltLamp s = markSelection { s with converter := { s.converter with lamp := .ok, invalidCount := 0 } } := by
  unfold haltLamp; rw [h]

theorem haltHead_moves (s : State) : Moves [.head, .selectDue] s (haltHead s) := by
  unfold haltHead
  split
  · exact startReturn_moves s
  all_goals exact Moves.refl _ _

theorem haltHead_idle {s : State} (h : s.head.state ≠ .fault) : haltHead s = s := by
  unfold haltHead
  split
  · exact absurd ‹_› h
  all_goals rfl

theorem haltHead_fault {s : State} (h : s.head.state = .fault) : haltHead s = startReturn s := by unfold haltHead; rw [h]

/-- A head driven home (R59). -/
theorem startReturn_homed (s : State) : HeadCommandedHome s (startReturn s) ∧ (startReturn s).head.held = s.head.held ∧
    (s.pins.home = true → (startReturn s).selectDue = true) ∧ (s.selectDue = true → (startReturn s).selectDue = true) := by
  unfold HeadCommandedHome startReturn headHome
  cases s.pins.home <;> simp

theorem haltLamp_due {s : State} (h : s.selectDue = true) : (haltLamp s).selectDue = true := by
  unfold haltLamp; split
  · exact h
  · rfl

theorem haltHead_due {s : State} (h : s.selectDue = true) : (haltHead s).selectDue = true := by
  by_cases hf : s.head.state = .fault
  · rw [haltHead_fault hf]; exact (startReturn_homed s).2.2.2 h
  · rw [haltHead_idle hf]; exact h

theorem haltHead_held (s : State) : (haltHead s).head.held = s.head.held := by
  by_cases hf : s.head.state = .fault
  · rw [haltHead_fault hf]; exact (startReturn_homed s).2.1
  · rw [haltHead_idle hf]

/-- The lamp and the head of HALT ROUND (R41). -/
theorem haltRest_moves (s : State) : Moves [.converter, .head, .selectDue] s (haltHead (haltLamp s)) :=
  (haltLamp_moves s).within.also (haltHead_moves _)

theorem haltRest_head (s : State) : (haltLamp s).head = s.head ∧ (haltHead (haltLamp s)).head.held = s.head.held := by
  have h : (haltLamp s).head = s.head := haltLamp_moves s .head (by decide)
  exact ⟨h, by rw [haltHead_held, h]⟩

/-- Where HALT ROUND finds no round open, or has aborted it. -/
def halted (l : Link) (s : State) : State := haltOpenRound (postResult l 0x16#8 .ok 0 s)

theorem exec_haltRound_eq (l : Link) (s : State) : exec (.haltRound l) s = .next (finishStep (haltHead (haltLamp (halted l s)))) := by
  rw [exec_haltRound]; rfl

theorem halted_open {l : Link} {s : State} (h : s.round.state ≠ .closed) :
    halted l s = abortRound (returnMembers (postResult l 0x16#8 .ok 0 s)) := if_pos ((roundOpen_iff _).mpr h)

theorem halted_closed {l : Link} {s : State} (h : s.round.state = .closed) : halted l s = postResult l 0x16#8 .ok 0 s :=
  if_neg fun k => (roundOpen_iff _).mp k h

theorem halted_moves (l : Link) (s : State) :
    Moves [.links, .book, .round, .drum, .head, .mount, .lineStore, .channels, .selectDue] s (halted l s) := by
  by_cases h : s.round.state = .closed
  · rw [halted_closed h]; exact (postResult_moves _ _ _ _ _).within
  · rw [halted_open h]
    exact ((postResult_moves _ _ _ _ _).within.also (returnMembers_moves _)).also (abortRound_moves _)

theorem halted_result (l : Link) (s : State) (k : Link) : ((halted l s).links.get k).result =
    if k = l then { command := 0x16#8, code := .ok, value := 0 } else (s.links.get k).result := by
  by_cases h : s.round.state = .closed
  · rw [halted_closed h]; exact postResult_result l k _ _ _ s
  · obtain ⟨_, _, _, _, results⟩ := abort_returned (postResult l 0x16#8 .ok 0 s) h
    rw [halted_open h]
    exact (results k).trans (postResult_result l k _ _ _ s)

/-- A head in FAULT before HALT ROUND commands it is in FAULT as it was, and a head not in FAULT gets into none. -/
theorem halted_head (l : Link) (s : State) :
    ((halted l s).head.state = .fault ↔ s.head.state = .fault) ∧ (s.head.state = .fault → (halted l s).head = s.head) := by
  by_cases h : s.round.state = .closed
  · rw [halted_closed h]; exact ⟨Iff.rfl, fun _ => rfl⟩
  · have moves := returnMembers_moves (postResult l 0x16#8 .ok 0 s)
    have head : (returnMembers (postResult l 0x16#8 .ok 0 s)).head = s.head := moves .head (by decide)
    have := abortRound_head_fault (s := returnMembers (postResult l 0x16#8 .ok 0 s))
      (by rw [moves .round (by decide)]; exact h)
    rw [halted_open h]
    rwa [head] at this

/-- Settles O24: HALT ROUND in every state. -/
theorem haltRoundAbortsAndClears : Obligations.HaltRoundAbortsAndClears := by
  unfold Obligations.HaltRoundAbortsAndClears
  intro l s
  have rest := haltRest_moves (halted l s)
  obtain ⟨lampHead, held⟩ := haltRest_head (halted l s)
  have moves := halted_moves l s
  obtain ⟨faulted, stays⟩ := halted_head l s
  have find : ∀ n, findOrder (haltHead (haltLamp (halted l s))) n = findOrder (halted l s) n :=
    fun n => findOrder_congr (rest .book (by decide)) n
  have idle : s.head.state ≠ .fault → (haltHead (haltLamp (halted l s))).head = (halted l s).head := fun h => by
    rw [haltHead_idle (by rw [lampHead]; exact mt faulted.mp h), lampHead]
  refine ⟨_, exec_haltRound_eq l s, fun k => ?_, fun ho => ?_, fun ho hlater => ?_, fun hnow => ?_, fun hc => ?_, fun hl => ?_,
    fun hl => ?_, fun hf => ?_, fun hc hf => ?_, moves.within.also rest⟩
  · rw [rest .links (by decide)]; exact halted_result l s k
  · obtain ⟨aborted, returned, _⟩ := abort_returned (postResult l 0x16#8 .ok 0 s) ho
    rw [← halted_open ho] at aborted returned
    refine ⟨(aborted.from (s := s) rfl rfl rfl rfl rfl rfl (.of_book rfl)).congr (rest .round (by decide)) (rest .channels (by decide))
      (rest .lineStore (by decide)) held idle, (returned.from (s := s) rfl rfl).congr fun n _ => find n⟩
  · obtain ⟨_, _, _, later, _⟩ := abort_returned (postResult l 0x16#8 .ok 0 s) ho
    rw [← halted_open ho] at later
    obtain ⟨same, states⟩ := later fun k => hlater ((closesAtOnce_congr rfl rfl rfl).mp k)
    refine ⟨(rest .drum (by decide)).trans (same .drum (by decide)), (rest .mount (by decide)).trans (same .mount (by decide)),
      fun n => by rw [find]; exact states n, fun k => ?_⟩
    rw [rest .links (by decide), same .links (by decide)]
    exact postResult_notices l k _ _ _ s
  · have ho : s.round.state ≠ .closed := by
      intro h; unfold ClosesAtOnce at hnow; rw [h] at hnow; simp at hnow
    obtain ⟨_, _, closed, _⟩ := abort_returned (postResult l 0x16#8 .ok 0 s) ho
    rw [← halted_open ho] at closed
    have closed := closed ((closesAtOnce_congr rfl rfl rfl).mpr hnow)
    have due : (haltHead (haltLamp (halted l s))).selectDue = true := by
      obtain ⟨_, hdue, _⟩ := closed
      exact haltHead_due (haltLamp_due hdue)
    refine ⟨returnMembers (postResult l 0x16#8 .ok 0 s), (postResult_moves _ _ _ _ _).within.also (returnMembers_moves _),
      (returnMembers_returned _).from rfl rfl, (OrdersKeepState.of_book rfl).trans (returnMembers_ordersKeepState _),
      closed.congr (rest .round (by decide)) due (rest .mount (by decide)) (rest .book (by decide)) (rest .drum (by decide)) ?_⟩
    intro m _ hm k
    rw [rest .links (by decide)]
    exact hm k
  · rw [halted_closed hc] at rest
    rw [halted_closed hc]
    exact ⟨rest .round (by decide), rest .channels (by decide), rest .book (by decide), rest .lineStore (by decide),
      rest .drum (by decide), rest .mount (by decide)⟩
  · have conv : (halted l s).converter = s.converter := moves .converter (by decide)
    have lamp := haltLamp_fault (s := halted l s) (by rw [conv]; exact hl)
    refine ⟨?_, haltHead_due (by rw [lamp]; rfl)⟩
    rw [haltHead_moves _ .converter (by decide), lamp, ← conv]; rfl
  · have conv : (halted l s).converter = s.converter := moves .converter (by decide)
    rw [haltHead_moves _ .converter (by decide), haltLamp_ok (by rw [conv]; exact hl), conv]
  · have e := haltHead_fault (s := haltLamp (halted l s)) (by rw [lampHead]; exact faulted.mpr hf)
    obtain ⟨homed, _, due, _⟩ := startReturn_homed (haltLamp (halted l s))
    have pins : (haltLamp (halted l s)).pins = s.pins := (haltLamp_moves _ .pins (by decide)).trans (moves .pins (by decide))
    have now : (haltLamp (halted l s)).now = s.now := (haltLamp_moves _ .now (by decide)).trans (moves .now (by decide))
    rw [e]
    unfold HeadCommandedHome at homed ⊢
    rw [pins] at homed due
    rw [lampHead, stays hf, now] at homed
    exact ⟨homed, due⟩
  · rw [idle hf, halted_closed hc]; rfl

/-! ### The device faults (R42, R44, R45) -/

theorem RoundClosed.notice {s t : State} (h : RoundClosed s t) (k : DrumCause) (order : Option Nat) :
    RoundClosed s (noticeBoth (.drumFault k order) t) := by
  have hdue : t.selectDue = true := h.2.1
  refine h.congr rfl hdue rfl rfl rfl fun m hm hn => hn.notice _ ?_
  rcases hm with hm | hm <;> rw [hm] <;> simp [Notice.kind]

/-- An order that a round abandons (R37), where not every order of it is kept. -/
theorem round_abandons {s : State}
    (h : ¬ ∀ n o, s.round.order = some n → findOrder s n = some o → o.state ≠ .withdrawing) :
    ∃ n o, s.round.order = some n ∧ findOrder s n = some o ∧ o.state = .withdrawing :=
  Classical.byContradiction fun none => h fun n o hn ho hs => none ⟨n, o, hn, ho, hs⟩

/-- The close of a round leaves a drum that does not turn as it is (R37, R55). -/
theorem RoundClosed.drum_at_rest {s u : State} (h : RoundClosed s u) (hd : ¬ (s.drum.state = .spinning ∨ s.drum.state = .locked)) :
    u.drum = s.drum := by
  obtain ⟨_, _, h3, _, h5⟩ := h
  by_cases hw : ∀ n o, s.round.order = some n → findOrder s n = some o → o.state ≠ .withdrawing
  · rw [(h3 hw).2.2, if_neg hd]
  · obtain ⟨n, o, hn, ho, hs⟩ := round_abandons hw
    obtain ⟨k1, k2, _⟩ := h5 n o hn ho hs
    by_cases hm : ∃ tag, s.mount = .mounted tag
    · obtain ⟨tag, hm⟩ := hm
      have cut := (k1 tag hm).2.1
      unfold DriveCut at cut
      rwa [if_neg hd] at cut
    · rw [(k2 fun tag ht => hm ⟨tag, ht⟩).2, if_neg hd]

/-- The close of a round keeps the print of an order that is not WITHDRAWING, and a place without a print (R37). -/
theorem RoundClosed.mount_kept {s u : State} (h : RoundClosed s u)
    (hm : (∀ n o, s.round.order = some n → findOrder s n = some o → o.state ≠ .withdrawing) ∨ ∀ tag, s.mount ≠ .mounted tag) :
    u.mount = s.mount := by
  obtain ⟨_, _, h3, _, h5⟩ := h
  by_cases hw : ∀ n o, s.round.order = some n → findOrder s n = some o → o.state ≠ .withdrawing
  · exact (h3 hw).1
  · have hm := hm.resolve_left hw
    obtain ⟨n, o, hn, ho, hs⟩ := round_abandons hw
    obtain ⟨_, k2, _⟩ := h5 n o hn ho hs
    exact (k2 hm).1

/-- An abort for a device fault, from the state that the device has made (R42, R44, R45). -/
theorem abortForFault_spec (k : DrumCause) (s : State) (ho : s.round.state ≠ .closed) :
    Aborted s (abortForFault k s) ∧ MembersReturned s (abortForFault k s) ∧
      (ClosesAtOnce s → RoundClosed (returnMembers s) (abortForFault k s)) ∧
      (¬ ClosesAtOnce s → Moves [.links, .book, .round, .head, .lineStore, .channels, .selectDue] s (abortForFault k s) ∧
        OrdersKeepState s (abortForFault k s)) ∧
      NoticedToBoth (.drumFault k s.round.order) (abortForFault k s) := by
  obtain ⟨aborted, returned, closed, _⟩ := abort_returned s ho
  exact ⟨aborted.congr rfl rfl rfl rfl fun _ => rfl, returned.congr fun n _ => rfl, fun h => (closed h).notice _ _,
    abortForFault_open k s ho, noticeBoth_noticed _ _⟩

/-- With the drive cut before, an abort for a fault leaves the drum as it is. -/
theorem abortForFault_drum {k : DrumCause} {s : State} (ho : s.round.state ≠ .closed)
    (hd : ¬ (s.drum.state = .spinning ∨ s.drum.state = .locked)) : (abortForFault k s).drum = s.drum := by
  obtain ⟨_, _, closed, later, _⟩ := abortForFault_spec k s ho
  have drum : (returnMembers s).drum = s.drum := returnMembers_moves s .drum (by decide)
  by_cases h : ClosesAtOnce s
  · rw [(closed h).drum_at_rest (by rw [drum]; exact hd), drum]
  · exact (later h).1 .drum (by decide)

theorem abortForFault_mount {k : DrumCause} {s : State} (ho : s.round.state ≠ .closed)
    (hm : (∀ n o, s.round.order = some n → findOrder s n = some o → o.state ≠ .withdrawing) ∨ ∀ tag, s.mount ≠ .mounted tag) :
    (abortForFault k s).mount = s.mount := by
  obtain ⟨_, _, closed, later, _⟩ := abortForFault_spec k s ho
  have moves := returnMembers_moves s
  have mount : (returnMembers s).mount = s.mount := moves .mount (by decide)
  by_cases h : ClosesAtOnce s
  · rw [(closed h).mount_kept ?_, mount]
    refine hm.imp (fun hw n o hn ho => ?_) (fun hn tag => by rw [mount]; exact hn tag)
    rw [moves .round (by decide)] at hn
    have := returnMembers_state s n
    rw [ho] at this
    cases hx : findOrder s n with
    | none => rw [hx] at this; cases this
    | some x => rw [hx] at this; rw [Option.some.inj this]; exact hw n x hn hx
  · exact (later h).1 .mount (by decide)

/-- A cut drive does not turn (R48). -/
theorem DriveCut.at_rest {s t : State} (h : DriveCut s t) : ¬ (t.drum.state = .spinning ∨ t.drum.state = .locked) := by
  unfold DriveCut at h
  split at h
  · rw [h]; simp
  · rw [h]; assumption

theorem DriveCut.coasting {s t : State} (h : DriveCut s t) (hd : s.drum.state = .spinning ∨ s.drum.state = .locked) :
    t.drum.state = .coasting ∧ t.drum.target = none ∧ t.drum.lockTimer = none := by
  unfold DriveCut at h
  rw [if_pos hd] at h
  rw [h]
  exact ⟨rfl, rfl, rfl⟩

/-- The state as the cover opens (R65). -/
def coverOpened (s : State) : State := cutDrive { s with pins := { s.pins with cover := false } }

theorem coverOpened_moves (s : State) : Moves [.drum, .pins] s (coverOpened s) := by
  have h : Moves [.pins] s { s with pins := { s.pins with cover := false } } := by
    intro p hp; cases p <;> first | rfl | exact absurd (by decide) hp
  exact h.within.also (cutDrive_moves _)

theorem coverOpened_pins (s : State) : (coverOpened s).pins = { s.pins with cover := false } := cutDrive_moves _ .pins (by decide)

/-- The state as the clamp opens on a print (R64). -/
def clampOff (s : State) : State := cutDrive { s with pins := { s.pins with clamp := false } }

theorem clampOff_moves (s : State) : Moves [.drum, .pins] s (clampOff s) := by
  have h : Moves [.pins] s { s with pins := { s.pins with clamp := false } } := by
    intro p hp; cases p <;> first | rfl | exact absurd (by decide) hp
  exact h.within.also (cutDrive_moves _)

theorem clampOff_pins (s : State) : (clampOff s).pins = { s.pins with clamp := false } := cutDrive_moves _ .pins (by decide)

/-- The print in MOUNTED gone with the clamp, its order WAITING (R64). -/
def printGone (s : State) : State := markSelection (moveOrders .onDrum .waiting { s with mount := .empty })

theorem printGone_moves (s : State) : Moves [.book, .mount, .selectDue] s (printGone s) := by
  intro p hp; cases p <;> first | rfl | exact absurd (by decide) hp

theorem printGone_find (s : State) (n : Nat) :
    findOrder (printGone s) n = (findOrder s n).map fun o => if o.state = .onDrum then { o with state := .waiting } else o :=
  findOrder_moveOrders .onDrum .waiting n { s with mount := .empty }

/-- The members' destinations are as returned where the orders differ in their states alone, none of them WITHDRAWING. -/
theorem MembersReturned.from_states {s t u : State} (h : MembersReturned t u) (hr : t.round = s.round)
    (hb : ∀ n, ∃ f : Order → OrderState, (∀ o, f o = .withdrawing → o.state = .withdrawing) ∧
      findOrder t n = (findOrder s n).map fun o => { o with state := f o }) : MembersReturned s u := by
  intro n hn
  obtain ⟨f, hf, ht⟩ := hb n
  have hnt : NotAbandoned t n := by
    intro e o ho hw
    rw [ht] at ho
    cases hx : findOrder s n with
    | none => rw [hx] at ho; cases ho
    | some x => rw [hx] at ho; cases ho; exact hn (hr ▸ e) x hx (hf x hw)
  obtain ⟨h1, h2⟩ := h n hnt
  rw [ht] at h1 h2
  refine ⟨fun hnone => h1 (by rw [hnone]; rfl), fun o ho => ?_⟩
  obtain ⟨x, hx, he, hlen, hdests⟩ := h2 { o with state := f o } (by rw [ho]; rfl)
  refine ⟨x, hx, by rw [he], hlen, fun i d hd => ?_⟩
  have := hdests i d hd
  unfold ServedByMember at this ⊢
  rw [hr] at this
  exact this

theorem clampOff_find (s : State) (n : Nat) : findOrder (clampOff s) n = findOrder s n :=
  findOrder_congr (clampOff_moves s .book (by decide)) n

theorem onDrumWaits_state (o : Order) : (if o.state = .onDrum then { o with state := .waiting } else o : Order) =
    { o with state := if o.state = .onDrum then .waiting else o.state } := by split <;> rfl

/-- What the clamp makes of the orders: the one ON DRUM is WAITING (R64). -/
theorem clampedOrders (s : State) (n : Nat) : findOrder (printGone (clampOff s)) n =
    (findOrder s n).map fun o => { o with state := if o.state = .onDrum then .waiting else o.state } := by
  rw [printGone_find, clampOff_find]
  simp only [onDrumWaits_state]

/-- A cover opened on an open round (R44). -/
theorem coverOpen_aborts (s : State) (ho : s.round.state ≠ .closed) :
    ∃ u, exec .coverOpen s = .next (finishStep u) ∧ Aborted s u ∧ MembersReturned s u ∧
      (ClosesAtOnce s → ∃ b, Moves [.book, .drum, .pins, .selectDue] s b ∧ DriveCut s b ∧ MembersReturned s b ∧
        OrdersKeepState s b ∧ RoundClosed b u) ∧
      (¬ ClosesAtOnce s → DriveCut s u ∧ u.mount = s.mount ∧ OrdersKeepState s u) ∧
      NoticedToBoth (.drumFault .cover s.round.order) u ∧ u.pins = { s.pins with cover := false } ∧
      (s.drum.state = .spinning ∨ s.drum.state = .locked → u.drum.state = .coasting ∧ u.drum.target = none) ∧
      ((∀ n o, s.round.order = some n → findOrder s n = some o → o.state ≠ .withdrawing) → u.mount = s.mount) ∧
      Moves [.links, .book, .round, .drum, .head, .mount, .lineStore, .channels, .pins, .selectDue] s u := by
  have moves := coverOpened_moves s
  have round : (coverOpened s).round = s.round := moves .round (by decide)
  have head : (coverOpened s).head = s.head := moves .head (by decide)
  have book : (coverOpened s).book = s.book := moves .book (by decide)
  have mount : (coverOpened s).mount = s.mount := moves .mount (by decide)
  have home : (coverOpened s).pins.home = s.pins.home := by rw [coverOpened_pins]
  have cut : DriveCut s (coverOpened s) := (cutDrive_cut { s with pins := { s.pins with cover := false } }).from rfl rfl
  have open' : (coverOpened s).round.state ≠ .closed := by rw [round]; exact ho
  have closes : ClosesAtOnce (coverOpened s) ↔ ClosesAtOnce s := closesAtOnce_congr round head home
  obtain ⟨aborted, returned, closed, later, noticed⟩ := abortForFault_spec .cover (coverOpened s) open'
  have drum := abortForFault_drum (k := .cover) open' cut.at_rest
  have returning := returnMembers_moves (coverOpened s)
  rw [round] at noticed
  refine ⟨abortForFault .cover (coverOpened s), ?_, ?_, returned.from round book, fun hnow => ?_, fun hlater => ?_, noticed, ?_,
    fun hd => ?_, fun hw => ?_, moves.within.also (abortForFault_moves _ _)⟩
  · rw [exec_coverOpen]
    exact congrArg (fun t => Host.Outcome.next (finishStep t)) (if_pos ((roundOpen_iff _).mpr open'))
  · exact aborted.from round head (moves .channels (by decide)) (moves .lineStore (by decide)) (moves .now (by decide)) home
      (.of_book book)
  · exact ⟨returnMembers (coverOpened s), moves.within.also returning, cut.congr (returning .drum (by decide)),
      (returnMembers_returned _).from round book, (OrdersKeepState.of_book book).trans (returnMembers_ordersKeepState _),
      closed (closes.mpr hnow)⟩
  · obtain ⟨same, states⟩ := later (mt closes.mp hlater)
    exact ⟨cut.congr drum, (same .mount (by decide)).trans mount, (OrdersKeepState.of_book book).trans states⟩
  · exact (abortForFault_moves _ _ .pins (by decide)).trans (coverOpened_pins s)
  · rw [drum]; exact ⟨(cut.coasting hd).1, (cut.coasting hd).2.1⟩
  · refine (abortForFault_mount open' (.inl fun n o hn hf => ?_)).trans mount
    rw [round] at hn
    rw [findOrder_congr book] at hf
    exact hw n o hn hf

/-- A clamp opened under an open round (R45). -/
theorem clampOpen_aborts (s : State) (tag : Nat) (ho : s.round.state ≠ .closed) (hm : s.mount = .mounted tag) :
    ∃ u, exec .clampOpen s = .next (finishStep u) ∧ Aborted s u ∧ MembersReturned s u ∧ u.mount = .empty ∧
      (ClosesAtOnce s → ∃ b, Moves [.book, .drum, .mount, .pins, .selectDue] s b ∧ DriveCut s b ∧ b.mount = .empty ∧
        MembersReturned s b ∧ (∀ n, (findOrder b n).map Order.state =
          (findOrder s n).map fun o => if o.state = .onDrum then .waiting else o.state) ∧ RoundClosed b u) ∧
      (¬ ClosesAtOnce s → DriveCut s u ∧ ∀ n, (findOrder u n).map Order.state =
        (findOrder s n).map fun o => if o.state = .onDrum then .waiting else o.state) ∧
      NoticedToBoth (.drumFault .clamp s.round.order) u ∧ u.pins = { s.pins with clamp := false } ∧
      (s.drum.state = .spinning ∨ s.drum.state = .locked → u.drum.state = .coasting ∧ u.drum.target = none) ∧
      (∀ n o, s.round.order = some n → findOrder s n = some o → o.state = .onDrum →
        ∃ x, findOrder u n = some x ∧ x.state = .waiting) ∧
      Moves [.links, .book, .round, .drum, .head, .mount, .lineStore, .channels, .pins, .selectDue] s u := by
  have moves : Moves [.book, .drum, .mount, .pins, .selectDue] s (printGone (clampOff s)) :=
    (clampOff_moves s).within.also (printGone_moves _)
  have find := clampedOrders s
  have pins : (printGone (clampOff s)).pins = { s.pins with clamp := false } := clampOff_pins s
  generalize ht : printGone (clampOff s) = t at moves find pins
  have round : t.round = s.round := moves .round (by decide)
  have head : t.head = s.head := moves .head (by decide)
  have empty : t.mount = .empty := by rw [← ht]; rfl
  have home : t.pins.home = s.pins.home := by rw [pins]
  have cut : DriveCut s t := by
    rw [← ht]; exact (cutDrive_cut { s with pins := { s.pins with clamp := false } }).from rfl rfl
  have open' : t.round.state ≠ .closed := by rw [round]; exact ho
  have closes : ClosesAtOnce t ↔ ClosesAtOnce s := closesAtOnce_congr round head home
  have waits : ∀ n, ∃ f : Order → OrderState, (∀ o, f o = .withdrawing → o.state = .withdrawing) ∧
      findOrder t n = (findOrder s n).map fun o => { o with state := f o } := fun n =>
    ⟨fun o => if o.state = .onDrum then .waiting else o.state, fun o h => by revert h; dsimp only; split <;> simp, find n⟩
  have states : ∀ n, (findOrder t n).map Order.state =
      (findOrder s n).map fun o => if o.state = .onDrum then .waiting else o.state := fun n => by
    rw [find, Option.map_map]; rfl
  have lines : KeepsLines s t := fun n o hn => by rw [find, hn]; exact ⟨_, rfl, rfl⟩
  obtain ⟨aborted, returned, closed, later, noticed⟩ := abortForFault_spec .clamp t open'
  have drum := abortForFault_drum (k := .clamp) open' cut.at_rest
  have returning := returnMembers_moves t
  rw [round] at noticed
  have returned' := returned.from_states round waits
  refine ⟨abortForFault .clamp t, ?_, ?_, returned', ?_, fun hnow => ?_, fun hlater => ?_, noticed, ?_, fun hd => ?_,
    fun n o hn hf hs => ?_, moves.within.also (abortForFault_moves _ _)⟩
  · have hmount : (clampOff s).mount = .mounted tag := (clampOff_moves s .mount (by decide)).trans hm
    have : clampOpened (clampOff s) = abortForFault .clamp t := by
      unfold clampOpened
      rw [hmount]
      dsimp only
      rw [show markSelection (moveOrders .onDrum .waiting { clampOff s with mount := .empty }) = t from ht]
      exact if_pos ((roundOpen_iff _).mpr open')
    rw [exec_clampOpen]
    exact congrArg (fun t => Host.Outcome.next (finishStep t)) this
  · exact aborted.from round head (moves .channels (by decide)) (moves .lineStore (by decide)) (moves .now (by decide)) home lines
  · rw [abortForFault_mount open' (.inr fun tag h => by rw [empty] at h; cases h), empty]
  · exact ⟨returnMembers t, moves.also returning, cut.congr (returning .drum (by decide)),
      (returning .mount (by decide)).trans empty, (returnMembers_returned t).from_states round waits,
      fun n => (returnMembers_state t n).trans (states n), closed (closes.mpr hnow)⟩
  · obtain ⟨_, kept⟩ := later (mt closes.mp hlater)
    exact ⟨cut.congr drum, fun n => (kept n).trans (states n)⟩
  · exact (abortForFault_moves _ _ .pins (by decide)).trans pins
  · rw [drum]; exact ⟨(cut.coasting hd).1, (cut.coasting hd).2.1⟩
  · have hw : (if o.state = OrderState.onDrum then OrderState.waiting else o.state) = .waiting := if_pos hs
    have hfind : findOrder t n = some { o with state := .waiting } := by rw [find, hf, Option.map_some, hw]
    have na : NotAbandoned t n := fun _ y hy => by rw [hfind] at hy; cases hy; simp
    have e : findOrder (abortForFault .clamp t) n = findOrder (returnMembers t) n :=
      abortRound_find (returnMembers t) (by rw [returning .round (by decide)]; exact open') n (returnMembers_notAbandoned na)
    have hst := returnMembers_state t n
    rw [hfind] at hst
    rw [e]
    cases hx : findOrder (returnMembers t) n with
    | none => rw [hx] at hst; cases hst
    | some x => rw [hx] at hst; exact ⟨x, rfl, Option.some.inj hst⟩

/-- The lock limit run out on an open round that has not scanned to its end (R42, R54). -/
theorem lockLimit_aborts (s : State) (t0 : Nat) (hs : s.drum.state = .spinning) (ht : s.drum.lockTimer = some t0)
    (hr : s.round.state = .assembling ∨ s.round.state = .scanning) :
    ∃ u, exec .lockLimit s = .next (finishStep u) ∧ Aborted { s with now := max s.now (t0 + 20000000) } u ∧
      (ClosesAtOnce s → ∃ b, Moves [.now, .book, .drum, .selectDue] s b ∧ b.now = max s.now (t0 + 20000000) ∧
        DriveCut { s with now := b.now } b ∧ MembersReturned s b ∧ OrdersKeepState s b ∧ RoundClosed b u) ∧
      (¬ ClosesAtOnce s → DriveCut { s with now := u.now } u ∧ u.now = max s.now (t0 + 20000000) ∧ u.mount = s.mount ∧
        OrdersKeepState s u) ∧
      MembersReturned s u ∧ NoticedToBoth (.drumFault .lock s.round.order) u ∧ u.drum.state = .coasting ∧
      u.drum.target = none ∧ u.drum.lockTimer = none ∧
      Moves [.now, .links, .book, .round, .drum, .head, .mount, .lineStore, .channels, .selectDue] s u := by
  have jump : jumpPast s.drum.lockTimer lockLimitLength s = { s with now := max s.now (t0 + 20000000) } := by rw [ht]; rfl
  generalize hp : ({ s with now := max s.now (t0 + 20000000) } : State) = p at jump
  have later' : Moves [.now] s p := by rw [← hp]; intro q hq; cases q <;> first | rfl | exact absurd (by decide) hq
  have now' : p.now = max s.now (t0 + 20000000) := by rw [← hp]
  have cutMoves := cutDrive_moves p
  have moves : Moves [.now, .drum] s (cutDrive p) := later'.within.also cutMoves
  have cut : DriveCut p (cutDrive p) := cutDrive_cut p
  generalize ht' : cutDrive p = t at moves cut cutMoves
  have round : t.round = s.round := moves .round (by decide)
  have head : t.head = s.head := moves .head (by decide)
  have book : t.book = s.book := moves .book (by decide)
  have mount : t.mount = s.mount := moves .mount (by decide)
  have home : t.pins.home = s.pins.home := by rw [moves .pins (by decide)]
  have now : t.now = max s.now (t0 + 20000000) := (cutMoves .now (by decide)).trans now'
  have ho : s.round.state ≠ .closed := by rcases hr with h | h <;> rw [h] <;> decide
  have open' : t.round.state ≠ .closed := by rw [round]; exact ho
  have closes : ClosesAtOnce t ↔ ClosesAtOnce s := closesAtOnce_congr round head home
  obtain ⟨aborted, returned, closed, later, noticed⟩ := abortForFault_spec .lock t open'
  have drum := abortForFault_drum (k := .lock) open' cut.at_rest
  have spinning : p.drum.state = .spinning ∨ p.drum.state = .locked := .inl (by rw [later' .drum (by decide)]; exact hs)
  obtain ⟨c1, c2, c3⟩ := cut.coasting spinning
  have returning := returnMembers_moves t
  rw [round] at noticed
  refine ⟨abortForFault .lock t, ?_, ?_, fun hnow => ?_, fun hlater => ?_, returned.from round book, noticed, by rw [drum]; exact c1,
    by rw [drum]; exact c2, by rw [drum]; exact c3, moves.within.also (abortForFault_moves _ _)⟩
  · rw [exec_lockLimit]
    unfold execLockLimit
    rw [if_pos ⟨hs, by rw [ht]; rfl⟩]
    dsimp only
    rw [jump, if_pos hr, ht']
  · exact aborted.from (cutMoves .round (by decide)) (cutMoves .head (by decide)) (cutMoves .channels (by decide))
      (cutMoves .lineStore (by decide)) (cutMoves .now (by decide)) (by rw [cutMoves .pins (by decide)])
      (.of_book (cutMoves .book (by decide)))
  · have bnow : (returnMembers t).now = max s.now (t0 + 20000000) := (returning .now (by decide)).trans now
    refine ⟨returnMembers t, moves.within.also returning, bnow, ?_, (returnMembers_returned t).from round book,
      (OrdersKeepState.of_book book).trans (returnMembers_ordersKeepState t), closed (closes.mpr hnow)⟩
    rw [bnow, hp]
    exact cut.congr (returning .drum (by decide))
  · obtain ⟨same, states⟩ := later (mt closes.mp hlater)
    have unow : (abortForFault .lock t).now = max s.now (t0 + 20000000) := (same .now (by decide)).trans now
    refine ⟨?_, unow, (same .mount (by decide)).trans mount, (OrdersKeepState.of_book book).trans states⟩
    rw [unow, hp]
    exact cut.congr drum

/-- Settles O25: cover, clamp and lock limit on an open round. -/
theorem deviceFaultsAbortTheRound : Obligations.DeviceFaultsAbortTheRound := by
  unfold Obligations.DeviceFaultsAbortTheRound
  exact ⟨coverOpen_aborts, clampOpen_aborts, lockLimit_aborts⟩

end Sys2Proof.Machine
end

section
/-! PROOF. The drum: the spin command and the speed regulation (O27), and the index pulse where no line is filed (O28, O29, O30). -/

namespace Sys2Proof.Machine

/-! ### The spin command and the regulation (R48, R49, R51) -/

/-- The drum after the spin command, by the state it was in (R49). -/
theorem spinCommand_eq (k : LpmClass) (s : State) : spinCommand k s = { s with drum := (spinCommand k s).drum } := rfl

theorem spinCommand_fields (k : LpmClass) (s : State) :
    (spinCommand k s).drum.idleTimer = none ∧ (spinCommand k s).drum.lastPulse = s.drum.lastPulse ∧
      (spinCommand k s).drum.period = s.drum.period := by
  unfold spinCommand
  dsimp only
  split
  · exact ⟨rfl, rfl, rfl⟩
  · exact ⟨rfl, rfl, rfl⟩
  · exact ⟨rfl, rfl, rfl⟩
  · split <;> exact ⟨rfl, rfl, rfl⟩

theorem spinCommand_stopped {k : LpmClass} {s : State} (h : s.drum.state = .stopped) : (spinCommand k s).drum =
    { s.drum with state := .spinning, target := some k, drive := 512, lockCount := 0, lockTimer := some s.now, idleTimer := none } := by
  unfold spinCommand; simp only [h]

theorem spinCommand_coasting {k : LpmClass} {s : State} (h : s.drum.state = .coasting) : (spinCommand k s).drum =
    { s.drum with state := .spinning, target := some k, drive := 512, lockCount := 0, coastTimer := none, lockTimer := some s.now,
                  idleTimer := none } := by
  unfold spinCommand; simp only [h]

theorem spinCommand_spinning {k : LpmClass} {s : State} (h : s.drum.state = .spinning) : (spinCommand k s).drum =
    { s.drum with target := some k, lockCount := 0, lockTimer := some s.now, idleTimer := none } := by
  unfold spinCommand; simp only [h]

theorem spinCommand_locked {k : LpmClass} {s : State} (h : s.drum.state = .locked) : (spinCommand k s).drum =
    if s.drum.target = some k then { s.drum with idleTimer := none }
    else { s.drum with state := .spinning, target := some k, lockCount := 0, looseMiss := 0, lockTimer := some s.now,
                       idleTimer := none } := by
  unfold spinCommand; simp only [h]; split <;> simp [h]

/-- The error of a revolution divided by 256, truncated toward zero (R51). -/
theorem error_tdiv (period tt : Nat) : ((period : Int) - tt).tdiv 256 =
    if tt ≤ period then (((period - tt) / 256 : Nat) : Int) else -(((tt - period) / 256 : Nat) : Int) := by
  split
  · rename_i h
    rw [← Int.ofNat_sub h]
    rfl
  · rename_i h
    have : (period : Int) - tt = -((tt - period : Nat) : Int) := by omega
    rw [this, Int.neg_tdiv]
    rfl

theorem correctedDrive_eq (drive period tt : Nat) (h : drive ≤ 1023) : (correctedDrive drive period tt : Int) =
    max 0 (min 1023 ((drive : Int) + max (-24) (min 24 (((period : Int) - tt).tdiv 256)))) := by
  rw [error_tdiv]
  unfold correctedDrive
  split <;> omega

theorem periodError_eq (period tt : Nat) : periodError period tt = ((period : Int) - tt).natAbs := by
  unfold periodError; split <;> omega

theorem motorOutput_turning {s : State} (h : s.drum.state = .spinning ∨ s.drum.state = .locked) : motorOutput s = s.drum.drive :=
  if_pos ((turning_iff _).mpr h)

theorem motorOutput_at_rest {s : State} (h : ¬ (s.drum.state = .spinning ∨ s.drum.state = .locked)) : motorOutput s = 0 :=
  if_neg (mt (turning_iff _).mp h)

theorem cutDrive_drive (s : State) : (cutDrive s).drum.drive = s.drum.drive := by
  rw [cutDrive_drum]; split <;> rfl

/-- Settles O27: the spin command in each drum state, the correction with its tolerances, and the motor output. -/
theorem spinCommandAndSpeedRegulation : Obligations.SpinCommandAndSpeedRegulation := by
  unfold Obligations.SpinCommandAndSpeedRegulation
  refine ⟨fun k s => ?_, fun drive period tt h => ⟨correctedDrive_eq drive period tt h, ?_, ?_⟩, fun s => ⟨?_, fun h => ⟨?_, fun k => ?_⟩, ?_⟩⟩
  · obtain ⟨hidle, hlast, hperiod⟩ := spinCommand_fields k s
    refine ⟨_, spinCommand_eq k s, hidle, hlast, hperiod, fun h => ?_, fun h => ?_, fun h ht => ?_, fun h ht => ?_⟩
    · rcases h with h | h
      · rw [spinCommand_stopped h]; exact ⟨rfl, rfl, rfl, rfl, rfl, rfl, fun hc => by rw [h] at hc; cases hc⟩
      · rw [spinCommand_coasting h]; exact ⟨rfl, rfl, rfl, rfl, rfl, rfl, fun _ => rfl⟩
    · rw [spinCommand_spinning h]; exact ⟨h, rfl, rfl, rfl, rfl, rfl⟩
    · rw [spinCommand_locked h, if_pos ht]; exact ⟨h, ht, rfl, rfl, rfl, rfl⟩
    · rw [spinCommand_locked h, if_neg ht]; exact ⟨rfl, rfl, rfl, rfl, rfl, rfl⟩
  · rw [withinTight, periodError_eq, decide_eq_true_eq]
  · rw [withinLoose, periodError_eq, decide_eq_true_eq]
  · exact motorOutput_turning
  · exact motorOutput_at_rest (by rcases h with h | h <;> rw [h] <;> simp)
  · rcases h with h | h
    · rw [motorOutput_turning (by rw [spinCommand_stopped h]; exact .inl rfl), spinCommand_stopped h]
    · rw [motorOutput_turning (by rw [spinCommand_coasting h]; exact .inl rfl), spinCommand_coasting h]
  · exact ⟨_, rfl, cutDrive_cut s, cutDrive_moves s, motorOutput_at_rest (cutDrive_cut s).at_rest, cutDrive_drive s⟩

/-! ### The index pulse (R50) -/

theorem exec_indexPulse (time : Nat) (s : State) : exec (.indexPulse time) s = .next (finishStep
    (beginGathering (jumpTo time s).now (pulseByState s.converter.gathering (jumpTo time s)))) := by rfl

/-- With the drum not LOCKED no gathering begins (R69, R82). -/
theorem beginGathering_none {pulse : Nat} {s : State} (h : s.drum.state ≠ .locked) :
    beginGathering pulse s = { s with converter := { s.converter with gathering := none } } := by
  unfold beginGathering
  split
  · rename_i hs _; exact absurd hs h
  · rfl

/-- With the drum LOCKED a gathering begins at the pulse (R69). -/
theorem beginGathering_locked {pulse : Nat} {s : State} {k : LpmClass} (h : s.drum.state = .locked) (ht : s.drum.target = some k) :
    beginGathering pulse s =
      { s with converter := { s.converter with gathering := some { pulse := pulse, target := k.period, readings := [] } } } := by
  unfold beginGathering; rw [h, ht]

theorem beginGathering_moves (pulse : Nat) (s : State) : Moves [.converter] s (beginGathering pulse s) := by
  intro p hp; cases p <;> first | rfl | exact absurd (by decide) hp

theorem pulseByState_stopped {g : Option Gathering} {s : State} (h : s.drum.state = .stopped) : pulseByState g s = s := by
  unfold pulseByState; simp only [h]

theorem pulseByState_coasting {g : Option Gathering} {s : State} (h : s.drum.state = .coasting) : pulseByState g s =
    { s with drum := { s.drum with
      lastPulse := some s.now, coastTimer := some s.now,
      period := match s.drum.lastPulse.map fun last => measuredPeriod last s.now with
        | none => s.drum.period
        | some p => some p } } := by
  unfold pulseByState; simp only [h] <;> rfl

theorem pulseByState_first {g : Option Gathering} {s : State} (h : s.drum.state = .spinning) (hl : s.drum.lastPulse = none) :
    pulseByState g s = { s with drum := { s.drum with lastPulse := some s.now } } := by
  unfold pulseByState; simp only [h, hl]; rfl

/-- The state at the end of a revolution, timed and regulated, before it is judged (R50, R51). -/
def regulated (now p : Nat) (k : LpmClass) (s : State) : State :=
  { s with now := now,
           drum := { s.drum with lastPulse := some now, period := some p, drive := correctedDrive s.drum.drive p k.period } }

theorem endRevolution_eq {p : Nat} {g : Option Gathering} {s : State} {k : LpmClass} (ht : s.drum.target = some k) :
    endRevolution p g s =
      if s.drum.state = .locked then
        lockedRevolution p k.period g { s with drum := { s.drum with drive := correctedDrive s.drum.drive p k.period } }
      else spinningRevolution p k.period { s with drum := { s.drum with drive := correctedDrive s.drum.drive p k.period } } := by
  unfold endRevolution; rw [ht]

/-- The end of a revolution of a turning drum (R50 to R53). -/
theorem exec_indexPulse_revolution {time : Nat} {s : State} {last : Nat} {k : LpmClass}
    (ht : s.drum.target = some k) (hl : s.drum.lastPulse = some last) (hs : s.drum.state = .spinning ∨ s.drum.state = .locked) :
    exec (.indexPulse time) s = .next (finishStep (beginGathering (max s.now time)
      (if s.drum.state = .locked then
        lockedRevolution (min 16777215 (max s.now time - last)) k.period s.converter.gathering
          (regulated (max s.now time) (min 16777215 (max s.now time - last)) k s)
      else spinningRevolution (min 16777215 (max s.now time - last)) k.period
        (regulated (max s.now time) (min 16777215 (max s.now time - last)) k s)))) := by
  rw [exec_indexPulse]
  have hj : (jumpTo time s).drum = s.drum := rfl
  have hrev : pulseByState s.converter.gathering (jumpTo time s) =
      endRevolution (measuredPeriod last (max s.now time)) s.converter.gathering { jumpTo time s with drum := { s.drum with
        lastPulse := some (max s.now time), period := some (measuredPeriod last (max s.now time)) } } := by
    unfold pulseByState
    rcases hs with h | h <;> simp only [hj, h, hl, Option.map_some] <;> rfl
  rw [hrev]
  exact congrArg (fun t => Host.Outcome.next (finishStep (beginGathering (max s.now time) t)))
    (endRevolution_eq (s := { jumpTo time s with drum := { s.drum with
      lastPulse := some (max s.now time), period := some (measuredPeriod last (max s.now time)) } }) ht)

/-- Settles O28: the pulses that end no revolution. -/
theorem pulseWithoutARevolution : Obligations.PulseWithoutARevolution := by
  unfold Obligations.PulseWithoutARevolution
  rintro time s now rfl hdue
  have hj : (jumpTo time s).drum = s.drum := rfl
  have moves := jumpTo_moves time s
  refine ⟨fun h => ?_, fun h hl => ?_, fun h => ?_⟩ <;> rw [exec_indexPulse]
  · rw [pulseByState_stopped (s := jumpTo time s) h, beginGathering_none (s := jumpTo time s) (by rw [hj, h]; decide), finishStep_idle]
    · refine ⟨_, rfl, rfl, rfl, rfl, ?_⟩
      intro p hp; cases p <;> first | rfl | exact absurd (by decide) hp
    · exact hdue
  · rw [pulseByState_first (s := jumpTo time s) h hl, beginGathering_none, finishStep_idle]
    · refine ⟨_, rfl, rfl, rfl, rfl, ?_⟩
      intro p hp; cases p <;> first | rfl | exact absurd (by decide) hp
    · exact hdue
    · show s.drum.state ≠ .locked
      rw [h]; decide
  · rw [pulseByState_coasting (s := jumpTo time s) h, beginGathering_none, finishStep_idle]
    · refine ⟨_, rfl, rfl, rfl, rfl, fun p hp => ?_, fun hp => ?_, ?_⟩
      · simp only [hj, hp, Option.map_some]; rfl
      · simp only [hj, hp, Option.map_none]
      · intro p hp; cases p <;> first | rfl | exact absurd (by decide) hp
    · exact hdue
    · show s.drum.state ≠ .locked
      rw [h]; decide

/-! ### A revolution in SPINNING (R52) -/

theorem spinningRevolution_counts {p tt : Nat} {s : State} (h : withinTight p tt = false ∨ s.drum.lockCount < 7) :
    spinningRevolution p tt s =
      { s with drum := { s.drum with lockCount := if withinTight p tt then s.drum.lockCount + 1 else 0 } } := by
  unfold spinningRevolution
  dsimp only
  refine if_neg ?_
  rcases h with h | h
  · rw [h]; simp
  · split <;> omega

theorem spinningRevolution_locks {p tt : Nat} {s : State} (h : withinTight p tt = true) (hc : s.drum.lockCount = 7) :
    spinningRevolution p tt s =
      testStart { s with drum := { s.drum with state := .locked, lockCount := 8, looseMiss := 0, lockTimer := none } } := by
  unfold spinningRevolution
  dsimp only
  rw [if_pos h, hc]
  rfl

theorem spinningRevolution_more {p tt : Nat} {s : State} (h : 7 < s.drum.lockCount) : spinningRevolution p tt s =
    { s with drum := { s.drum with lockCount := if withinTight p tt then s.drum.lockCount + 1 else 0 } } := by
  unfold spinningRevolution
  dsimp only
  refine if_neg ?_
  split <;> omega

theorem testStart_head (s : State) : (testStart s).head.position = s.head.position ∧ (testStart s).head.held = s.head.held ∧
    (testStart s).lineStore.held = s.lineStore.held := by
  unfold testStart; split <;> exact ⟨rfl, rfl, rfl⟩

/-- A revolution in SPINNING that does not lock the drum. -/
theorem spinning_counts {t : State} {now p : Nat} {k : LpmClass} {s : State} (hs : s.drum.state = .spinning)
    (ht : t = { regulated now p k s with drum := { (regulated now p k s).drum with
      lockCount := if withinTight p k.period then s.drum.lockCount + 1 else 0 } }) :
    beginGathering now t = { t with converter := { s.converter with gathering := none } } := by
  have hn : t.drum.state ≠ .locked := by rw [ht]; show s.drum.state ≠ _; rw [hs]; decide
  rw [beginGathering_none hn, ht]
  rfl

/-- Settles O29: the lock count of a SPINNING drum, and the lock. -/
theorem spinningRevolutionCountsTowardLock : Obligations.SpinningRevolutionCountsTowardLock := by
  unfold Obligations.SpinningRevolutionCountsTowardLock
  rintro time s now last p k rfl hs ht hl rfl
  rw [exec_indexPulse_revolution ht hl (.inl hs), if_neg (by rw [hs]; decide)]
  generalize hp : min 16777215 (max s.now time - last) = p
  generalize hn : max s.now time = now
  by_cases hlock : withinTight p k.period = true ∧ s.drum.lockCount = 7
  · obtain ⟨htight, hcount⟩ := hlock
    rw [spinningRevolution_locks (s := regulated now p k s) htight hcount]
    have start := testStart_moves { regulated now p k s with drum := { (regulated now p k s).drum with
      state := .locked, lockCount := 8, looseMiss := 0, lockTimer := none } }
    have head := testStart_head { regulated now p k s with drum := { (regulated now p k s).drum with
      state := .locked, lockCount := 8, looseMiss := 0, lockTimer := none } }
    generalize hv : testStart { regulated now p k s with drum := { (regulated now p k s).drum with
      state := .locked, lockCount := 8, looseMiss := 0, lockTimer := none } } = v at start head
    have drum : v.drum = { (regulated now p k s).drum with state := .locked, lockCount := 8, looseMiss := 0, lockTimer := none } :=
      start .drum (by decide)
    have begin' := beginGathering_locked (pulse := now) (s := v) (k := k) (by rw [drum]) (by rw [drum]; exact ht)
    refine ⟨_, rfl, start .now (by decide), ?_, ?_, ?_, ?_, fun h => ?_, fun _ _ => ?_, head.1, head.2.1, head.2.2, ?_⟩
    · exact (congrArg Drum.lastPulse drum).trans rfl
    · exact (congrArg Drum.period drum).trans rfl
    · exact (congrArg Drum.drive drum).trans rfl
    · exact (congrArg Drum.target drum).trans ht
    · rcases h with h | h
      · rw [htight] at h; cases h
      · omega
    · refine ⟨(congrArg Drum.state drum).trans rfl, (congrArg Drum.lockCount drum).trans rfl, (congrArg Drum.looseMiss drum).trans rfl,
        (congrArg Drum.lockTimer drum).trans rfl, by rw [begin'], fun w hw => ?_⟩
      rw [begin']
      obtain rfl : w = v := hw.trans hv
      rfl
    · have lock : Moves [.now, .drum] s { regulated now p k s with drum := { (regulated now p k s).drum with
          state := .locked, lockCount := 8, looseMiss := 0, lockTimer := none } } := by
        intro q hq; cases q <;> first | rfl | exact absurd (by decide) hq
      exact (lock.within.also start).also (beginGathering_moves _ _)
  · have counts : spinningRevolution p k.period (regulated now p k s) = { regulated now p k s with
        drum := { (regulated now p k s).drum with lockCount := if withinTight p k.period then s.drum.lockCount + 1 else 0 } } := by
      by_cases h7 : 7 < s.drum.lockCount
      · exact spinningRevolution_more (s := regulated now p k s) h7
      · refine spinningRevolution_counts (s := regulated now p k s) ?_
        show _ ∨ s.drum.lockCount < 7
        by_cases h : withinTight p k.period = true
        · exact .inr (by have : s.drum.lockCount ≠ 7 := fun h7 => hlock ⟨h, h7⟩; omega)
        · exact .inl (by simpa using h)
    rw [counts, spinning_counts hs rfl]
    refine ⟨_, rfl, rfl, rfl, rfl, rfl, ht, fun _ => ⟨rfl, rfl, ?_⟩, fun h1 h2 => absurd ⟨h1, h2⟩ hlock, rfl, rfl, rfl, ?_⟩
    · intro q hq; cases q <;> first | rfl | exact absurd (by decide) hq
    · intro q hq; cases q <;> first | rfl | exact absurd (by decide) hq

/-! ### A revolution in LOCKED that files no line (R53, R58) -/

theorem roundLines_eq {s : State} {n : Nat} {o : Order} (hn : s.round.order = some n) (ho : findOrder s n = some o) :
    roundLines s = o.lines := by
  unfold roundLines roundOrder; rw [hn]; dsimp only; rw [ho]

theorem mayFile_iff (s : State) : mayFile s = true ↔
    s.round.state = .scanning ∧ s.head.state = .scanning ∧ ∃ n o, s.round.order = some n ∧ findOrder s n = some o ∧
      s.head.position < o.lines := by
  simp only [mayFile, Bool.and_eq_true, beq_iff_eq, decide_eq_true_eq, and_assoc]
  refine and_congr_right fun _ => and_congr_right fun _ => ⟨fun h => ?_, fun ⟨n, o, hn, ho, h⟩ => by rwa [roundLines_eq hn ho]⟩
  cases hn : s.round.order with
  | none => simp [roundLines, roundOrder, hn] at h
  | some n =>
    cases ho : findOrder s n with
    | none => simp [roundLines, roundOrder, hn, ho] at h
    | some o => exact ⟨n, o, rfl, ho, by rwa [roundLines_eq hn ho] at h⟩

theorem looseMissed_first {s : State} (h : s.drum.looseMiss = 0) : looseMissed s =
    { s with drum := { s.drum with looseMiss := s.drum.looseMiss + 1 },
             head := { s.head with held := if mayFile s then satSucc s.head.held else s.head.held } } := by
  unfold looseMissed
  dsimp only
  rw [if_neg (by omega)]
  split <;> rfl

theorem looseMissed_second {s : State} (h : s.drum.looseMiss = 1) : looseMissed s =
    { s with drum := { s.drum with looseMiss := s.drum.looseMiss + 1, state := .spinning, lockCount := 0, lockTimer := some s.now },
             head := { s.head with held := if mayFile s then satSucc s.head.held else s.head.held } } := by
  unfold looseMissed
  dsimp only
  rw [if_pos (by omega)]
  split <;> rfl

theorem satSucc_eq (n : Nat) : satSucc n = min 65535 (n + 1) := rfl

/-- Settles O30: a loose miss, the first and the second, and a revolution while no line may be filed. -/
theorem lockedRevolutionsThatFileNoLine : Obligations.LockedRevolutionsThatFileNoLine := by
  unfold Obligations.LockedRevolutionsThatFileNoLine
  refine ⟨?_, ?_⟩
  · rintro time s now last p k rfl hs ht hl rfl hloose hmiss
    rw [exec_indexPulse_revolution ht hl (.inr hs), if_pos hs]
    generalize hp : min 16777215 (max s.now time - last) = p at hloose ⊢
    generalize hn : max s.now time = now
    have hrev : lockedRevolution p k.period s.converter.gathering (regulated now p k s) = looseMissed (regulated now p k s) :=
      if_neg (by rw [hloose]; decide)
    rw [hrev]
    rcases Nat.le_one_iff_eq_zero_or_eq_one.mp hmiss with h0 | h1
    · rw [looseMissed_first (s := regulated now p k s) h0, beginGathering_locked (k := k) (by exact hs) (by exact ht)]
      refine ⟨_, rfl, rfl, fun D hD => ⟨fun _ => ⟨hD ▸ rfl, rfl⟩, fun h => by omega⟩, rfl, ?_⟩
      intro q hq; cases q <;> first | rfl | exact absurd (by decide) hq
    · rw [looseMissed_second (s := regulated now p k s) h1, beginGathering_none (by simp)]
      refine ⟨_, rfl, rfl, fun D hD => ⟨fun h => by omega, fun _ => ⟨hD ▸ rfl, rfl⟩⟩, rfl, ?_⟩
      intro q hq; cases q <;> first | rfl | exact absurd (by decide) hq
  · rintro time s now last p k rfl hs ht hl rfl hloose hnone
    rw [exec_indexPulse_revolution ht hl (.inr hs), if_pos hs]
    generalize hp : min 16777215 (max s.now time - last) = p at hloose ⊢
    generalize hn : max s.now time = now
    have hfile : mayFile s = false := by
      rw [← Bool.not_eq_true, mayFile_iff]
      rintro ⟨h1, h2, n, o, h3, h4, h5⟩
      rcases hnone with h | h | h
      · exact h h1
      · exact h h2
      · have := h n o h3 h4; omega
    have hrev : lockedRevolution p k.period s.converter.gathering (regulated now p k s) =
        { regulated now p k s with drum := { (regulated now p k s).drum with looseMiss := 0 } } := by
      unfold lockedRevolution scanningRevolution
      rw [if_pos hloose, if_neg]
      exact fun h => Bool.noConfusion (hfile.symm.trans h)
    rw [hrev, beginGathering_locked (k := k) (by exact hs) (by exact ht)]
    refine ⟨_, rfl, rfl, rfl, rfl, ?_⟩
    intro q hq; cases q <;> first | rfl | exact absurd (by decide) hq

end Sys2Proof.Machine
end

section
/-! PROOF. Cover, clamp and home switch without a round (O32), and the limits of head and drum (O33). -/

namespace Sys2Proof.Machine

theorem exec_coverClose (s : State) : exec .coverClose s = execCoverClose s := by rfl

theorem exec_clampClose (s : State) : exec .clampClose s = execClampClose s := by rfl

theorem exec_homeSwitchClose (s : State) : exec .homeSwitchClose s = execHomeSwitchClose s := by rfl

theorem exec_returnLimit (s : State) : exec .returnLimit s = execReturnLimit s := by rfl

theorem exec_idleStop (s : State) : exec .idleStop s = execIdleStop s := by rfl

theorem exec_coastStop (s : State) : exec .coastStop s = execCoastStop s := by rfl

theorem setPins_only (p : Pins) (s : State) : Moves [.pins] s { s with pins := p } := by
  intro q hq; cases q <;> first | rfl | exact absurd (by decide) hq

/-! ### Cover, clamp and home switch (R59, R64, R65) -/

theorem stepperMoving_iff (s : State) : stepperMoving s = true ↔ s.head.state = .returning ∧ s.pins.cover = true := by
  simp [stepperMoving]

theorem coverOpened_cut (s : State) : DriveCut s (coverOpened s) :=
  (cutDrive_cut { s with pins := { s.pins with cover := false } }).from rfl rfl

theorem clampOff_cut (s : State) : DriveCut s (clampOff s) :=
  (cutDrive_cut { s with pins := { s.pins with clamp := false } }).from rfl rfl

/-- The clamp opened on a print with no round open (R64). -/
theorem clampOpened_mounted {s : State} {t : Nat} (hc : s.round.state = .closed) (hm : s.mount = .mounted t) :
    clampOpened s = printGone s := by
  unfold clampOpened
  rw [hm]
  exact if_neg fun k => (roundOpen_iff _).mp k hc

theorem clampOpened_asked {s : State} {t : Nat} (hm : s.mount = .unmountRequested t) :
    clampOpened s = markSelection { s with mount := .empty } := by
  unfold clampOpened; rw [hm]

theorem clampOpened_nothing {s : State} (hm : s.mount = .empty ∨ ∃ t, s.mount = .requested t) : clampOpened s = s := by
  unfold clampOpened
  rcases hm with hm | ⟨t, hm⟩ <;> rw [hm]

theorem clampOpened_moves (s : State) (h : s.round.state = .closed ∨ ∀ t, s.mount ≠ .mounted t) :
    Moves [.mount, .book, .selectDue] s (clampOpened s) := by
  cases hm : s.mount with
  | mounted t =>
    rw [clampOpened_mounted (h.resolve_right fun k => k t hm) hm]
    exact (printGone_moves s).within
  | unmountRequested t =>
    rw [clampOpened_asked hm]
    intro p hp; cases p <;> first | rfl | exact absurd (by decide) hp
  | empty => rw [clampOpened_nothing (.inl hm)]; exact Moves.refl _ _
  | requested t => rw [clampOpened_nothing (.inr ⟨t, hm⟩)]; exact Moves.refl _ _

/-- Settles O32: the openings without a round, and the closings in every state. -/
theorem coverClampAndHomeSwitch : Obligations.CoverClampAndHomeSwitch := by
  unfold Obligations.CoverClampAndHomeSwitch
  intro s
  refine ⟨fun hc => ?_, ?_, fun hc => ?_, ?_, fun hh => ?_⟩
  · have moves := coverOpened_moves s
    have pins := coverOpened_pins s
    have cut := coverOpened_cut s
    refine ⟨coverOpened s, ?_, pins, cut, motorOutput_at_rest cut.at_rest, ?_, moves.within⟩
    · rw [exec_coverOpen]
      refine congrArg (fun t => Host.Outcome.next (finishStep t)) (if_neg fun k => (roundOpen_iff _).mp k ?_)
      exact (congrArg Round.state (moves .round (by decide))).trans hc
    · rw [← Bool.not_eq_true, stepperMoving_iff, pins]
      exact fun h => Bool.noConfusion h.2
  · refine ⟨_, exec_coverClose s, rfl, rfl, ?_, (setPins_only _ _).within.also (markSelection_moves _)⟩
    rw [stepperMoving_iff]
    exact and_iff_left rfl
  · have moves := clampOff_moves s
    have pins := clampOff_pins s
    have cut := clampOff_cut s
    have round : (clampOff s).round = s.round := moves .round (by decide)
    have mount : (clampOff s).mount = s.mount := moves .mount (by decide)
    have book : (clampOff s).book = s.book := moves .book (by decide)
    have opened := clampOpened_moves (clampOff s) (by rw [round, mount]; exact hc)
    have cut' : DriveCut s (clampOpened (clampOff s)) := cut.congr (opened .drum (by decide))
    refine ⟨clampOpened (clampOff s), by rw [exec_clampOpen]; rfl, (opened .pins (by decide)).trans pins, cut',
      motorOutput_at_rest cut'.at_rest, fun t ht => ?_, fun t ht => ?_, fun hm => ?_, moves.within.also opened⟩
    · have hclosed : s.round.state = .closed := hc.resolve_right fun k => k t ht
      rw [clampOpened_mounted (by rw [round]; exact hclosed) (mount.trans ht)]
      refine ⟨rfl, rfl, fun n x hx => ?_⟩
      rw [clampedOrders, hx]; rfl
    · rw [clampOpened_asked (mount.trans ht)]
      exact ⟨rfl, rfl, book⟩
    · rw [clampOpened_nothing (by rw [mount]; exact hm)]
      exact ⟨mount, book⟩
  · exact ⟨_, exec_clampClose s, rfl, setPins_only _ _⟩
  · refine ⟨{ s with pins := { s.pins with home := true } }, ?_, rfl, setPins_only _ _⟩
    rw [exec_homeSwitchClose]
    exact if_neg hh

/-! ### A head return (R59, R60) -/

theorem closeRound_keeps_notice {m : Notice} {s : State} (h : NoticedToBoth m s) (h1 : m.kind ≠ .mountRequest) (h2 : m.kind ≠ .orderDone) :
    NoticedToBoth m (closeRound s) := by
  have idle : (markSelection (startIdle { s with round := Round.none })).links = s.links := startIdle_moves _ .links (by decide)
  have quiet : NoticedToBoth m (markSelection (startIdle { s with round := Round.none })) := fun l => by rw [idle]; exact h l
  have asked : ∀ t, NoticedToBoth m t → NoticedToBoth m (requestUnmount t) := by
    intro t ht
    unfold requestUnmount; split
    · exact NoticedToBoth.notice (fun l => by rw [show (_ : State).links = t.links from cutDrive_links t]; exact ht l) _ h1
    · exact ht
  unfold closeRound
  dsimp only
  split
  · exact quiet
  · split
    · exact quiet
    · split
      · exact finishOrder_keeps_notice _ (asked _ quiet) h2
      · exact quiet

theorem closeIfDone_keeps_notice {m : Notice} {s : State} (h : NoticedToBoth m s) (h1 : m.kind ≠ .mountRequest) (h2 : m.kind ≠ .orderDone) :
    NoticedToBoth m (closeIfDone s) := by
  rw [closeIfDone_eq]; split
  · exact closeRound_keeps_notice h h1 h2
  · exact h

theorem closeRound_due (s : State) : (closeRound s).selectDue = true := (closeRound_closed s).2.1

theorem closeIfDone_due {s : State} (h : s.selectDue = true) : (closeIfDone s).selectDue = true := by
  rw [closeIfDone_eq]; split
  · exact closeRound_due s
  · exact h

/-- A DRAINING round whose head is at rest: CLOSED without members, open while one is left or in another state (R36). -/
theorem closeIfDone_cases {s : State} (hh : s.head.state = .home ∨ s.head.state = .fault) :
    (s.round.state = .draining → (∀ c, s.round.members.get c = none) → closeIfDone s = closeRound s) ∧
      (s.round.state ≠ .draining ∨ (∃ c, s.round.members.get c ≠ none) → closeIfDone s = s) := by
  rw [closeIfDone_eq]
  refine ⟨fun h1 h2 => if_pos ⟨h1, (noMembers_iff _).mpr h2, hh⟩, fun h => if_neg ?_⟩
  rintro ⟨h1, h2, _⟩
  rcases h with h | ⟨c, hc⟩
  · exact h h1
  · exact hc ((noMembers_iff _).mp h2 c)

/-- A head that returns comes home with its switch (R59). -/
theorem homeSwitch_returns (s : State) (hs : s.head.state = .returning) :
    ∃ u, exec .homeSwitchClose s = .next (finishStep u) ∧ u.selectDue = true ∧ u.pins = { s.pins with home := true } ∧
       u.head = { s.head with state := .home, position := 0, returnTimer := none } ∧
       (s.round.state = .draining → (∀ c, s.round.members.get c = none) → RoundClosed s u) ∧
       (s.round.state ≠ .draining ∨ (∃ c, s.round.members.get c ≠ none) → Moves [.head, .pins, .selectDue] s u) ∧
       Moves [.links, .book, .round, .drum, .head, .mount, .pins, .selectDue] s u := by
  have homed : Moves [.head, .pins, .selectDue] s (headHome { s with pins := { s.pins with home := true } }) :=
    (setPins_only _ _).within.also (headHome_moves _)
  obtain ⟨closes, stays⟩ := closeIfDone_cases (s := headHome { s with pins := { s.pins with home := true } }) (.inl rfl)
  have closing := closeIfDone_moves (headHome { s with pins := { s.pins with home := true } })
  refine ⟨closeIfDone (headHome { s with pins := { s.pins with home := true } }), ?_, closeIfDone_due rfl, closing .pins (by decide),
    closeIfDone_head _, fun hd hm => ?_, fun h => ?_, homed.within.also closing⟩
  · rw [exec_homeSwitchClose]; exact if_pos hs
  · rw [closes hd hm]
    exact (closeRound_closed _).from rfl rfl rfl rfl rfl rfl
  · rw [stays h]; exact homed

/-- The head whose return has run out (R60). -/
def returnFailed (t0 : Nat) (s : State) : State :=
  noticeBoth (.drumFault .head s.round.order)
    { s with now := max s.now (t0 + 30000000), head := { s.head with state := .fault, returnTimer := none } }

theorem returnFailed_moves (t0 : Nat) (s : State) : Moves [.now, .links, .head] s (returnFailed t0 s) := by
  intro p hp; cases p <;> first | rfl | exact absurd (by decide) hp

theorem returnLimit_fails (s : State) (hs : s.head.state = .returning) (t0 : Nat) (ht : s.head.returnTimer = some t0) :
    ∃ u, exec .returnLimit s = .next (finishStep u) ∧ u.now = max s.now (t0 + 30000000) ∧
         u.head = { s.head with state := .fault, returnTimer := none } ∧
         NoticedToBoth (.drumFault .head s.round.order) u ∧
         (s.round.state = .draining → (∀ c, s.round.members.get c = none) → RoundClosed { s with now := u.now } u) ∧
         (s.round.state ≠ .draining ∨ (∃ c, s.round.members.get c ≠ none) → Moves [.now, .links, .head] s u) ∧
         Moves [.now, .links, .book, .round, .drum, .head, .mount, .selectDue] s u := by
  have jump : jumpPast s.head.returnTimer returnLimitLength s = { s with now := max s.now (t0 + 30000000) } := by rw [ht]; rfl
  have failed := returnFailed_moves t0 s
  have closing := closeIfDone_moves (returnFailed t0 s)
  have now : (closeIfDone (returnFailed t0 s)).now = max s.now (t0 + 30000000) := closing .now (by decide)
  obtain ⟨closes, stays⟩ := closeIfDone_cases (s := returnFailed t0 s) (.inr rfl)
  refine ⟨closeIfDone (returnFailed t0 s), ?_, now, closeIfDone_head _,
    closeIfDone_keeps_notice (noticeBoth_noticed _ _) (by simp [Notice.kind]) (by simp [Notice.kind]), fun hd hm => ?_, fun h => ?_,
    failed.within.also closing⟩
  · rw [exec_returnLimit]
    unfold execReturnLimit
    rw [if_pos ⟨hs, by rw [ht]; rfl⟩]
    dsimp only
    rw [jump]
    rfl
  · rw [now, closes hd hm]
    exact (closeRound_closed _).from rfl rfl rfl rfl rfl rfl
  · rw [stays h]; exact failed

/-! ### The limits of the drum (R54 to R56) -/

theorem now_drum_moves (now : Nat) (d : Drum) (s : State) : Moves [.now, .drum] s { s with now := now, drum := d } := by
  intro p hp; cases p <;> first | rfl | exact absurd (by decide) hp

/-- The drum's limits outside a round's start and scan. -/
theorem drumLimits (s : State) :
    (s.drum.state = .spinning → ∀ t0, s.drum.lockTimer = some t0 → s.round.state = .closed ∨ s.round.state = .draining →
       ∃ t, exec .lockLimit s = .next t ∧ t.now = max s.now (t0 + 20000000) ∧
         t.drum = { s.drum with lockTimer := none } ∧ Moves [.now, .drum] s t) ∧
     (s.drum.state ≠ .spinning ∨ s.drum.lockTimer = none → exec .lockLimit s = .next s) ∧
     (∀ t0, s.drum.idleTimer = some t0 →
       ∃ t, exec .idleStop s = .next t ∧ t.now = max s.now (t0 + 60000000) ∧ DriveCut { s with now := t.now } t ∧
         Moves [.now, .drum] s t) ∧
     (s.drum.idleTimer = none → exec .idleStop s = .next s) ∧
     (s.drum.state = .coasting → ∀ t0, s.drum.coastTimer = some t0 →
       ∃ t, exec .coastStop s = .next t ∧ t.now = max s.now (t0 + 3000000) ∧
         t.drum = { s.drum with state := .stopped, coastTimer := none, lastPulse := none, period := none } ∧
         t.converter = { s.converter with gathering := none } ∧ Moves [.now, .drum, .converter] s t) ∧
     (s.drum.state ≠ .coasting ∨ s.drum.coastTimer = none → exec .coastStop s = .next s) := by
  rw [exec_lockLimit, exec_idleStop, exec_coastStop]
  refine ⟨fun hs t0 ht hr => ?_, fun h => ?_, fun t0 ht => ?_, fun h => ?_, fun hs t0 ht => ?_, fun h => ?_⟩
  · have jump : jumpPast s.drum.lockTimer lockLimitLength s = { s with now := max s.now (t0 + 20000000) } := by rw [ht]; rfl
    refine ⟨{ s with now := max s.now (t0 + 20000000), drum := { s.drum with lockTimer := none } }, ?_, rfl, rfl, now_drum_moves _ _ _⟩
    unfold execLockLimit
    rw [if_pos ⟨hs, by rw [ht]; rfl⟩]
    dsimp only
    rw [jump, if_neg]
    rintro (h | h) <;> rw [h] at hr <;> simp at hr
  · refine if_neg ?_
    rintro ⟨h1, h2⟩
    rcases h with h | h
    · exact h h1
    · rw [h] at h2; cases h2
  · have jump : jumpPast s.drum.idleTimer idleStopLength s = { s with now := max s.now (t0 + 60000000) } := by rw [ht]; rfl
    have now : (cutDrive { s with now := max s.now (t0 + 60000000) }).now = max s.now (t0 + 60000000) := cutDrive_moves _ .now (by decide)
    refine ⟨cutDrive { s with now := max s.now (t0 + 60000000) }, ?_, now, ?_, (jumpTo_moves _ s).within.also (cutDrive_moves _)⟩
    · unfold execIdleStop
      rw [if_pos (by rw [ht]; rfl), jump]
    · rw [now]; exact cutDrive_cut _
  · unfold execIdleStop
    rw [h]; rfl
  · have jump : jumpPast s.drum.coastTimer coastStopLength s = { s with now := max s.now (t0 + 3000000) } := by rw [ht]; rfl
    refine ⟨{ s with now := max s.now (t0 + 3000000),
                     drum := { s.drum with state := .stopped, coastTimer := none, lastPulse := none, period := none },
                     converter := { s.converter with gathering := none } }, ?_, rfl, rfl, rfl, ?_⟩
    · unfold execCoastStop
      rw [if_pos ⟨hs, by rw [ht]; rfl⟩]
      dsimp only
      rw [jump]
    · intro p hp; cases p <;> first | rfl | exact absurd (by decide) hp
  · refine if_neg ?_
    rintro ⟨h1, h2⟩
    rcases h with h | h
    · exact h h1
    · rw [h] at h2; cases h2

/-- Settles O33: the head's return and its limit, and the limits of the drum. -/
theorem headAndDrumLimitsRunOut : Obligations.HeadAndDrumLimitsRunOut := by
  unfold Obligations.HeadAndDrumLimitsRunOut
  refine ⟨fun s hs => ⟨?_, homeSwitch_returns s hs, returnLimit_fails s hs, fun h => ?_⟩, drumLimits⟩
  · rw [stepperMoving_iff]; exact and_iff_right hs
  · rw [exec_returnLimit]
    refine if_neg fun k => ?_
    rw [h] at k
    exact Bool.noConfusion k.2

end Sys2Proof.Machine
end

section
/-! PROOF. The photocell (O34), the references (O35), the levels (O36) and the line store (O37). -/

namespace Sys2Proof.Machine

/-! ### Bits on a line, most significant first -/

/-- The bits of a number read least significant first. -/
theorem testBit_foldr (bits : List Bool) (i : Nat) :
    (bits.foldr (fun (b : Bool) (n : Nat) => 2 * n + (if b then 1 else 0)) 0).testBit i = bits[i]?.getD false := by
  induction bits generalizing i with
  | nil => simp
  | cons b rest ih =>
    have half : ∀ n : Nat, (2 * n + (if b then 1 else 0)) / 2 = n := fun n => by split <;> omega
    rw [List.foldr_cons]
    cases i with
    | zero => cases b <;> simp [Nat.testBit_zero]
    | succ i => rw [Nat.testBit_succ, half, ih, List.getElem?_cons_succ]

/-- The bits of a number read most significant first, from the last one on. -/
theorem testBit_foldl (bits : List Bool) (i : Nat) :
    (bits.foldl (fun (n : Nat) (b : Bool) => 2 * n + (if b then 1 else 0)) 0).testBit i = bits.reverse[i]?.getD false := by
  rw [List.foldl_eq_foldr_reverse, testBit_foldr]

theorem ofMsbFirst_getLsbD {w : Nat} (bits : List Bool) {i : Nat} (hi : i < w) :
    (ofMsbFirst w bits).getLsbD i = bits.reverse[i]?.getD false := by
  rw [ofMsbFirst, BitVec.getLsbD_ofNat, testBit_foldl]
  simp [hi]

theorem length_msbFirst {w : Nat} (v : BitVec w) : (msbFirst v).length = w := by simp [msbFirst]

theorem msbFirst_getElem {w : Nat} (v : BitVec w) {i : Nat} (hi : i < (msbFirst v).length) :
    (msbFirst v)[i] = v.getLsbD (w - 1 - i) := by simp [msbFirst]

theorem value_of_bits {w : Nat} (v : BitVec w) : ofMsbFirst w (msbFirst v) = v := by
  refine BitVec.eq_of_getLsbD_eq fun i hi => ?_
  have hlen := length_msbFirst v
  rw [ofMsbFirst_getLsbD _ hi, List.getElem?_reverse (by omega), List.getElem?_eq_getElem (by omega), msbFirst_getElem, hlen]
  show v.getLsbD (w - 1 - (w - 1 - i)) = _
  congr 1; omega

theorem bits_of_value {w : Nat} {bits : List Bool} (h : bits.length = w) : msbFirst (ofMsbFirst w bits) = bits := by
  refine List.ext_getElem (by rw [length_msbFirst, h]) fun i hi hj => ?_
  rw [msbFirst_getElem, ofMsbFirst_getLsbD _ (by omega), List.getElem?_reverse (by omega), List.getElem?_eq_getElem (by omega)]
  simp only [Option.getD_some]
  congr 1; omega

/-! ### The photocell (R68, R69) -/

theorem exec_photocellReading (v : BitVec 12) (s : State) : exec (.photocellReading v) s = execPhotocellReading v s := by rfl

theorem clockedBits_iff (events : List PhotocellEvent) (bits : List Bool) :
    clockedBits events = some bits ↔ events = bits.map .clock ++ [.select true] := by
  constructor
  · intro h
    induction events using clockedBits.induct generalizing bits with
    | case1 => cases h; rfl
    | case2 b rest ih =>
      rw [clockedBits] at h
      cases hr : clockedBits rest with
      | none => rw [hr] at h; cases h
      | some more => rw [hr] at h; cases h; rw [ih more hr]; rfl
    | case3 events h1 h2 =>
      rw [clockedBits] at h
      · cases h
      · exact h1
      · exact h2
  · rintro rfl
    induction bits with
    | nil => rfl
    | cons b bits ih =>
      show (clockedBits (bits.map .clock ++ [.select true])).map (b :: ·) = _
      rw [ih]; rfl

theorem photocellRow_iff (events : List PhotocellEvent) (i : Instr) :
    photocellRow events = some i ↔ ∃ v : BitVec 12, i = .photocellReading v ∧ events = photocellTransfer v := by
  constructor
  · intro h
    unfold photocellRow at h
    split at h
    · rename_i rest
      split at h
      · rename_i bits hbits
        split at h
        · rename_i hlen
          cases h
          refine ⟨_, rfl, ?_⟩
          rw [photocellTransfer, bits_of_value hlen, (clockedBits_iff rest bits).mp hbits]
        · cases h
      · cases h
    · cases h
  · rintro ⟨v, rfl, rfl⟩
    have hbits := (clockedBits_iff ((msbFirst v).map .clock ++ [.select true]) (msbFirst v)).mpr rfl
    simp only [photocellRow, photocellTransfer, hbits, length_msbFirst, value_of_bits, if_true]

/-- Settles O34: the instants, the reading taken, and the transfer on the lines. -/
theorem photocellReadingIsGathered : Obligations.PhotocellReadingIsGathered := by
  unfold Obligations.PhotocellReadingIsGathered
  refine ⟨⟨fun tt samples j => ⟨fun hj => if_pos hj, ?_⟩, fun v s => ⟨fun hnone => ?_, ?_⟩⟩, fun v => ?_, photocellRow_iff⟩
  · rw [readingInstant, if_neg (by simp [referenceReadings])]
    simp [referenceReadings]
  · rw [exec_photocellReading]; unfold execPhotocellReading; rw [hnone]
  · rintro g samples hg rfl
    rw [exec_photocellReading]
    unfold execPhotocellReading
    rw [hg]
    refine ⟨fun hmore => ⟨_, if_pos hmore, ?_, rfl, rfl⟩, fun hfull => if_neg (Nat.not_lt.mpr hfull)⟩
    intro p hp; cases p <;> first | rfl | exact absurd (by decide) hp
  · simp only [photocellTransfer, msbFirst, List.map_map]
    rfl

/-! ### The references (R71, R72) -/

theorem sumOf_eq (xs : List Nat) : sumOf xs = xs.sum := List.sum_eq_foldl.symm

theorem referenceOf_append {white black : List Nat} (line : List Nat) (hw : white.length = 16) (hb : black.length = 16) :
    referenceOf (white ++ black ++ line) =
      { white := white.sum / 16, black := black.sum / 16,
        valid := decide (1024 ≤ white.sum / 16) && decide (black.sum / 16 + 512 ≤ white.sum / 16) } := by
  have h1 : (white ++ black ++ line).take 16 = white := by
    rw [List.append_assoc, ← hw, List.take_left]
  have h2 : ((white ++ black ++ line).drop 16).take 16 = black := by
    rw [List.append_assoc, ← hw, List.drop_left, hw, ← hb, List.take_left]
  unfold referenceOf
  simp only [h1, h2, sumOf_eq]

/-- Settles O35: the means with their verdict, and the pair they are folded into. -/
theorem referencesAreMeansWithASpan : Obligations.ReferencesAreMeansWithASpan := by
  unfold Obligations.ReferencesAreMeansWithASpan
  constructor
  · rintro white black line r hw hb rfl
    rw [referenceOf_append line hw hb]
    refine ⟨rfl, rfl, ?_⟩
    simp only [Bool.and_eq_true, decide_eq_true_eq]
    omega
  · rintro pair r q rfl h1 h2 h3 hpair
    cases pair with
    | none =>
      have hspan : foldReference none r = { white := r.white, black := r.black } := by
        unfold foldReference limitSpan; exact if_neg (by simp only; omega)
      rw [hspan]
      exact ⟨h1, h2, h3, fun _ => rfl, fun p hp => by cases hp⟩
    | some p =>
      obtain ⟨k1, k2, k3⟩ := hpair p rfl
      have hwhite : (foldReference (some p) r).white = (3 * p.white + r.white + 2) / 4 := by
        simp only [foldReference, limitSpan]; split <;> rfl
      have hblack : (foldReference (some p) r).black =
          if (3 * p.white + r.white + 2) / 4 < (3 * p.black + r.black + 2) / 4 + 512 then (3 * p.white + r.white + 2) / 4 - 512
          else (3 * p.black + r.black + 2) / 4 := by
        simp only [foldReference, limitSpan]; split <;> rfl
      refine ⟨by omega, by omega, ?_, fun h => by simp at h, fun x hx => ?_⟩
      · rw [hwhite, hblack]; split <;> omega
      · cases hx
        exact ⟨hwhite, by rw [hwhite, hblack]⟩

/-! ### The levels (R77, R78, R80) -/

theorem normalise_above {p : ReferencePair} {s : Nat} (h : p.black < s) :
    normalise p s = min 1023 ((s - p.black) * 1024 / (p.white - p.black)) := if_neg (Nat.not_le.mpr h)

theorem normalise_full {p : ReferencePair} {s : Nat} (hp : p.black + 512 ≤ p.white)
    (h : 1024 * p.white < 1024 * s + (p.white - p.black)) : normalise p s = 1023 := by
  rw [normalise_above (by omega)]
  have : 1023 ≤ (s - p.black) * 1024 / (p.white - p.black) := by
    rw [Nat.le_div_iff_mul_le (by omega)]; omega
  omega

theorem normalise_mono (p : ReferencePair) {s u : Nat} (h : s ≤ u) : normalise p s ≤ normalise p u := by
  by_cases hs : s ≤ p.black
  · rw [normalise, if_pos hs]; exact Nat.zero_le _
  · rw [normalise_above (by omega), normalise_above (by omega)]
    have scaled : (s - p.black) * 1024 / (p.white - p.black) ≤ (u - p.black) * 1024 / (p.white - p.black) :=
      Nat.div_le_div_right (Nat.mul_le_mul_right _ (Nat.sub_le_sub_right h _))
    omega

theorem normalise_le (p : ReferencePair) (s : Nat) : normalise p s ≤ 1023 := by
  unfold normalise; split <;> omega

theorem levelOf_eq (t : Curve) (n : Nat) (h : n / 64 + 1 < 17) :
    levelOf t n = t[n / 64] + ((t[n / 64 + 1] - t[n / 64]) * (n - 64 * (n / 64)) + 32) / 64 := by
  unfold levelOf
  have get : ∀ (i : Nat) (hi : i < 17), t.toList.getD i 0 = t[i] := by
    intro i hi
    have hlen : i < t.toList.length := by simpa using hi
    rw [List.getD_eq_getElem?_getD, List.getElem?_eq_getElem hlen]
    simp
  dsimp only
  rw [get (n / 64) (by omega), get (n / 64 + 1) h]

theorem step_le {d f : Nat} (h : f < 64) : (d * f + 32) / 64 ≤ d := by
  have : d * f ≤ d * 63 := Nat.mul_le_mul_left _ (by omega)
  omega

/-- A curve that does not decrease from one point to the next does not decrease. -/
theorem curve_mono {t : Curve} (ht : ∀ j (h : j + 1 < 17), t[j] ≤ t[j + 1]) {a b : Nat} (hab : a ≤ b) (hb : b < 17) : t[a] ≤ t[b] := by
  induction b with
  | zero => obtain rfl : a = 0 := by omega
            exact Nat.le_refl _
  | succ b ih =>
    rcases Nat.le_succ_iff.mp hab with h | rfl
    · exact Nat.le_trans (ih h (by omega)) (ht b hb)
    · exact Nat.le_refl _

theorem levelOf_between {t : Curve} {n : Nat} (h : n / 64 + 1 < 17) (ht : t[n / 64] ≤ t[n / 64 + 1]) :
    t[n / 64] ≤ levelOf t n ∧ levelOf t n ≤ t[n / 64 + 1] := by
  rw [levelOf_eq t n h]
  have := step_le (d := t[n / 64 + 1] - t[n / 64]) (f := n - 64 * (n / 64)) (by omega)
  omega

theorem levelOf_mono {t : Curve} (ht : ∀ j (h : j + 1 < 17), t[j] ≤ t[j + 1]) {n m : Nat} (hnm : n ≤ m) (hm : m ≤ 1023) :
    levelOf t n ≤ levelOf t m := by
  have hn' : n / 64 + 1 < 17 := by omega
  have hm' : m / 64 + 1 < 17 := by omega
  rcases Nat.lt_or_eq_of_le (Nat.div_le_div_right hnm : n / 64 ≤ m / 64) with h | h
  · exact Nat.le_trans (Nat.le_trans (levelOf_between hn' (ht _ hn')).2 (curve_mono ht h (by omega)))
      (levelOf_between hm' (ht _ hm')).1
  · rw [levelOf_eq t n hn', levelOf_eq t m hm']
    simp only [h]
    have : (t[m / 64 + 1] - t[m / 64]) * (n - 64 * (m / 64)) ≤ (t[m / 64 + 1] - t[m / 64]) * (m - 64 * (m / 64)) :=
      Nat.mul_le_mul_left _ (by omega)
    omega

/-- Settles O36: the normalised value, the level of the curve, and the line they make. -/
theorem levelsFollowTheReadings : Obligations.LevelsFollowTheReadings := by
  unfold Obligations.LevelsFollowTheReadings
  refine ⟨fun p s hp => ⟨fun h => if_pos h, normalise_above, fun h => normalise_full hp (by omega), normalise_full hp, normalise_le p s,
    fun u hu => normalise_mono p hu⟩, ?_, fun p t reference picture hr => ?_⟩
  · rintro t n i f hn rfl rfl ht
    have h : n / 64 + 1 < 17 := by omega
    obtain ⟨h1, h2⟩ := levelOf_between h (ht _ h)
    exact ⟨h, levelOf_eq t n h, h1, h2, fun m hnm hm => levelOf_mono ht hnm hm⟩
  · have hdrop : (reference ++ picture).drop referenceReadings = picture := by
      rw [show referenceReadings = reference.length from hr.symm, List.drop_left]
    unfold convertLine
    rw [hdrop]
    exact ⟨List.length_map _, fun k s hk => by rw [List.getElem?_map, hk]; rfl⟩

/-! ### The line store (R85 to R94) -/

theorem anyMark_iff (m : PerChan Bool) : anyMark m = true ↔ ∃ c, m.get c = true := by
  constructor
  · intro h
    simp only [anyMark, Bool.or_eq_true] at h
    rcases h with ((h | h) | h) | h
    · exact ⟨.c1, h⟩
    · exact ⟨.c2, h⟩
    · exact ⟨.c3, h⟩
    · exact ⟨.c4, h⟩
  · rintro ⟨c, h⟩
    cases c <;> simp only [PerChan.get] at h <;> simp [anyMark, h]

theorem find_insertLine {h : HeldLine} {m : Nat} : ∀ {l : List HeldLine}, (∀ x ∈ l, x.number ≠ h.number) →
    (insertLine h l).find? (fun x => x.number == m) = if m = h.number then some h else l.find? fun x => x.number == m
  | [], _ => by
    by_cases e : m = h.number
    · simp [insertLine, e]
    · simp [insertLine, e, show ¬ h.number = m from fun k => e k.symm]
  | x :: rest, hn => by
    have ih := find_insertLine (m := m) fun y hy => hn y (List.mem_cons_of_mem _ hy)
    have hx : x.number ≠ h.number := hn x List.mem_cons_self
    unfold insertLine
    split
    · by_cases e : m = h.number
      · simp [e]
      · rw [if_neg e, List.find?_cons, show (h.number == m) = false by simpa using Ne.symm e]
    · rw [List.find?_cons, List.find?_cons, ih]
      by_cases e : x.number = m
      · simp [e, show m ≠ h.number from e ▸ hx]
      · rw [show (x.number == m) = false by simpa using e]

/-- A filed line is found as filed, and every other line as before (R85, R86). -/
theorem findLine_fileLine (n : Nat) (levels : List Nat) (marks : PerChan Bool) (ls : LineStore) (m : Nat) :
    findLine (fileLine n levels marks ls).1 m =
      if m = n ∧ findLine ls n = none ∧ ls.held.length < 64 ∧ anyMark marks = true then
        some { number := n, levels := levels, marks := marks }
      else findLine ls m := by
  unfold fileLine
  by_cases hf : (findLine ls n).isSome = true
  · rw [if_pos hf, if_neg]
    rintro ⟨_, h, _⟩; rw [h] at hf; cases hf
  · have hnone : findLine ls n = none := by simpa using hf
    rw [if_neg hf]
    by_cases hroom : ls.held.length < slotCount
    · rw [if_pos hroom]
      by_cases ha : anyMark marks = true
      · rw [if_pos ha]
        have := find_insertLine (h := { number := n, levels := levels, marks := marks }) (m := m) (findLine_none.mp hnone)
        refine this.trans ?_
        by_cases e : m = n
        · rw [if_pos e, if_pos ⟨e, hnone, hroom, ha⟩]
        · rw [if_neg e, if_neg fun k => e k.1]; rfl
      · rw [if_neg ha, if_neg fun k => ha k.2.2.2]
    · rw [if_neg hroom, if_neg fun k => hroom k.2.2.1]

/-- What a filing request leaves where no slot is taken, and its answer (R86; log entries 19 and 26). -/
theorem fileLine_cases (n : Nat) (levels : List Nat) (marks : PerChan Bool) (ls : LineStore) :
    (fileLine n levels marks ls).1.depth = ls.depth ∧
      (findLine ls n ≠ none → fileLine n levels marks ls = (ls, true)) ∧
      (findLine ls n = none → 64 ≤ ls.held.length → fileLine n levels marks ls = (ls, false)) ∧
      (findLine ls n = none → ls.held.length < 64 → (fileLine n levels marks ls).2 = true ∧
        (anyMark marks = false → (fileLine n levels marks ls).1 = ls)) := by
  unfold fileLine
  refine ⟨?_, fun h => ?_, fun h hfull => ?_, fun h hroom => ?_⟩
  · split
    · rfl
    · split
      · split <;> rfl
      · rfl
  · rw [if_pos (Option.isSome_iff_ne_none.mpr h)]
  · rw [if_neg (by simp [h]), if_neg (show ¬ ls.held.length < slotCount from Nat.not_lt.mpr hfull)]
  · rw [if_neg (by simp [h]), if_pos (show ls.held.length < slotCount from hroom)]
    split
    · rename_i ha; exact ⟨rfl, fun k => by rw [ha] at k; cases k⟩
    · exact ⟨rfl, fun _ => rfl⟩

theorem askLine_congr {c : Chan} {m : Nat} {ls ls' : LineStore} (h : findLine ls' m = findLine ls m) : askLine c m ls' = askLine c m ls := by
  unfold askLine; rw [h]

/-- What a release makes of a held line (R93). -/
def releasedLine (c : Chan) (release : Bool) (h : HeldLine) : Option HeldLine :=
  if release then if anyMark (h.marks.set c false) then some { h with marks := h.marks.set c false } else none else some h

theorem releasedLine_number {c : Chan} {b : Bool} {h x : HeldLine} (e : releasedLine c b h = some x) : x.number = h.number := by
  unfold releasedLine at e
  split at e
  · split at e
    · cases e; rfl
    · cases e
  · cases e; rfl

theorem releaseWhere_cons (c : Chan) (p : Nat → Bool) (a : HeldLine) (rest : List HeldLine) :
    releaseWhere c p (a :: rest) =
      match releasedLine c (p a.number) a with
      | some x => x :: releaseWhere c p rest
      | none => releaseWhere c p rest := by
  rw [releaseWhere, releasedLine]
  dsimp only
  split
  · split <;> rfl
  · rfl

theorem find_releaseWhere {c : Chan} {p : Nat → Bool} {m : Nat} : ∀ {l : List HeldLine}, risingNumbers l = true →
    (releaseWhere c p l).find? (fun x => x.number == m) = (l.find? fun x => x.number == m).bind (releasedLine c (p m))
  | [], _ => rfl
  | a :: rest, hr => by
    obtain ⟨hbelow, hrest⟩ := risingNumbers_cons.mp hr
    have ih := find_releaseWhere (c := c) (p := p) (m := m) hrest
    rw [releaseWhere_cons, List.find?_cons]
    by_cases e : a.number = m
    · subst e
      rw [show (a.number == a.number) = true from beq_self_eq_true _, Option.bind_some]
      cases hx : releasedLine c (p a.number) a with
      | some x => simp [releasedLine_number hx]
      | none =>
        refine List.find?_eq_none.mpr fun x hx' => ?_
        obtain ⟨y, hy, hxy, _⟩ := mem_releaseWhere hx'
        have := hbelow y hy
        simp only [beq_iff_eq]; omega
    · rw [show (a.number == m) = false by simpa using e, ← ih]
      cases hx : releasedLine c (p a.number) a with
      | some x => simp [releasedLine_number hx, e]
      | none => rfl

/-- A release takes one channel's mark where `p` says so and leaves every other answer (R89 to R92). -/
theorem askLine_releaseWhere {c : Chan} {p : Nat → Bool} {ls : LineStore} (hr : risingNumbers ls.held = true) (d : Chan) (m : Nat) :
    askLine d m { ls with held := releaseWhere c p ls.held } = if d = c ∧ p m = true then none else askLine d m ls := by
  unfold askLine
  rw [show findLine { ls with held := releaseWhere c p ls.held } m = (findLine ls m).bind (releasedLine c (p m)) from find_releaseWhere hr]
  cases findLine ls m with
  | none => simp
  | some h =>
    rw [Option.bind_some, releasedLine]
    by_cases hp : p m = true
    · rw [if_pos hp]
      by_cases ha : anyMark (h.marks.set c false) = true
      · rw [if_pos ha]
        by_cases hd : d = c
        · subst hd; simp [hp]
        · simp [hd, PerChan.get_set_ne]
      · rw [if_neg ha]
        by_cases hd : d = c
        · simp [hd, hp]
        · have hno : h.marks.get d = false := by
            rw [← PerChan.get_set_ne h.marks false hd, ← Bool.not_eq_true]
            exact fun k => ha ((anyMark_iff _).mpr ⟨d, k⟩)
          simp [hd, hno]
    · rw [if_neg hp]
      simp [hp]

/-- A line is not held exactly where no channel is answered YES, since no slot has an empty mark set (R83, R93). -/
theorem findLine_eq_none_iff {ls : LineStore} (h : ls.wf = true) (m : Nat) : findLine ls m = none ↔ ∀ d, askLine d m ls = none := by
  unfold askLine
  cases hf : findLine ls m with
  | none => simp
  | some x =>
    obtain ⟨_, _, hmarks⟩ := (LineStore.wf_iff ls).mp h
    obtain ⟨c, hc⟩ := (anyMark_iff _).mp (hmarks x (List.mem_of_find?_eq_some hf))
    simp only [reduceCtorEq, false_iff]
    exact fun k => by simpa [hc] using k c

/-- Settles O37: a filing request, the releases and the flush. -/
theorem lineStoreFilesAndReleases : Obligations.LineStoreFilesAndReleases := by
  unfold Obligations.LineStoreFilesAndReleases
  constructor
  · intro n levels marks ls ls' b hw hfile
    have wf := fileLine_wf n levels marks ls hw
    have find := findLine_fileLine n levels marks ls
    obtain ⟨depth, held, full, room⟩ := fileLine_cases n levels marks ls
    rw [hfile] at wf find depth held full room
    refine ⟨wf, depth, fun c m hm => askLine_congr ((find m).trans (if_neg fun k => hm k.1)), fun h => ?_, fun h => ⟨fun hl => ?_, fun hl => ?_⟩⟩
    · have := held h; simp only [Prod.mk.injEq] at this; exact ⟨this.2, this.1⟩
    · have := full h hl; simp only [Prod.mk.injEq] at this; exact ⟨this.2, this.1⟩
    · refine ⟨(room h hl).1, fun c => ?_⟩
      unfold askLine
      rw [find n]
      by_cases ha : anyMark marks = true
      · rw [if_pos ⟨rfl, h, hl, ha⟩]
      · rw [if_neg fun k => ha k.2.2.2, h]
        have hno : marks.get c = false := by
          rw [← Bool.not_eq_true]; exact fun k => ha ((anyMark_iff _).mpr ⟨c, k⟩)
        simp [hno]
  · intro c n ls hw
    obtain ⟨_, hr, _⟩ := (LineStore.wf_iff ls).mp hw
    have ask : ∀ d m, askLine d m (releaseMark c n ls) = if d = c ∧ m = n then none else askLine d m ls := fun d m => by
      rw [releaseMark, askLine_releaseWhere hr]; simp
    refine ⟨releaseMark_wf c n ls hw, releaseAll_wf c ls hw, flushLines_wf ls, ask, fun d m => ?_,
      fun d m => (flushLines_unmarked d ls).askLine m, rfl, fun m => ?_⟩
    · rw [releaseAll, askLine_releaseWhere hr]; simp
    · rw [findLine_eq_none_iff (releaseMark_wf c n ls hw)]
      simp only [ask]
      by_cases hm : m = n
      · simp only [hm, and_true, true_and]
        constructor
        · intro h; right; intro d hd; simpa [hd] using h d
        · rintro (h | h) d
          · split
            · rfl
            · exact h d
          · split
            · rfl
            · rename_i hd; exact h d hd
      · simp [hm]

end Sys2Proof.Machine
end

section
/-! PROOF. A scanning revolution (O31): a line filed, a revolution held, and the lamp fault. -/

namespace Sys2Proof.Machine

/-- The state at the end of a revolution within the loose tolerance (R50, R51, R53). -/
def judged (now p : Nat) (k : LpmClass) (s : State) : State :=
  { s with now := now,
           drum := { s.drum with lastPulse := some now, period := some p, looseMiss := 0,
                                 drive := correctedDrive s.drum.drive p k.period } }

theorem lockedRevolution_judged {now p : Nat} {k : LpmClass} {g : Option Gathering} {s : State} (h : withinLoose p k.period = true) :
    lockedRevolution p k.period g (regulated now p k s) = scanningRevolution g (judged now p k s) := if_pos h

/-- A pulse that ends a revolution of a LOCKED drum within the loose tolerance. -/
theorem exec_indexPulse_judged {time last : Nat} {s : State} {k : LpmClass} (hs : s.drum.state = .locked) (ht : s.drum.target = some k)
    (hl : s.drum.lastPulse = some last) (hloose : withinLoose (min 16777215 (max s.now time - last)) k.period = true) :
    exec (.indexPulse time) s = .next (finishStep (beginGathering (max s.now time) (scanningRevolution s.converter.gathering
      (judged (max s.now time) (min 16777215 (max s.now time - last)) k s)))) := by
  rw [exec_indexPulse_revolution ht hl (.inr hs), if_pos hs, lockedRevolution_judged hloose]

/-! ### The filing of a line (R58, R85, R86) -/

/-- The filing request for the line at the head position. -/
def filed (levels : List Nat) (s : State) : LineStore × Bool := fileLine s.head.position levels (filingMarks s) s.lineStore

theorem requestFiling_accepted {levels : List Nat} {s : State} (h : (filed levels s).2 = true) :
    requestFiling levels s = lineFiled { s with lineStore := (filed levels s).1 } := by
  unfold requestFiling
  unfold filed at h ⊢
  split
  · rename_i ls e; rw [e]
  · rename_i ls e; rw [e] at h; cases h

theorem requestFiling_full {levels : List Nat} {s : State} (h : (filed levels s).2 = false) :
    requestFiling levels s = holdRevolution s := by
  unfold requestFiling
  unfold filed at h
  split
  · rename_i ls e; rw [e] at h; cases h
  · rfl

theorem lineFiled_moves (s : State) : Moves [.round, .head, .pins] s (lineFiled s) := by
  unfold lineFiled
  dsimp only
  split <;> (intro p hp; cases p <;> first | rfl | exact absurd (by decide) hp)

/-- A line filed for a round that is SCANNING: the head steps, and line N − 1 completes the scan (R34, R58). -/
theorem lineFiled_spec {s : State} {n : Nat} {o : Order} (hn : s.round.order = some n) (ho : findOrder s n = some o)
    (hs : s.round.state = .scanning) :
    (lineFiled s).head = { s.head with position := s.head.position + 1 } ∧ (lineFiled s).pins = { s.pins with home := false } ∧
      (lineFiled s).round = { s.round with
        state := if s.head.position + 1 = o.lines then .draining else .scanning,
        scanComplete := decide (s.head.position + 1 = o.lines) || s.round.scanComplete } := by
  have hlines := roundLines_eq hn ho
  unfold lineFiled
  dsimp only
  rw [hlines]
  by_cases h : s.head.position + 1 = o.lines
  · rw [if_pos h]
    exact ⟨rfl, rfl, by simp [h]⟩
  · rw [if_neg h]
    exact ⟨rfl, rfl, by simp [h, ← hs]⟩

theorem requestFiling_moves (levels : List Nat) (s : State) : Moves [.round, .head, .lineStore, .pins] s (requestFiling levels s) := by
  cases h : (filed levels s).2 with
  | true =>
    rw [requestFiling_accepted h]
    have hstore : Moves [.lineStore] s { s with lineStore := (filed levels s).1 } := by
      intro p hp; cases p <;> first | rfl | exact absurd (by decide) hp
    exact hstore.within.also (lineFiled_moves _)
  | false =>
    rw [requestFiling_full h]
    intro p hp; cases p <;> first | rfl | exact absurd (by decide) hp

theorem filed_accepted {levels : List Nat} {s : State} (h : s.lineStore.held.length < 64 ∨ findLine s.lineStore s.head.position ≠ none) :
    (filed levels s).2 = true := by
  obtain ⟨_, held, _, room⟩ := fileLine_cases s.head.position levels (filingMarks s) s.lineStore
  unfold filed
  by_cases hf : findLine s.lineStore s.head.position = none
  · exact (room hf (h.resolve_right fun k => k hf)).1
  · rw [held hf]

theorem filed_full {levels : List Nat} {s : State} (h : 64 ≤ s.lineStore.held.length) (hf : findLine s.lineStore s.head.position = none) :
    (filed levels s).2 = false := by
  obtain ⟨_, _, full, _⟩ := fileLine_cases s.head.position levels (filingMarks s) s.lineStore
  unfold filed
  rw [full hf h]

/-- The line store after a filing request, for the line filed and for the others. -/
theorem requestFiling_lineStore (levels : List Nat) (s : State) :
    (requestFiling levels s).lineStore.depth = s.lineStore.depth ∧
      (∀ m, m ≠ s.head.position → findLine (requestFiling levels s).lineStore m = findLine s.lineStore m) ∧
      (findLine s.lineStore s.head.position ≠ none ∨ anyMark (filingMarks s) = false → (requestFiling levels s).lineStore = s.lineStore) ∧
      (s.lineStore.held.length < 64 → findLine s.lineStore s.head.position = none → anyMark (filingMarks s) = true →
        findLine (requestFiling levels s).lineStore s.head.position =
          some { number := s.head.position, levels := levels, marks := filingMarks s }) := by
  have find := findLine_fileLine s.head.position levels (filingMarks s) s.lineStore
  obtain ⟨depth, held, full, room⟩ := fileLine_cases s.head.position levels (filingMarks s) s.lineStore
  have store : (requestFiling levels s).lineStore = (filed levels s).1 ∨ (requestFiling levels s).lineStore = s.lineStore ∧
      (filed levels s).2 = false := by
    cases h : (filed levels s).2 with
    | true => rw [requestFiling_accepted h]; exact .inl (lineFiled_moves _ .lineStore (by decide))
    | false => rw [requestFiling_full h]; exact .inr ⟨rfl, rfl⟩
  unfold filed at store
  refine ⟨?_, fun m hm => ?_, fun h => ?_, fun hl hf ha => ?_⟩
  · rcases store with e | ⟨e, _⟩
    · rw [e, depth]
    · rw [e]
  · rcases store with e | ⟨e, _⟩
    · rw [e, find, if_neg fun k => hm k.1]
    · rw [e]
  · rcases store with e | ⟨e, _⟩
    · rw [e]
      by_cases hf : findLine s.lineStore s.head.position = none
      · have ha := h.resolve_left (not_not_intro hf)
        by_cases hl : s.lineStore.held.length < 64
        · exact (room hf hl).2 ha
        · rw [full hf (by omega)]
      · rw [held hf]
    · exact e
  · rcases store with e | ⟨_, e⟩
    · rw [e, find, if_pos ⟨rfl, hf, hl, ha⟩]
    · rw [(room hf hl).1] at e; cases e

/-! ### The offer of a complete gathering (R70, R72, R75) -/

theorem scanningRevolution_offers {s : State} {g : Gathering} (hm : mayFile s = true) (hg : g.readings.length = 32 + s.round.samples) :
    scanningRevolution (some g) s = offer g.readings s := by
  unfold scanningRevolution
  rw [if_pos hm]
  exact if_pos hg

theorem scanningRevolution_holds {s : State} {g : Option Gathering} (hm : mayFile s = true)
    (hg : ∀ x, g = some x → x.readings.length ≠ 32 + s.round.samples) : scanningRevolution g s = holdRevolution s := by
  unfold scanningRevolution
  rw [if_pos hm]
  cases g with
  | none => rfl
  | some x => exact if_neg (hg x rfl)

/-- The state in which a valid revolution asks for its line to be filed (R72, R75). -/
def referenced (r : LatestReference) (s : State) : State :=
  { s with converter := { s.converter with
      latest := some r, pair := some (foldReference s.converter.pair r), invalidCount := 0 } }

theorem validRevolution_eq (r : LatestReference) (readings : List Nat) (s : State) : validRevolution r readings s =
    requestFiling (convertLine (foldReference s.converter.pair r) (workingPoints s.converter) readings) (referenced r s) := rfl

/-- The state after an invalid revolution, counted and held (R75, R76). -/
def invalidHeld (r : LatestReference) (s : State) : State :=
  { s with head := { s.head with held := satSucc s.head.held },
           converter := { s.converter with latest := some r, invalidCount := s.converter.invalidCount + 1,
                                           invalidTotal := satSucc s.converter.invalidTotal } }

/-- The eighth in a row: the lamp in FAULT (R43). -/
def lampFailed (r : LatestReference) (s : State) : State :=
  { invalidHeld r s with converter := { (invalidHeld r s).converter with lamp := .fault } }

theorem invalidRevolution_counts {r : LatestReference} {s : State} (h : s.converter.invalidCount ≠ 7) :
    invalidRevolution r s = invalidHeld r s := if_neg (by omega)

theorem invalidRevolution_eighth {r : LatestReference} {s : State} (h : s.converter.invalidCount = 7) :
    invalidRevolution r s = abortForFault .lamp (lampFailed r s) := if_pos (by omega)

/-- A round that closes leaves a LOCKED drum at its class, or cuts its drive (R37, R55). -/
theorem RoundClosed.target {s u : State} (h : RoundClosed s u) (hl : u.drum.state = .locked) : u.drum.target = s.drum.target := by
  obtain ⟨_, _, h3, _, h5⟩ := h
  have idle : u.drum = (if s.drum.state = .spinning ∨ s.drum.state = .locked then { s.drum with idleTimer := some s.now }
      else s.drum) → u.drum.target = s.drum.target := by
    intro e; rw [e]; split <;> rfl
  by_cases hw : ∀ n o, s.round.order = some n → findOrder s n = some o → o.state ≠ .withdrawing
  · exact idle (h3 hw).2.2
  · obtain ⟨n, o, hn, ho, hs⟩ := round_abandons hw
    obtain ⟨k1, k2, _⟩ := h5 n o hn ho hs
    by_cases hm : ∃ tag, s.mount = .mounted tag
    · obtain ⟨tag, hm⟩ := hm
      have cut := (k1 tag hm).2.1
      exact absurd (.inr hl) cut.at_rest
    · exact idle (k2 fun tag ht => hm ⟨tag, ht⟩).2

/-- The gathering that follows, with a drum whose target is known where it is LOCKED (R69, R82). -/
theorem beginGathering_converter {pulse : Nat} {s : State} {k : LpmClass} (h : s.drum.state = .locked → s.drum.target = some k) :
    (beginGathering pulse s).converter = { s.converter with
      gathering := if s.drum.state = .locked then some { pulse := pulse, target := k.period, readings := [] } else none } := by
  by_cases hs : s.drum.state = .locked
  · rw [beginGathering_locked hs (h hs), if_pos hs]
  · rw [beginGathering_none hs, if_neg hs]

theorem closesAtOnce_congr_state {s t : State} (h1 : t.round = s.round) (h2 : t.head.state = s.head.state)
    (h3 : t.pins.home = s.pins.home) : ClosesAtOnce t ↔ ClosesAtOnce s := by
  unfold ClosesAtOnce
  rw [h1, h2, h3]

/-- A valid reference, from the revolution as judged: the line filed or the head held (R72, R86). -/
theorem valid_spec {now p n : Nat} {k : LpmClass} {s : State} {o : Order} {g : Gathering} {r : LatestReference}
    (hs : s.drum.state = .locked) (ht : s.drum.target = some k) (hr : s.round.state = .scanning) (hn : s.round.order = some n)
    (ho : findOrder s n = some o) :
    let u := beginGathering now (validRevolution r g.readings (judged now p k s))
    u.drum = (judged now p k s).drum ∧
      u.converter = { s.converter with latest := some r, pair := some (foldReference s.converter.pair r), invalidCount := 0,
                                       gathering := some { pulse := now, target := k.period, readings := [] } } ∧
      Moves [.now, .round, .drum, .head, .converter, .lineStore, .pins] s u ∧
      u.lineStore.depth = s.lineStore.depth ∧
      (∀ m, m ≠ s.head.position → findLine u.lineStore m = findLine s.lineStore m) ∧
      (s.lineStore.held.length < 64 ∨ findLine s.lineStore s.head.position ≠ none →
        u.head = { s.head with position := s.head.position + 1 } ∧ u.pins = { s.pins with home := false } ∧
        u.round = { s.round with
          state := if s.head.position + 1 = o.lines then .draining else .scanning,
          scanComplete := decide (s.head.position + 1 = o.lines) || s.round.scanComplete } ∧
        (findLine s.lineStore s.head.position ≠ none ∨ anyMark (filingMarks s) = false → u.lineStore = s.lineStore) ∧
        (findLine s.lineStore s.head.position = none → anyMark (filingMarks s) = true →
          ∃ h, findLine u.lineStore s.head.position = some h ∧ h.marks = filingMarks s ∧
            h.levels = convertLine (foldReference s.converter.pair r) (workingPoints s.converter) g.readings)) ∧
      (64 ≤ s.lineStore.held.length → findLine s.lineStore s.head.position = none →
        u.head = { s.head with held := min 65535 (s.head.held + 1) } ∧ u.lineStore = s.lineStore ∧
        u.round = s.round ∧ u.pins = s.pins) := by
  intro u
  have hu : u = beginGathering now (validRevolution r g.readings (judged now p k s)) := rfl
  rw [validRevolution_eq] at hu
  generalize hlv : convertLine (foldReference (judged now p k s).converter.pair r) (workingPoints (judged now p k s).converter)
    g.readings = levels at hu
  have request := requestFiling_moves levels (referenced r (judged now p k s))
  obtain ⟨depth, others, same, line⟩ := requestFiling_lineStore levels (referenced r (judged now p k s))
  have begins := beginGathering_moves now (requestFiling levels (referenced r (judged now p k s)))
  have drum : (requestFiling levels (referenced r (judged now p k s))).drum = (judged now p k s).drum := request .drum (by decide)
  have start : Moves [.now, .drum, .converter] s (referenced r (judged now p k s)) := by
    intro q hq; cases q <;> first | rfl | exact absurd (by decide) hq
  have store : u.lineStore = (requestFiling levels (referenced r (judged now p k s))).lineStore := by
    rw [hu]; exact begins .lineStore (by decide)
  refine ⟨by rw [hu, begins .drum (by decide), drum], ?_, by rw [hu]; exact (start.within.also request).also begins, by rw [store, depth]; rfl,
    fun m hm => by rw [store]; exact others m hm, fun h => ?_, fun hl hf => ?_⟩
  · rw [hu, beginGathering_locked (k := k) (by rw [drum]; exact hs) (by rw [drum]; exact ht)]
    exact congrArg (fun c : Converter => { c with gathering := some { pulse := now, target := k.period, readings := [] } })
      (request .converter (by decide))
  · have accepted := requestFiling_accepted (levels := levels) (s := referenced r (judged now p k s)) (filed_accepted h)
    obtain ⟨head, pins, round⟩ := lineFiled_spec
      (s := { referenced r (judged now p k s) with lineStore := (filed levels (referenced r (judged now p k s))).1 }) hn ho hr
    rw [← accepted] at head pins round
    refine ⟨by rw [hu, begins .head (by decide), head]; rfl, by rw [hu, begins .pins (by decide), pins]; rfl,
      by rw [hu, begins .round (by decide), round]; rfl, fun hm => by rw [store]; exact same hm, fun hf ha => ?_⟩
    refine ⟨_, by rw [store]; exact line (h.resolve_right fun k => k hf) hf ha, rfl, ?_⟩
    exact hlv.symm
  · have full := requestFiling_full (levels := levels) (s := referenced r (judged now p k s)) (filed_full hl hf)
    rw [full] at hu store
    rw [hu]
    exact ⟨rfl, rfl, rfl, rfl⟩

/-- The eighth invalid reference in a row: the lamp fault (R43, R76). -/
theorem lampFault_spec {now p n : Nat} {k : LpmClass} {s : State} {r : LatestReference}
    (ht : s.drum.target = some k) (hr : s.round.state = .scanning) (hn : s.round.order = some n) :
    let t := lampFailed r (judged now p k s)
    let u := beginGathering now (abortForFault .lamp t)
    u.head.held = min 65535 (s.head.held + 1) ∧
      u.converter = { s.converter with latest := some r, invalidCount := s.converter.invalidCount + 1,
                                       invalidTotal := min 65535 (s.converter.invalidTotal + 1), lamp := .fault,
                                       gathering := if u.drum.state = .locked then
                                         some { pulse := now, target := k.period, readings := [] } else none } ∧
      NoticedToBoth (.drumFault .lamp (some n)) u ∧
      Aborted { s with now := now, head := { s.head with held := min 65535 (s.head.held + 1) } } u ∧ MembersReturned s u ∧
      (¬ ClosesAtOnce s → u.drum = (judged now p k s).drum ∧ u.mount = s.mount ∧ OrdersKeepState s u) ∧
      (ClosesAtOnce s → ∃ b, Moves [.now, .book, .drum, .head, .converter, .selectDue] s b ∧ b.now = now ∧
        b.drum = (judged now p k s).drum ∧ MembersReturned s b ∧ OrdersKeepState s b ∧ RoundClosed b u) ∧
      Moves [.now, .links, .book, .round, .drum, .head, .mount, .converter, .lineStore, .channels, .selectDue] s u := by
  intro t u
  have start : Moves [.now, .drum, .head, .converter] s t := by
    intro q hq; cases q <;> first | rfl | exact absurd (by decide) hq
  have ho : t.round.state ≠ .closed := by show s.round.state ≠ _; rw [hr]; decide
  obtain ⟨aborted, returned, closed, later, noticed⟩ := abortForFault_spec .lamp t ho
  have abort := abortForFault_moves .lamp t
  have begins := beginGathering_moves now (abortForFault .lamp t)
  have returning := returnMembers_moves t
  have closes : ClosesAtOnce t ↔ ClosesAtOnce s := closesAtOnce_congr_state rfl rfl rfl
  have target : (abortForFault .lamp t).drum.state = .locked → (abortForFault .lamp t).drum.target = some k := by
    intro hl
    by_cases h : ClosesAtOnce t
    · rw [(closed h).target hl, returning .drum (by decide)]; exact ht
    · rw [(later h).1 .drum (by decide)]; exact ht
  have aborted' : Aborted { s with now := now, head := { s.head with held := min 65535 (s.head.held + 1) } } u :=
    (aborted.from rfl rfl rfl rfl rfl rfl (.of_book rfl)).congr rfl rfl rfl rfl fun _ => rfl
  refine ⟨aborted'.2.2.2.2.1, ?_, ?_, aborted', (returned.from rfl rfl).congr fun m _ => rfl, fun h => ?_, fun h => ?_,
    (start.within.also abort).also begins⟩
  · rw [show u.converter = _ from beginGathering_converter target, abort .converter (by decide)]
    rfl
  · rw [← hn]; exact noticed
  · obtain ⟨same, states⟩ := later (mt closes.mp h)
    exact ⟨same .drum (by decide), same .mount (by decide), states⟩
  · have hclosed := closed (closes.mpr h)
    have due : (abortForFault .lamp t).selectDue = true := hclosed.2.1
    exact ⟨returnMembers t, start.within.also returning, returning .now (by decide), returning .drum (by decide),
      (returnMembers_returned t).from rfl rfl, (OrdersKeepState.of_book rfl).trans (returnMembers_ordersKeepState t),
      hclosed.congr rfl due rfl rfl rfl fun _ _ hm => hm⟩

/-- A revolution with a complete gathering is offered: filed or held, counted invalid, or the lamp fault. -/
theorem scanning_offered (time : Nat) (s : State) (now last p n : Nat) (k : LpmClass) (o : Order) (g : Gathering)
    (hnow : now = max s.now time) (hs : s.drum.state = .locked) (ht : s.drum.target = some k) (hl : s.drum.lastPulse = some last)
    (hp : p = min 16777215 (now - last)) (hloose : withinLoose p k.period = true) (hr : s.round.state = .scanning)
    (hh : s.head.state = .scanning) (hn : s.round.order = some n) (ho : findOrder s n = some o) (hpos : s.head.position < o.lines)
    (hg : s.converter.gathering = some g) (hlen : g.readings.length = 32 + s.round.samples) :
    exec (.indexPulse time) s = .next (finishStep (beginGathering now (offer g.readings (judged now p k s)))) := by
  subst hnow hp
  have hm : mayFile (judged (max s.now time) (min 16777215 (max s.now time - last)) k s) = true :=
    (mayFile_iff _).mpr ⟨hr, hh, n, o, hn, ho, hpos⟩
  rw [exec_indexPulse_judged hs ht hl hloose, hg, scanningRevolution_offers hm hlen]

/-- Settles O31: a scanning revolution, offered or not. -/
theorem scanningRevolutionFilesOrHolds : Obligations.ScanningRevolutionFilesOrHolds := by
  unfold Obligations.ScanningRevolutionFilesOrHolds
  refine ⟨?_, ?_⟩
  · rintro time s now last p n k o g G r D hnow hs ht hl hp hloose hr hh hn ho hpos hg hlen rfl rfl rfl
    have e := scanning_offered time s now last p n k o g hnow hs ht hl hp hloose hr hh hn ho hpos hg hlen
    have now' : ∀ t, Moves [.converter] t (beginGathering now t) := beginGathering_moves now
    cases hv : (referenceOf g.readings).valid with
    | true =>
      have eo : offer g.readings (judged now p k s) = validRevolution (referenceOf g.readings) g.readings (judged now p k s) := if_pos hv
      rw [eo] at e
      refine ⟨_, e, (requestFiling_moves _ _ .now (by decide)), fun _ => valid_spec hs ht hr hn ho, fun h => by cases h⟩
    | false =>
      have eo : offer g.readings (judged now p k s) = invalidRevolution (referenceOf g.readings) (judged now p k s) :=
        if_neg (by rw [hv]; decide)
      rw [eo] at e
      by_cases h7 : s.converter.invalidCount = 7
      · rw [invalidRevolution_eighth (s := judged now p k s) h7] at e
        obtain ⟨held, conv, noticed, aborted, returned, later, closed, moves⟩ :=
          lampFault_spec (now := now) (p := p) (k := k) (r := referenceOf g.readings) ht hr hn
        refine ⟨_, e, (abortForFault_moves .lamp (lampFailed (referenceOf g.readings) (judged now p k s)) .now (by decide)), ?_, ?_⟩
        · intro h; cases h
        · intro _
          refine ⟨held, ?_, fun h => by omega, fun _ => ⟨noticed, aborted, returned, later, closed, moves⟩⟩
          rw [if_pos h7]; exact conv
      · rw [invalidRevolution_counts (s := judged now p k s) h7,
          beginGathering_locked (k := k) (by exact hs) (by exact ht)] at e
        refine ⟨_, e, rfl, ?_, ?_⟩
        · intro h; cases h
        · intro _
          refine ⟨rfl, ?_, fun _ => ⟨rfl, rfl, ?_⟩, fun h => absurd h h7⟩
          · rw [if_neg h7, if_pos (by exact hs)]; rfl
          · intro q hq; cases q <;> first | rfl | exact absurd (by decide) hq
  · rintro time s now last p n k o rfl hs ht hl rfl hloose hr hh hn ho hpos hg
    have hm : mayFile (judged (max s.now time) (min 16777215 (max s.now time - last)) k s) = true :=
      (mayFile_iff _).mpr ⟨hr, hh, n, o, hn, ho, hpos⟩
    rw [exec_indexPulse_judged hs ht hl hloose, scanningRevolution_holds hm hg,
      beginGathering_locked (k := k) (by exact hs) (by exact ht)]
    refine ⟨_, rfl, rfl, rfl, rfl, rfl, ?_⟩
    intro q hq; cases q <;> first | rfl | exact absurd (by decide) hq

end Sys2Proof.Machine
end

section
/-! PROOF. The end of a call (R115 to R118): where its destination is placed, and what the member's leaving keeps. -/

namespace Sys2Proof.Machine

/-! ### The round after a member left, closed or not (R33, R35, R36) -/

/-- A member's leaving works on the round, the head, the converter and the line store, and then may close the round. -/
theorem leaveRound_closes (c : Chan) (s : State) : ∃ w, Moves [.round, .head, .converter, .lineStore, .selectDue] s w ∧
    w.round.order = s.round.order ∧ (s.selectDue = true → w.selectDue = true) ∧
    (leaveRound c s = w ∨ leaveRound c s = closeRound w) := by
  have left : Moves [.round, .lineStore] s (memberLeft c s) := by
    intro p hp; cases p <;> first | rfl | exact absurd (by decide) hp
  have homed : ∀ t : State, (commandReturn t).round = t.round ∧ (t.selectDue = true → (commandReturn t).selectDue = true) := by
    intro t
    refine ⟨commandReturn_moves t .round (by decide), fun h => ?_⟩
    unfold commandReturn
    split
    · exact (startReturn_homed t).2.2.2 h
    · exact (startReturn_homed t).2.2.2 h
    · exact h
    · exact h
  have tested : ∀ t : State, (testStart t).round.order = t.round.order := by
    intro t; unfold testStart; split <;> rfl
  have closing : ∀ v, closeIfDone v = v ∨ closeIfDone v = closeRound v := by
    intro v
    rw [closeIfDone_eq]
    split
    · exact .inr rfl
    · exact .inl rfl
  cases hm : s.round.members.get c with
  | none => exact ⟨s, (Moves.refl [] s).within, rfl, id, .inl (by unfold leaveRound; rw [hm]; rfl)⟩
  | some i =>
    rw [leaveRound_eq hm]
    have stay : ∃ w, Moves [.round, .head, .converter, .lineStore, .selectDue] s w ∧ w.round.order = s.round.order ∧
        (s.selectDue = true → w.selectDue = true) ∧ (memberLeft c s = w ∨ memberLeft c s = closeRound w) :=
      ⟨_, left.within, rfl, id, .inl rfl⟩
    unfold afterLeaving
    split
    · exact stay
    · split
      · exact ⟨_, left.within, rfl, id, .inr rfl⟩
      · exact ⟨_, left.within.also (testStart_moves _), tested _, fun h => (testStart_moves _ .selectDue (by decide)).trans h, .inl rfl⟩
    · split
      · refine ⟨_, left.within.also (cutScanShort_moves _), ?_, ?_, closing _⟩
        · have e := (homed { memberLeft c s with
            round := { (memberLeft c s).round with state := .draining }, lineStore := flushLines (memberLeft c s).lineStore }).1
          exact (congrArg Round.order e).trans rfl
        · exact (homed { memberLeft c s with
            round := { (memberLeft c s).round with state := .draining }, lineStore := flushLines (memberLeft c s).lineStore }).2
      · exact stay
    · split
      · refine ⟨_, left.within.also (drainOut_moves _), ?_, ?_, closing _⟩
        · have e : (drainOut (memberLeft c s)).round = (memberLeft c s).round := drainOut_moves _ .round (by decide)
          exact (congrArg Round.order e).trans rfl
        · intro h
          unfold drainOut
          dsimp only
          split
          · exact (homed _).2 h
          · exact h
      · exact stay

/-- A destination with a reference queued for its order stays in the book when the round closes (R24, R37). -/
theorem closeRound_findDest {n : Nat} (i : Nat) {s : State} (h : ∃ r ∈ s.filing, r.order = n) :
    findDest (closeRound s) n i = findDest s n i := by
  by_cases hn : NotAbandoned s n
  · unfold findDest; rw [closeRound_find s n hn]
  · obtain ⟨hr, o, ho, hw⟩ : s.round.order = some n ∧ ∃ o, findOrder s n = some o ∧ o.state = .withdrawing :=
      Classical.byContradiction fun none => hn fun hr o ho hw => none ⟨hr, o, ho, hw⟩
    have moves := ((startIdle_moves { s with round := Round.none }).within (qs := [.selectDue, .links, .drum, .mount]).also (markSelection_moves _)).also (requestUnmount_moves _)
    have hb : (requestUnmount (markSelection (startIdle { s with round := Round.none }))).book = s.book := moves .book (by decide)
    have hf : (requestUnmount (markSelection (startIdle { s with round := Round.none }))).filing = s.filing := moves .filing (by decide)
    have closed : closeRound s = finishOrder n (requestUnmount (markSelection (startIdle { s with round := Round.none }))) := by
      unfold closeRound
      simp only [hr, ho, hw, if_true]
    have found := (finishOrder_finished n _ o ((findOrder_congr hb n).trans ho)).1 (by rw [hf]; exact h)
    unfold findDest
    rw [closed, found, ho]

theorem leaveRound_findDest (c : Chan) {n : Nat} (i : Nat) {s : State} (h : ∃ r ∈ s.filing, r.order = n) :
    findDest (leaveRound c s) n i = findDest s n i := by
  obtain ⟨w, moves, _, _, e | e⟩ := leaveRound_closes c s
  · rw [e]; unfold findDest; rw [findOrder_congr (moves .book (by decide))]
  · rw [e, closeRound_findDest i (by rw [show w.filing = s.filing from moves .filing (by decide)]; exact h)]
    unfold findDest; rw [findOrder_congr (moves .book (by decide))]

theorem leaveRound_due {c : Chan} {s : State} (h : s.selectDue = true) : (leaveRound c s).selectDue = true := by
  obtain ⟨w, _, _, due, e | e⟩ := leaveRound_closes c s
  · rw [e]; exact due h
  · rw [e]; exact closeRound_due w

theorem leaveRound_keepsResults (c : Chan) (s : State) : KeepsResults s (leaveRound c s) := by
  obtain ⟨w, moves, _, _, e | e⟩ := leaveRound_closes c s
  · rw [e]; exact .of_links (moves .links (by decide))
  · rw [e]; exact (KeepsResults.of_links (moves .links (by decide))).trans (closeRound_keepsResults w)

/-! ### Where the destination of an ended call is placed (R18, R19) -/

/-- The outcome of a call ended in a state `t` that differs from `s` outside the book, the filing queue and the store, with its report. -/
theorem endWithOutcome_places {c : Chan} {oc : CallOutcome} {rep : Option Report} {s t : State} {k : Call} {o : Order} {d : Destination}
    (hb : t.book = s.book) (hf : t.filing = s.filing) (hst : t.store = s.store)
    (hc : (t.channels.get c).call = (s.channels.get c).call) (hk : (s.channels.get c).call = some k)
    (ho : findOrder s k.order = some o) (hd : o.dests[k.dest]? = some d) (hs : d.state = .sending) (hch : d.channel = some c) :
    let u := endWithOutcome c oc rep t
    ∃ x, x.entry = d.entry ∧ x.attempts = d.attempts + 1 ∧ x.channel = none ∧ x.report = rep ∧
      (o.state ≠ .withdrawing → findOrder u k.order =
        some { o with dests := o.dests.set k.dest x,
                      state := if ∀ y ∈ o.dests.set k.dest x, y.state = .final then .filing else o.state }) ∧
      ((retryable oc = true ∧ ∃ e, readEntry s.store d.entry = .valid e ∧ d.attempts < e.retries) →
        x.state = .delayed ∧ u.filing = s.filing ∧
        x.retryTimer = some { start := u.now, length := (readSettings s.store).retryDelay * 1000000 }) ∧
      (¬ (retryable oc = true ∧ ∃ e, readEntry s.store d.entry = .valid e ∧ d.attempts < e.retries) →
        x.state = .final ∧ x.outcome = some oc ∧ x.exhausted = retryable oc ∧ findDest u k.order k.dest = some x ∧
        u.filing = s.filing ++ [{ order := k.order, dest := k.dest, channel := some c }]) := by
  intro u
  obtain ⟨_, v, x, hv, moves, _, find, attempts, channel, _, _, _, _, report, _, entry, _, delayed, final⟩ :=
    (outcomeIsPlacedByTheScheduler c oc rep t k o d (hc.trans hk) ((findOrder_congr hb _).trans ho) hd).2 hs hch
  have hu : u = leaveRound c (closeCall c (.outcome oc) v) := by rw [← hv]; rfl
  have filing : u.filing = v.filing := by rw [hu]; exact leaveRound_moves c _ .filing (by decide)
  have now : u.now = t.now := by
    rw [hu]
    exact (leaveRound_moves c _ .now (by decide)).trans (moves .now (by decide))
  rw [hst] at delayed final
  refine ⟨x, entry, attempts, channel, report, fun hw => ?_, fun h => ?_, fun h => ?_⟩
  · have kept : NotAbandoned (closeCall c (.outcome oc) v) k.order := by
      intro _ y hy hyw
      have hy : findOrder v k.order = some y := hy
      rw [find] at hy
      cases hy
      dsimp only at hyw
      split at hyw
      · cases hyw
      · exact hw hyw
    rw [hu, leaveRound_find c _ _ kept]
    refine (show findOrder (closeCall c (.outcome oc) v) k.order = findOrder v k.order from rfl).trans (find.trans ?_)
    simp only [ne_eq, hw, not_false_eq_true, true_and]
  · obtain ⟨hr, e, he, hlt⟩ := h
    obtain ⟨hx, _, hfil, _, timer⟩ := delayed e ⟨he, hr, hlt⟩
    exact ⟨hx, filing.trans (hfil.trans hf), by rw [now]; exact timer⟩
  · obtain ⟨hx, hout, hex, hfil, hfind⟩ := final fun e he hr => Nat.not_lt.mp fun hlt => h ⟨hr, e, he, hlt⟩
    refine ⟨hx, hout, hex, ?_, filing.trans (hfil.trans (by rw [hf]))⟩
    have queued : ∃ r ∈ (closeCall c (.outcome oc) v).filing, r.order = k.order := by
      refine ⟨{ order := k.order, dest := k.dest, channel := some c }, ?_, rfl⟩
      rw [show (closeCall c (.outcome oc) v).filing = v.filing from rfl, hfil]
      exact List.mem_append_right _ (List.mem_singleton.mpr rfl)
    rw [hu, leaveRound_findDest c _ queued]
    exact hfind

/-- The destination of a call that ends with an outcome is placed as R18 and R19 say. -/
theorem endWithOutcome_placed (c : Chan) (oc : CallOutcome) (rep : Option Report) {s t : State} (hb : t.book = s.book)
    (hf : t.filing = s.filing) (hst : t.store = s.store) (hc : (t.channels.get c).call = (s.channels.get c).call) :
    DestinationPlaced c oc s (endWithOutcome c oc rep t) := by
  intro k o d hk ho hd hs hch hw
  obtain ⟨x, entry, attempts, channel, _, find, delayed, final⟩ :=
    endWithOutcome_places (oc := oc) (rep := rep) hb hf hst hc hk ho hd hs hch
  have hlt : k.dest < o.dests.length := (List.getElem?_eq_some_iff.mp hd).1
  refine ⟨x, findDest_of_find (find hw) (List.getElem?_set_self hlt), entry, attempts, channel, find hw, delayed, fun h => ?_⟩
  obtain ⟨hx, hout, hex, _, hfil⟩ := final h
  exact ⟨hx, hout, hex, hfil⟩

/-- All that a call leaves behind which has ended with an outcome at `now` (R115, R18): its line, its destination, and the parts that
change. -/
structure OutcomeEnds (c : Chan) (oc : CallOutcome) (s : State) (now : Nat) (u : State) : Prop where
  ended : CallEnded c (.outcome oc) s u
  placed : DestinationPlaced c oc s u
  only : OnlyChannel c s u
  moves : Moves (.now :: callEndParts) s u
  now_eq : u.now = now

/-- A call ended in a state that differs from `s` in the timebase and the channel alone. -/
theorem endWithOutcome_from (c : Chan) (oc : CallOutcome) (rep : Option Report) {s t : State} (hm : Moves [.now, .channels] s t)
    (ho : OnlyChannel c s t) (hc : SameLine (t.channels.get c) (s.channels.get c)) :
    OutcomeEnds c oc s t.now (endWithOutcome c oc rep t) := by
  refine ⟨endWithOutcome_callEnded c oc rep hm.within ho (hm .book (by decide)) (hm .filing (by decide)) hc,
    endWithOutcome_placed c oc rep (hm .book (by decide)) (hm .filing (by decide)) (hm .store (by decide)) hc.2.1, fun d hd => ?_,
    hm.within.also (endWithOutcome_moves c oc rep t), endWithOutcome_moves c oc rep t .now (by decide)⟩
  rw [endWithOutcome_onlyChannel c oc rep t d hd, ho d hd]

/-! ### The five limits (O40) -/

/-- A limit that ends the call at the instant its timer reaches it. -/
theorem limit_ends (c : Chan) (oc : CallOutcome) {t : Timer} {t0 length : Nat} {s : State} (ht : t = some t0) :
    ∃ u, u = endWithOutcome c oc none (jumpPast t length s) ∧ CallEnded c (.outcome oc) s u ∧ DestinationPlaced c oc s u ∧ OnlyChannel c s u ∧
      Moves (.now :: callEndParts) s u ∧ u.now = max s.now (t0 + length) := by
  subst ht
  obtain ⟨ended, placed, only, moves, now⟩ := endWithOutcome_from c oc none (s := s) (t := jumpPast (some t0) length s)
    ((jumpPast_moves _ _ _).within) (fun _ _ => rfl) ⟨rfl, rfl, rfl, rfl, rfl, rfl, rfl, rfl⟩
  exact ⟨_, rfl, ended, placed, only, moves, now⟩

/-- Settles O40: each limit in its own state. -/
theorem limitsEndTheCall : Obligations.LimitsEndTheCall := by
  unfold Obligations.LimitsEndTheCall
  intro c s t0
  refine ⟨fun hs ht => ?_, fun hs ht => ?_, fun hs ht => ?_, fun hs ht => ?_, fun hs ht => ?_⟩
  · obtain ⟨u, rfl, spec⟩ := limit_ends c .noAnswer (length := 40000000) (s := s) ht
    exact ⟨_, if_pos ⟨hs, by rw [ht]; rfl⟩, spec⟩
  · obtain ⟨u, rfl, spec⟩ := limit_ends c .noAnswer (length := 10000000) (s := s) ht
    exact ⟨_, if_pos ⟨hs, by rw [ht]; rfl⟩, spec⟩
  · obtain ⟨u, rfl, spec⟩ := limit_ends c .lineLost (length := 6000000) (s := s) ht
    exact ⟨_, if_pos ⟨hs, by rw [ht]; rfl⟩, spec⟩
  · obtain ⟨u, rfl, spec⟩ := limit_ends c .sentUnconfirmed (length := 20000000) (s := s) ht
    exact ⟨_, if_pos ⟨hs, by rw [ht]; rfl⟩, spec⟩
  · obtain ⟨u, rfl, spec⟩ := limit_ends c .holdTimeout (length := 90000000) (s := s) ht
    exact ⟨_, if_pos ⟨hs, by rw [ht]; rfl⟩, spec⟩

end Sys2Proof.Machine
end

section
/-! PROOF. The line commands, the carrier and the dialling, and the ends of COOLDOWN and RELEASE (O38, O39, O41). -/

namespace Sys2Proof.Machine

/-! ### Rules of the channel table -/

theorem chanOfByte_number {b : Byte} {c : Chan} (h : b.toNat = c.number) : chanOfByte b = some c := by
  unfold chanOfByte
  rw [h]
  cases c <;> rfl

theorem chanOfByte_outside {b : Byte} (h : b.toNat = 0 ∨ 4 < b.toNat) : chanOfByte b = none := by
  unfold chanOfByte
  split <;> first | rfl | omega

theorem restState_eq (ch : Channel) : restState ch = if ch.service = .inService then .idle else .out := by
  unfold restState
  cases ch.service <;> rfl

theorem markIfIdle_moves (c : Chan) (s : State) : Moves [.selectDue] s (markIfIdle c s) := by
  unfold markIfIdle; split
  · exact markSelection_moves _
  · exact (Moves.refl [] s).within

theorem markIfIdle_channels (c : Chan) (s : State) : (markIfIdle c s).channels = s.channels := markIfIdle_moves c s .channels (by decide)

theorem markIfIdle_due {c : Chan} {s : State} (h : (s.channels.get c).state = .idle) : (markIfIdle c s).selectDue = true := by
  unfold markIfIdle
  rw [if_pos h]
  rfl

/-- A command that posts its result and changes one channel. -/
theorem posted_channel (l : Link) (b : Byte) (r : ResultCode) (v : Nat) (c : Chan) (f : Channel → Channel) (s : State) :
    Posted l b r v s (modChan c f (postResult l b r v s)) ∧ OnlyChannel c s (modChan c f (postResult l b r v s)) ∧
      Moves [.links, .channels] s (modChan c f (postResult l b r v s)) ∧
      (modChan c f (postResult l b r v s)).channels.get c = f (s.channels.get c) :=
  ⟨(postResult_posted l b r v s).of_links rfl, modChan_onlyChannel c f s _ rfl,
    (postResult_moves l b r v s).within.also (modChan_moves _ _ _), modChan_get c f _⟩

/-! ### LINE OUT, LINE IN and MARK FAULT CODE (R98, R99, R138) -/

theorem exec_lineOut {l : Link} {b : Byte} {c : Chan} {s : State} (h : chanOfByte b = some c) :
    exec (.lineOut l b) s = .next (modChan c takeOut (postResult l 0x17#8 .ok 0 s)) := by
  show execLineOut l b s = _
  unfold execLineOut
  rw [h]

theorem exec_lineIn {l : Link} {b : Byte} {c : Chan} {s : State} (h : chanOfByte b = some c) :
    exec (.lineIn l b) s = .next (if (s.channels.get c).state = .out then
      finishStep (markSelection (modChan c takeIn (postResult l 0x18#8 .ok 0 s))) else modChan c takeIn (postResult l 0x18#8 .ok 0 s)) := by
  show execLineIn l b s = _
  unfold execLineIn
  rw [h]
  exact (apply_ite Host.Outcome.next _ _ _).symm

theorem exec_markFaultCode {l : Link} {b : Byte} {c : Chan} {s : State} (h : chanOfByte b = some c) :
    exec (.markFaultCode l b) s = .next (modChan c (fun ch => { ch with fault := .mark }) (postResult l 0x1A#8 .ok 0 s)) := by
  show execMarkFaultCode l b s = _
  unfold execMarkFaultCode
  rw [h]

theorem lineCommands_refused {l : Link} {b : Byte} {s : State} (h : chanOfByte b = none) :
    RefusedWith (.lineOut l b) l 0x17#8 .noSuchChannel s ∧ RefusedWith (.lineIn l b) l 0x18#8 .noSuchChannel s ∧
      RefusedWith (.markFaultCode l b) l 0x1A#8 .noSuchChannel s ∧ RefusedWith (.lineReset l b) l 0x19#8 .noSuchChannel s := by
  refine ⟨refused_of_eq ?_, refused_of_eq ?_, refused_of_eq ?_, refused_of_eq ?_⟩
  · show execLineOut l b s = _; unfold execLineOut; rw [h]
  · show execLineIn l b s = _; unfold execLineIn; rw [h]
  · show execMarkFaultCode l b s = _; unfold execMarkFaultCode; rw [h]
  · show execLineReset l b s = _; unfold execLineReset; rw [h]

theorem takeIn_out {ch : Channel} (h : ch.state = .out) : takeIn ch = { ch with service := .inService, state := .idle } := by
  unfold takeIn; simp only [h]

theorem takeIn_stays {ch : Channel} (h : ch.state ≠ .out) : takeIn ch = { ch with service := .inService } := by
  unfold takeIn
  split
  · rename_i h'; exact absurd h' h
  · rfl

/-! ### LINE RESET (R118) -/

theorem exec_lineReset {l : Link} {b : Byte} {c : Chan} {s : State} (h : chanOfByte b = some c) :
    exec (.lineReset l b) s = .next (finishStep (modChan c clearTrouble (resetByState c (postResult l 0x19#8 .ok 0 s)))) := by
  show execLineReset l b s = _
  unfold execLineReset
  rw [h]

/-- A trouble count cleared after the end of a call changes nothing that the end of the call is about. -/
theorem CallEnded.clearTrouble {c : Chan} {e : CallEnding} {s u : State} (h : CallEnded c e s u) :
    CallEnded c e s (modChan c Machine.clearTrouble u) := by
  have ch : (modChan c Machine.clearTrouble u).channels.get c = Machine.clearTrouble (u.channels.get c) := modChan_get _ _ _
  unfold CallEnded at h ⊢
  rw [ch]
  obtain ⟨h1, h2, h3, h4, h5, h6, h7, h8, h9, h10, h11, h12, h13, h14, h15, b, hb, only, dest, moves, rest⟩ := h
  exact ⟨h1, h2, h3, h4, h5, h6, h7, h8, h9, h10, h11, h12, h13, h14, h15, b, hb, only, dest, moves.also (modChan_moves _ _ _), rest⟩

/-- The destination of the call returned, before the call is closed (R21, R118). -/
def callReturned (c : Chan) (s : State) : State :=
  match (s.channels.get c).call with
  | none => s
  | some k => returnDest k.order k.dest s

theorem resetCall_eq (c : Chan) (s : State) : resetCall c s = leaveRound c (closeCall c .reset (callReturned c s)) := by
  unfold resetCall callReturned
  rfl

theorem callReturned_moves (c : Chan) (s : State) : Moves [.book, .selectDue] s (callReturned c s) := by
  unfold callReturned; split
  · exact (Moves.refl [] s).within
  · exact returnDest_moves _ _ _

theorem callReturned_only (c : Chan) (s : State) : OnlyCalledDest c s (callReturned c s) := by
  unfold callReturned; split
  · exact .of_book rfl rfl
  · rename_i k hk; exact returnDest_onlyCalledDest hk

/-- The end of a call by LINE RESET, and what stays readable of it. -/
theorem resetCall_spec (c : Chan) {s t : State} (hm : Moves [.links] s t) :
    CallEnded c .reset s (resetCall c t) ∧ OnlyChannel c s (resetCall c t) ∧ Moves callEndParts s (resetCall c t) ∧
      (resetCall c t).filing = s.filing ∧ KeepsResults t (resetCall c t) ∧
      ((resetCall c t).channels.get c).fault = (s.channels.get c).fault ∧
      ((resetCall c t).channels.get c).service = (s.channels.get c).service := by
  have returned := callReturned_moves c t
  have hch : t.channels = s.channels := hm .channels (by decide)
  have hch' : (callReturned c t).channels = s.channels := (returned .channels (by decide)).trans hch
  have called : OnlyCalledDest c s (callReturned c t) := (callReturned_only c t).from (hm .book (by decide)) (hm .filing (by decide)) (by rw [hch])
  have channels : (resetCall c t).channels = (closeCall c .reset (callReturned c t)).channels := by
    rw [resetCall_eq]; exact leaveRound_moves c _ .channels (by decide)
  have moves : Moves callEndParts t (resetCall c t) := by
    rw [resetCall_eq]
    exact (returned.within.also (closeCall_moves c .reset _)).also (leaveRound_moves c _)
  have stays : closedChannel c .reset (callReturned c t) = (resetCall c t).channels.get c := by rw [channels]; rfl
  refine ⟨?_, fun d hd => ?_, hm.within.also moves, ?_, ?_, ?_, ?_⟩
  · rw [resetCall_eq]
    exact leaveRound_callEnded c .reset (hm.within.also returned) (fun d _ => by rw [hch']) called
      (by rw [hch']; exact ⟨rfl, rfl, rfl, rfl, rfl, rfl, rfl, rfl⟩)
  · rw [channels, closeCall_get_ne _ _ hd, hch']
  · rw [resetCall_eq]
    exact (leaveRound_moves c _ .filing (by decide)).trans ((returned .filing (by decide)).trans (hm .filing (by decide)))
  · rw [resetCall_eq]
    exact (KeepsResults.of_links (returned .links (by decide))).trans (leaveRound_keepsResults c _)
  · rw [← stays]
    simp only [closedChannel, closeCall, PerChan.get_set, hch']
    split <;> simp [clearPicture]
  · rw [← stays]
    simp only [closedChannel, closeCall, PerChan.get_set, hch']
    split <;> simp [clearPicture]

/-- The destination of a reset call is READY again, unless its order is WITHDRAWING (R21, R118). -/
theorem resetCall_returns {c : Chan} {s : State} {k : Call} {o : Order} {d : Destination} (hk : (s.channels.get c).call = some k)
    (ho : findOrder s k.order = some o) (hw : o.state ≠ .withdrawing) (hd : o.dests[k.dest]? = some d)
    (hs : d.state = .assigned ∨ d.state = .sending) :
    findDest (resetCall c s) k.order k.dest = some { d with state := .ready, channel := none } ∧ (resetCall c s).selectDue = true := by
  have hlt : k.dest < o.dests.length := (List.getElem?_eq_some_iff.mp hd).1
  have e : callReturned c s = markSelection (modDest k.order k.dest (fun d => { d with state := .ready, channel := none }) s) := by
    unfold callReturned returnDest
    simp only [hk, findDest_of_find ho hd]
    exact if_pos hs
  have find : findOrder (callReturned c s) k.order = some { o with dests := o.dests.modify k.dest fun d => { d with state := .ready, channel := none } } := by
    rw [e]
    refine (findOrder_modDest _ _ _ _ s).trans ?_
    rw [if_pos rfl, ho]
    rfl
  have kept : NotAbandoned (closeCall c .reset (callReturned c s)) k.order := by
    intro _ y hy hyw
    have hy : findOrder (callReturned c s) k.order = some y := hy
    rw [find] at hy
    cases hy
    exact hw hyw
  rw [resetCall_eq]
  refine ⟨findDest_of_find ((leaveRound_find c _ _ kept).trans find) ?_, leaveRound_due (by rw [show (closeCall c .reset (callReturned c s)).selectDue = (callReturned c s).selectDue from rfl, e]; rfl)⟩
  rw [List.getElem?_modify_eq, hd]
  rfl

theorem not_inCall_cases {st : ChanState} (h : inCall st = false) : st = .release ∨ st = .cooldown ∨ (st = .idle ∨ st = .out) := by
  cases st <;> simp [inCall] at h ⊢

theorem resetByState_release {c : Chan} {s : State} (h : (s.channels.get c).state = .release) :
    resetByState c s = markIfIdle c (modChan c cutRelease s) := by unfold resetByState; rw [h]; rfl

theorem resetByState_cooldown {c : Chan} {s : State} (h : (s.channels.get c).state = .cooldown) :
    resetByState c s = markIfIdle c (modChan c endCooldown s) := by unfold resetByState; rw [h]; rfl

theorem resetByState_resting {c : Chan} {s : State} (h : (s.channels.get c).state = .idle ∨ (s.channels.get c).state = .out) :
    resetByState c s = s := by
  unfold resetByState
  rcases h with h | h <;> (rw [h]; rfl)

/-- A channel that comes to rest: IDLE or OUT by its service flag, IDLE being a selection event (R15, R116 to R118). -/
theorem comesToRest (c : Chan) (f : Channel → Channel) {s t : State} (hm : Moves [.now, .links] s t)
    (hf : (f (s.channels.get c)).state = restState (s.channels.get c)) :
    let u := markIfIdle c (modChan c f t)
    OnlyChannel c s u ∧ u.channels.get c = f (s.channels.get c) ∧ Moves [.channels, .selectDue] t u ∧
      (u.channels.get c).state = (if (s.channels.get c).service = .inService then .idle else .out) ∧
      ((s.channels.get c).service = .inService → u.selectDue = true) := by
  intro u
  have hch : t.channels = s.channels := hm .channels (by decide)
  have channels : u.channels = (modChan c f t).channels := markIfIdle_channels c _
  have get : u.channels.get c = f (s.channels.get c) := by rw [channels, modChan_get, hch]
  have state : (u.channels.get c).state = (if (s.channels.get c).service = .inService then .idle else .out) := by
    rw [get, hf, restState_eq]
  refine ⟨fun d hd => by rw [channels, modChan_get_ne _ _ hd, hch], get, (modChan_moves c f t).within.also (markIfIdle_moves c _), state,
    fun hs => markIfIdle_due ?_⟩
  rw [← channels, state, if_pos hs]

/-- Settles O38: the three line commands by the channel's state, and LINE RESET. -/
theorem lineCommandsActByTheChannelState : Obligations.LineCommandsActByTheChannelState := by
  unfold Obligations.LineCommandsActByTheChannelState
  refine ⟨fun l b s => ⟨fun h => ?_, fun c hb => ?_⟩, fun l b s => ⟨fun h => ?_, fun c hb => ?_⟩⟩
  · obtain ⟨h1, h2, h3, _⟩ := lineCommands_refused (l := l) (s := s) (chanOfByte_outside h)
    exact ⟨h1, h2, h3⟩
  · have hc := chanOfByte_number hb
    refine ⟨?_, fun h => ?_, fun h => ?_, ?_⟩
    · obtain ⟨h1, h2, h3, h4⟩ := posted_channel l 0x17#8 .ok 0 c takeOut s
      exact ⟨_, exec_lineOut hc, h1, h2, h3, h4.trans rfl⟩
    · obtain ⟨h1, h2, h3, h4⟩ := posted_channel l 0x18#8 .ok 0 c takeIn s
      refine ⟨_, (exec_lineIn hc).trans (by rw [if_neg h]), h1, h2, h3, h4.trans (takeIn_stays h)⟩
    · obtain ⟨h1, h2, h3, h4⟩ := posted_channel l 0x18#8 .ok 0 c takeIn s
      refine ⟨markSelection (modChan c takeIn (postResult l 0x18#8 .ok 0 s)), (exec_lineIn hc).trans (by rw [if_pos h]), rfl, h1, h2,
        h3.within.also (markSelection_moves _), h4.trans (takeIn_out h)⟩
    · obtain ⟨h1, h2, h3, h4⟩ := posted_channel l 0x1A#8 .ok 0 c (fun ch => { ch with fault := .mark }) s
      exact ⟨_, exec_markFaultCode hc, h1, h2, h3, h4⟩
  · exact (lineCommands_refused (chanOfByte_outside h)).2.2.2
  · have posted := postResult_moves l 0x19#8 .ok 0 s
    have get : ∀ v : State, (modChan c clearTrouble v).channels.get c = clearTrouble (v.channels.get c) := fun v => modChan_get _ _ _
    have result := postResult_result l (b := 0x19#8) (r := .ok) (v := 0) (s := s)
    refine ⟨_, exec_lineReset (chanOfByte_number hb), ?_⟩
    cases hcall : inCall (s.channels.get c).state with
    | true =>
      have e : resetByState c (postResult l 0x19#8 .ok 0 s) = resetCall c (postResult l 0x19#8 .ok 0 s) := if_pos hcall
      obtain ⟨ended, only, moves, filing, results, fault, service⟩ := resetCall_spec c posted
      rw [e, get]
      refine ⟨fun d hd => (modChan_get_ne _ _ hd).trans (only d hd), rfl, rfl, fault, service, fun k => (results k).trans (result k),
        fun _ => ⟨ended.clearTrouble, moves.also (modChan_moves _ _ _), filing, fun k o d hk ho hw hd hs => ?_⟩, fun h => by cases h⟩
      exact resetCall_returns (s := postResult l 0x19#8 .ok 0 s) hk ho hw hd hs
    | false =>
      have cleared : ∀ f : Channel → Channel, (f (s.channels.get c)).state = restState (s.channels.get c) →
          (f (s.channels.get c)).service = (s.channels.get c).service → (f (s.channels.get c)).fault = (s.channels.get c).fault →
          let u := modChan c clearTrouble (markIfIdle c (modChan c f (postResult l 0x19#8 .ok 0 s)))
          OnlyChannel c s u ∧ (u.channels.get c).trouble = 0 ∧ (u.channels.get c).caution = .armed ∧
            (u.channels.get c).fault = (s.channels.get c).fault ∧ (u.channels.get c).service = (s.channels.get c).service ∧
            (∀ k, (u.links.get k).result = if k = l then { command := 0x19#8, code := .ok, value := 0 } else (s.links.get k).result) ∧
            u.channels.get c = clearTrouble (f (s.channels.get c)) ∧ Moves [.links, .channels, .selectDue] s u ∧
            (u.channels.get c).state = (if (s.channels.get c).service = .inService then .idle else .out) ∧
            ((s.channels.get c).service = .inService → u.selectDue = true) := by
        intro f hstate hservice hfault u
        obtain ⟨only, ch, moves, state, due⟩ := comesToRest c f posted.within hstate
        have hu : u.channels.get c = clearTrouble (f (s.channels.get c)) := by rw [get, ch]
        refine ⟨fun d hd => (modChan_get_ne _ _ hd).trans (only d hd), by rw [hu]; rfl, by rw [hu]; rfl, by rw [hu]; exact hfault,
          by rw [hu]; exact hservice, fun k => ?_, hu, (posted.within.also moves).also (modChan_moves _ _ _), ?_, due⟩
        · rw [show u.links = (postResult l 0x19#8 .ok 0 s).links from moves .links (by decide)]
          exact result k
        · rw [hu]; exact (congrArg Channel.state ch).symm.trans state
      rcases not_inCall_cases hcall with h | h | h
      · obtain ⟨h1, h2, h3, h4, h5, h6, hu, moves, state, due⟩ := cleared cutRelease rfl rfl rfl
        rw [resetByState_release (s := postResult l 0x19#8 .ok 0 s) h]
        refine ⟨h1, h2, h3, h4, h5, h6, fun h => (by cases h), fun _ => ⟨moves, fun _ => ⟨state, due⟩, fun _ => ?_, fun k => ?_⟩⟩
        · rw [hu]; exact ⟨rfl, rfl, rfl, rfl⟩
        · rw [h] at k; rcases k with k | k <;> cases k
      · obtain ⟨h1, h2, h3, h4, h5, h6, hu, moves, state, due⟩ := cleared endCooldown rfl rfl rfl
        rw [resetByState_cooldown (s := postResult l 0x19#8 .ok 0 s) h]
        refine ⟨h1, h2, h3, h4, h5, h6, fun h => (by cases h), fun _ => ⟨moves, fun _ => ⟨state, due⟩, fun k => ?_, fun k => ?_⟩⟩
        · rw [h] at k; cases k
        · rw [h] at k; rcases k with k | k <;> cases k
      · rw [resetByState_resting (s := postResult l 0x19#8 .ok 0 s) h, get]
        have moves : Moves [.links, .channels, .selectDue] s (modChan c clearTrouble (postResult l 0x19#8 .ok 0 s)) :=
          posted.within.also (modChan_moves _ _ _)
        refine ⟨fun d hd => modChan_get_ne _ _ hd, rfl, rfl, rfl, rfl, result, fun h => (by cases h), fun _ => ⟨moves, fun k => ?_, fun k => ?_, fun _ => rfl⟩⟩
        · rcases h with h | h <;> rw [h] at k <;> rcases k with k | k <;> cases k
        · rcases h with h | h <;> rw [h] at k <;> cases k

end Sys2Proof.Machine
end

section
/-! PROOF. The carrier and the dialling (O39), and the ends of COOLDOWN and RELEASE (O41). -/

namespace Sys2Proof.Machine

theorem modChan_only {c : Chan} {f : Channel → Channel} {s t : State} (h : t.channels = s.channels) : OnlyChannel c s (modChan c f t) := by
  intro d hd; rw [modChan_get_ne f t hd, h]

/-! ### The carrier (R103, R114) -/

/-- The level of a channel's carrier input as taken. -/
def carrierTaken (c : Chan) (b : Bool) (s : State) : State := { s with pins := { s.pins with carrier := s.pins.carrier.set c b } }

theorem carrierTaken_moves (c : Chan) (b : Bool) (s : State) : Moves [.pins] s (carrierTaken c b s) := by
  intro p hp; cases p <;> first | rfl | exact absurd (by decide) hp

theorem exec_carrierPresent_answer {c : Chan} {s : State} (h : (s.channels.get c).state = .awaitAnswer) :
    exec (.carrierPresent c) s = .next (enterAnnounce c (carrierTaken c true s)) := if_pos h

theorem exec_carrierPresent_reads {c : Chan} {s : State} (h : readsBack (s.channels.get c).state = true) :
    exec (.carrierPresent c) s = .next (modChan c (fun ch => { ch with carrierTimer := none }) (carrierTaken c true s)) :=
  (if_neg (fun e => by rw [e] at h; cases h)).trans (if_pos h)

theorem exec_carrierPresent_else {c : Chan} {s : State} (h : (s.channels.get c).state ≠ .awaitAnswer)
    (hr : readsBack (s.channels.get c).state = false) : exec (.carrierPresent c) s = .next (carrierTaken c true s) :=
  (if_neg h).trans (if_neg (by rw [hr]; decide))

theorem carrierPresent_spec (c : Chan) (s : State) : ∃ t, exec (.carrierPresent c) s = .next t ∧ OnlyChannel c s t ∧
    Moves [.pins, .channels] s t ∧ t.pins = { s.pins with carrier := s.pins.carrier.set c true } ∧
    ((s.channels.get c).state = .awaitAnswer →
      (t.channels.get c).state = .announce ∧ (t.channels.get c).stateTimer = some s.now ∧
      (t.channels.get c).lineTimer = some { start := s.now, begun := 0 } ∧
      (t.channels.get c).carrierTimer = none ∧
      ∀ k, (s.channels.get c).call = some k → (t.channels.get c).linePeriod = 60000000 / k.entry.lpm.lpm) ∧
    (readsBack (s.channels.get c).state = true →
      t.channels.get c = { s.channels.get c with carrierTimer := none }) ∧
    ((s.channels.get c).state ≠ .awaitAnswer → readsBack (s.channels.get c).state = false →
      t.channels = s.channels) := by
  have taken := carrierTaken_moves c true s
  by_cases ha : (s.channels.get c).state = .awaitAnswer
  · refine ⟨_, exec_carrierPresent_answer ha, modChan_only rfl, taken.within.also (enterAnnounce_moves _ _), rfl, fun _ => ?_, ?_,
      fun h => absurd ha h⟩
    rotate_left
    · intro h; rw [ha] at h; cases h
    rw [enterAnnounce_get]
    refine ⟨rfl, rfl, rfl, if_pos (PerChan.get_set _ _ _), fun k hk => ?_⟩
    rw [show ((carrierTaken c true s).channels.get c).call = some k from hk]
    rfl
  · cases hr : readsBack (s.channels.get c).state with
    | true =>
      exact ⟨_, exec_carrierPresent_reads hr, modChan_only rfl, taken.within.also (modChan_moves _ _ _), rfl,
        fun h => absurd h ha, fun _ => modChan_get _ _ _, fun _ h => by cases h⟩
    | false =>
      exact ⟨_, exec_carrierPresent_else ha hr, fun _ _ => rfl, taken.within, rfl, fun h => absurd h ha, by simp, fun _ _ => rfl⟩

theorem carrierAbsent_spec (c : Chan) (s : State) : ∃ t, exec (.carrierAbsent c) s = .next t ∧ OnlyChannel c s t ∧
    Moves [.pins, .channels] s t ∧ t.pins = { s.pins with carrier := s.pins.carrier.set c false } ∧
    t.channels.get c =
      (if s.pins.carrier.get c = true ∧ readsBack (s.channels.get c).state = true then
        { s.channels.get c with carrierTimer := some s.now } else s.channels.get c) := by
  have taken := carrierTaken_moves c false s
  by_cases h : s.pins.carrier.get c = true ∧ readsBack (s.channels.get c).state = true
  · exact ⟨modChan c (fun ch => { ch with carrierTimer := some s.now }) (carrierTaken c false s), if_pos h, modChan_only rfl,
      taken.within.also (modChan_moves _ _ _), rfl, by rw [if_pos h]; exact modChan_get _ _ _⟩
  · exact ⟨carrierTaken c false s, if_neg h, fun _ _ => rfl, taken.within, rfl, by rw [if_neg h]; rfl⟩

/-! ### The dialling (R102, R103) -/

/-- The entry to AWAIT ANSWER, or to ANNOUNCE where carrier is present already (R103). -/
theorem enterAwaitAnswer_get (c : Chan) (s : State) :
    ((enterAwaitAnswer c s).channels.get c).state = (if s.pins.carrier.get c then .announce else .awaitAnswer) ∧
      ((enterAwaitAnswer c s).channels.get c).stateTimer = some s.now ∧ ((enterAwaitAnswer c s).channels.get c).dial = .silent ∧
      ((enterAwaitAnswer c s).channels.get c).hook = (s.channels.get c).hook ∧
      ((enterAwaitAnswer c s).channels.get c).call = (s.channels.get c).call := by
  unfold enterAwaitAnswer
  dsimp only
  cases s.pins.carrier.get c with
  | true =>
    rw [if_pos rfl, if_pos rfl, enterAnnounce_get, modChan_get]
    exact ⟨rfl, rfl, rfl, rfl, rfl⟩
  | false =>
    rw [if_neg (by decide), if_neg (by decide), modChan_get]
    exact ⟨rfl, rfl, rfl, rfl, rfl⟩

theorem enterAwaitAnswer_onlyChannel (c : Chan) (s : State) : OnlyChannel c s (enterAwaitAnswer c s) := by
  intro d hd
  unfold enterAwaitAnswer
  dsimp only
  split
  · exact (modChan_get_ne _ _ hd).trans (modChan_get_ne _ _ hd)
  · exact modChan_get_ne _ _ hd

/-- A change of the dialling place at the end of a span counted from the entry to DIALLING. -/
theorem dialled_channel (c : Chan) (f : Channel → Channel) (t0 n : Nat) (s : State) :
    let t := modChan c f (jumpTo (t0 + n) s)
    OnlyChannel c s t ∧ Moves [.now, .channels] s t ∧ t.now = max s.now (t0 + n) ∧ t.channels.get c = f (s.channels.get c) :=
  ⟨modChan_only rfl, (jumpTo_moves _ s).within.also (modChan_moves _ _ _), rfl, modChan_get _ _ _⟩

/-- Settles O39: the carrier, and the three ends of a dialled digit. -/
theorem carrierAndDiallingReachAnnounce : Obligations.CarrierAndDiallingReachAnnounce := by
  unfold Obligations.CarrierAndDiallingReachAnnounce
  refine ⟨fun c s => ⟨carrierPresent_spec c s, carrierAbsent_spec c s⟩, fun c s t0 k call hs ht hk => ⟨fun hd => ?_, fun hd => ?_, fun hd => ?_⟩⟩
  · obtain ⟨only, moves, now, ch⟩ := dialled_channel c (fun ch => { ch with dial := .tone 0 }) t0 2000000 s
    refine ⟨_, ?_, only, moves, now, ch, ?_⟩
    · refine (if_pos ⟨hs, hd⟩).trans ?_
      rw [ht]; rfl
    · rw [ch]; unfold dialTone; simp only [hk]
  · obtain ⟨only, moves, now, ch⟩ := dialled_channel c (fun ch => { ch with dial := .gap k }) t0 (2000000 + 160000 * k + 80000) s
    refine ⟨_, ?_, only, moves, now, ch, ?_⟩
    · show execDigitToneEnd c s = _
      unfold execDigitToneEnd
      simp only [hs, hd, ht, jumpPast, toneEnd, settleLength, toneLength]
    · rw [ch]; unfold dialTone; simp only
  · have e : exec (.digitSilenceEnd c) s = if k + 1 < call.entry.digits.length then
        .next (modChan c (fun ch => { ch with dial := .tone (k + 1) }) (jumpTo (t0 + (2000000 + 160000 * (k + 1))) s))
        else .next (enterAwaitAnswer c (jumpTo (t0 + (2000000 + 160000 * (k + 1))) s)) := by
      show execDigitSilenceEnd c s = _
      unfold execDigitSilenceEnd
      simp only [hs, hd, ht, jumpPast, silenceEnd, settleLength, toneLength, digitCount, hk]
    by_cases h : k + 1 < call.entry.digits.length
    · obtain ⟨only, moves, now, ch⟩ := dialled_channel c (fun ch => { ch with dial := .tone (k + 1) }) t0 (2000000 + 160000 * (k + 1)) s
      exact ⟨_, e.trans (if_pos h), only, moves, now, fun _ => ch, fun h' => absurd h (by omega)⟩
    · obtain ⟨state, timer, dial, hook, hcall⟩ := enterAwaitAnswer_get c (jumpTo (t0 + (2000000 + 160000 * (k + 1))) s)
      have moves := enterAwaitAnswer_moves c (jumpTo (t0 + (2000000 + 160000 * (k + 1))) s)
      have now : (enterAwaitAnswer c (jumpTo (t0 + (2000000 + 160000 * (k + 1))) s)).now = max s.now (t0 + (2000000 + 160000 * (k + 1))) :=
        moves .now (by decide)
      exact ⟨_, e.trans (if_neg h), enterAwaitAnswer_onlyChannel c _, (jumpTo_moves _ s).within.also moves, now, fun h' => absurd h' h,
        fun _ => ⟨state, by rw [now]; exact timer, dial, hook, hcall.trans hk⟩⟩

/-! ### The ends of COOLDOWN and RELEASE (R116, R117) -/

/-- The instant at which the last of some frames has left the line, by the bytes of the run (R120). -/
theorem framesEnd_eq {ch : Channel} {k : Call} (h : ch.call = some k) (fs : List ForwardFrame) :
    framesEnd ch fs = ch.runStart + (ch.runBytes + (fs.map fun f => (frameBytes f).length).sum) * 8 * 1000000 / k.entry.rate.bits := by
  unfold framesEnd callRate
  rw [h]
  rfl

/-- The state at the end of the frames owed (R116). -/
def framesOwedOut (c : Chan) (s : State) : State :=
  if framesOut (s.channels.get c) = [] then s else jumpTo (framesEnd (s.channels.get c) (framesOut (s.channels.get c))) s

theorem framesOwedOut_moves (c : Chan) (s : State) : Moves [.now] s (framesOwedOut c s) := by
  unfold framesOwedOut; split
  · exact (Moves.refl [] s).within
  · exact jumpTo_moves _ _

theorem exec_releaseComplete {c : Chan} {s : State} (h : (s.channels.get c).state = .release) :
    exec (.releaseComplete c) s =
      .next (finishStep (markIfIdle c (modChan c (putDown (framesOwedOut c s).now) (framesOwedOut c s)))) := if_pos h

theorem putDown_rests {now : Nat} {ch : Channel} (h : restsLine ch.ending = true) : putDown now ch =
    { ch with hook := .onHook, call := none, onLine := none, owed := [], state := .cooldown, stateTimer := some now } := if_pos h

theorem putDown_free {now : Nat} {ch : Channel} (h : restsLine ch.ending = false) : putDown now ch =
    { ch with hook := .onHook, call := none, onLine := none, owed := [], state := restState ch } :=
  if_neg (by show ¬ restsLine ch.ending = true; rw [h]; decide)

/-- The endings after which the line rests (R115). -/
theorem restsLine_iff (e : Option CallEnding) : restsLine e = true ↔ ∃ oc, e = some (.outcome oc) ∧
    (oc = .wrongStation ∨ oc = .phasingFailed ∨ oc = .holdTimeout ∨ oc = .lineLost ∨ oc = .dropped) := by
  cases e with
  | none => simp [restsLine]
  | some e =>
    cases e with
    | outcome oc => cases oc <;> simp [restsLine]
    | reset => simp [restsLine]
    | released => simp [restsLine]

/-- Settles O41: the end of the rest, and the line put down at the end of the last frame owed. -/
theorem cooldownAndReleaseEnd : Obligations.CooldownAndReleaseEnd := by
  unfold Obligations.CooldownAndReleaseEnd
  intro c s
  refine ⟨fun t0 hs ht => ?_, fun hs => ?_⟩
  · obtain ⟨only, ch, moves, state, due⟩ := comesToRest c leaveCooldown (s := s) (t := jumpTo (t0 + 30000000) s) (jumpTo_moves _ s).within rfl
    refine ⟨_, (if_pos ⟨hs, by rw [ht]; rfl⟩).trans (by rw [ht]; rfl), only, (jumpTo_moves _ s).within.also moves, moves .now (by decide), ?_, due⟩
    rw [ch, ← restState_eq]; rfl
  · have out := framesOwedOut_moves c s
    generalize hn : (framesOwedOut c s).now = now
    have hch : (framesOwedOut c s).channels = s.channels := out .channels (by decide)
    have get : (markIfIdle c (modChan c (putDown now) (framesOwedOut c s))).channels.get c = putDown now (s.channels.get c) := by
      rw [markIfIdle_channels, modChan_get, hch]
    have moves : Moves [.channels, .selectDue] (framesOwedOut c s) (markIfIdle c (modChan c (putDown now) (framesOwedOut c s))) :=
      (modChan_moves c (putDown now) (framesOwedOut c s)).within.also (markIfIdle_moves c _)
    have hnow : (markIfIdle c (modChan c (putDown now) (framesOwedOut c s))).now = now := (moves .now (by decide)).trans hn
    refine ⟨markIfIdle c (modChan c (putDown now) (framesOwedOut c s)), by rw [← hn]; exact exec_releaseComplete hs, fun d hd => ?_,
      out.within.also moves, ?_⟩
    · rw [markIfIdle_channels, modChan_get_ne _ _ hd, hch]
    rw [get, hnow]
    refine ⟨?_, ?_, fun h1 h2 => ?_, fun k fs hk hfs hne => ?_, ?_⟩
    · unfold putDown; dsimp only; split <;> rfl
    · unfold putDown; dsimp only; split <;> rfl
    · rw [← hn]; unfold framesOwedOut; rw [if_pos (by unfold framesOut; rw [h1, h2]; rfl)]
    · have hfs : fs = framesOut (s.channels.get c) := hfs
      rw [← hn, hfs, ← framesEnd_eq hk]
      unfold framesOwedOut
      rw [if_neg (hfs ▸ hne)]
      rfl
    · cases hr : restsLine (s.channels.get c).ending with
      | true =>
        rw [putDown_rests hr]
        refine ⟨rfl, rfl, rfl, fun _ _ _ => ⟨rfl, rfl⟩, fun h => ?_⟩
        obtain ⟨oc, he, hoc⟩ := (restsLine_iff _).mp hr
        have := h oc he
        rcases hoc with rfl | rfl | rfl | rfl | rfl <;> simp at this
      | false =>
        rw [putDown_free hr]
        refine ⟨rfl, rfl, rfl, fun oc he hoc => ?_, fun _ => ⟨restState_eq _, fun hsv => markIfIdle_due ?_⟩⟩
        · rw [(restsLine_iff _).mpr ⟨oc, he, hoc⟩] at hr; cases hr
        · rw [modChan_get, hch, putDown_free hr]
          exact (restState_eq _).trans (if_pos hsv)

end Sys2Proof.Machine
end

section
/-! PROOF. The frames of a back channel (O42 to O46): their tests, and what each kind does when taken. -/

namespace Sys2Proof.Machine

/-! ### The tests of R112 and R113 -/

theorem testFrame_unread {ch : Channel} {code : Word} {kind : BackKind} (h : readsBack ch.state = false) :
    testFrame ch code kind = .unread := if_pos h

theorem testFrame_known {ch : Channel} {code : Word} {kind : BackKind} {k : Call} (hr : readsBack ch.state = true)
    (hs : ¬ (ch.state = .announce ∧ kind = .station)) (hk : ch.call = some k) :
    testFrame ch code kind =
      if codeMatches code k.entry = false then .stranger else if expects ch.state kind then .taken else .unexpected := by
  unfold testFrame
  rw [if_neg (by rw [hr]; decide), if_neg hs, hk]

theorem codeMatches_eq_false_iff (code : Word) (e : Entry) : codeMatches code e = false ↔ ¬ CodeAgrees e code := by
  rw [← codeMatches_iff, Bool.not_eq_true]

theorem receiveFrame_unread {c : Chan} {code : Word} {kind : BackKind} {act : State → State} {s : State}
    (h : readsBack (s.channels.get c).state = false) : receiveFrame c code kind act s = s := by
  unfold receiveFrame; rw [testFrame_unread h]

theorem receiveFrame_stranger {c : Chan} {code : Word} {kind : BackKind} {act : State → State} {s : State} {k : Call}
    (hr : readsBack (s.channels.get c).state = true) (hs : ¬ ((s.channels.get c).state = .announce ∧ kind = .station))
    (hk : (s.channels.get c).call = some k) (ha : ¬ CodeAgrees k.entry code) :
    receiveFrame c code kind act s = setFault c .stranger s := by
  unfold receiveFrame
  rw [testFrame_known hr hs hk, if_pos ((codeMatches_eq_false_iff _ _).mpr ha)]

theorem receiveFrame_unexpected {c : Chan} {code : Word} {kind : BackKind} {act : State → State} {s : State} {k : Call}
    (hr : readsBack (s.channels.get c).state = true) (hs : ¬ ((s.channels.get c).state = .announce ∧ kind = .station))
    (hk : (s.channels.get c).call = some k) (ha : CodeAgrees k.entry code) (he : ((s.channels.get c).state, kind) ∉ expectedKinds) :
    receiveFrame c code kind act s = setFault c .unexpected s := by
  unfold receiveFrame
  rw [testFrame_known hr hs hk, if_neg (fun h => (codeMatches_eq_false_iff _ _).mp h ha), if_neg (fun h => he ((expects_iff _ _).mp h))]

theorem receiveFrame_announce {c : Chan} {code : Word} {act : State → State} {s : State} (h : (s.channels.get c).state = .announce) :
    receiveFrame c code .station act s = act s := by
  unfold receiveFrame testFrame
  rw [h]
  rfl

/-- A frame with a good check that is not taken is executed alike whatever its kind would do. -/
theorem exec_backFrame {i : Instr} {c : Chan} {code : Word} {kind : BackKind} {s t : State} (h : backFrameOf i = some (c, code, kind))
    (ht : ∀ act, receiveFrame c code kind act s = t) (hd : t.selectDue = false) : exec i s = .next t := by
  have finished : ∀ act, finishStep (receiveFrame c code kind act s) = t := fun act => by rw [ht act, finishStep_not_due t hd]
  unfold backFrameOf at h
  split at h <;> cases h
  · exact congrArg Host.Outcome.next (finished _)
  · exact congrArg Host.Outcome.next (ht _)
  · exact congrArg Host.Outcome.next (finished _)
  · exact congrArg Host.Outcome.next (ht _)
  · exact congrArg Host.Outcome.next (ht _)
  · exact congrArg Host.Outcome.next (finished _)
  · exact congrArg Host.Outcome.next (ht _)

theorem setFault_spec (c : Chan) (f : FaultCode) (s : State) : OnlyChannel c s (setFault c f s) ∧ Moves [.channels] s (setFault c f s) ∧
    (setFault c f s).channels.get c = { s.channels.get c with fault := f } :=
  ⟨modChan_only rfl, modChan_moves _ _ _, modChan_get _ _ _⟩

/-! ### A frame whose check fails (R112, R134 to R136) -/

/-- A trouble count that reaches 128 drops the call. -/
theorem raiseTrouble_drops_eq {c : Chan} {n : Nat} {s : State} (ht : 128 ≤ (s.channels.get c).trouble + n)
    (h48 : 48 ≤ (s.channels.get c).trouble) : raiseTrouble c n s =
      endWithOutcome c .dropped none (modChan c (fun ch => { ch with trouble := (s.channels.get c).trouble + n }) s) := by
  unfold raiseTrouble; dsimp only; rw [if_pos ht, if_neg (by omega)]

/-- All that a dropped call leaves behind, from a state whose channel differs in its fault code alone. -/
theorem raiseTrouble_dropped {c : Chan} {n : Nat} {s t : State} (hm : Moves [.channels] s t) (ho : OnlyChannel c s t)
    (hc : SameLine (t.channels.get c) (s.channels.get c)) (ht : 128 ≤ (t.channels.get c).trouble + n) (h48 : 48 ≤ (t.channels.get c).trouble) :
    CallEnded c (.outcome .dropped) s (raiseTrouble c n t) ∧ DestinationPlaced c .dropped s (raiseTrouble c n t) ∧
      OnlyChannel c s (raiseTrouble c n t) ∧ Moves callEndParts s (raiseTrouble c n t) ∧
      ((raiseTrouble c n t).channels.get c).trouble = (t.channels.get c).trouble + n ∧
      ((raiseTrouble c n t).channels.get c).fault = (t.channels.get c).fault := by
  rw [raiseTrouble_drops_eq ht h48]
  generalize hv : modChan c (fun ch => { ch with trouble := (t.channels.get c).trouble + n }) t = v
  have get : v.channels.get c = { t.channels.get c with trouble := (t.channels.get c).trouble + n } := by rw [← hv]; exact modChan_get _ _ _
  have moves : Moves [.channels] s v := by rw [← hv]; exact hm.also (modChan_moves _ _ _)
  have only : OnlyChannel c s v := fun d hd => by rw [← hv, modChan_get_ne _ _ hd, ho d hd]
  obtain ⟨ended, placed, only', _, _⟩ := endWithOutcome_from c .dropped none moves.within only (by rw [get]; exact hc)
  obtain ⟨trouble, fault, _⟩ := endWithOutcome_keeps c .dropped none v
  exact ⟨ended, placed, only', moves.within.also (endWithOutcome_moves c .dropped none v), by rw [trouble, get], by rw [fault, get]⟩

theorem failedCheck_reads {c : Chan} {s : State} (h : readsBack (s.channels.get c).state = true) :
    failedCheck c s = raiseTrouble c 4 (setFault c .badCheck s) := if_pos h

theorem failedCheck_unread {c : Chan} {s : State} (h : readsBack (s.channels.get c).state = false) : failedCheck c s = s :=
  if_neg (by rw [h]; decide)

theorem exec_failedCheck {i : Instr} {c : Chan} {s : State} (h : i = .badCheck c ∨ i = .framingFailure c) :
    exec i s = .next (finishStep (failedCheck c s)) := by
  rcases h with rfl | rfl <;> rfl

/-! ### Frames as levels (R112, R185) -/

theorem execRows_one (i : Instr) (s : State) : execRows [i] s = exec i s := by
  unfold execRows
  cases exec i s <;> rfl

theorem receiveRows_byteBits (c : Chan) (b : Byte) (idle : Nat) (run : Option (List Byte)) :
    receiveRows c (false :: msbFirst b) { idle := idle, byte := none, run := run } = [] := by
  obtain ⟨b7, b6, b5, b4, b3, b2, b1, b0, hm⟩ : ∃ b7 b6 b5 b4 b3 b2 b1 b0, msbFirst b = [b7, b6, b5, b4, b3, b2, b1, b0] :=
    ⟨_, _, _, _, _, _, _, _, rfl⟩
  rw [hm]
  cases run <;> simp [receiveRows, receiveLevel, levelRows]

/-- Ten bit times of idle between frames leave the line ready, however long the idle before them was. -/
theorem receive_quietIdle (c : Chan) {run : Option (List Byte)} (h : run = none ∨ run = some []) {n : Nat} (idle : Nat) (hn : 10 ≤ n) :
    receiveLevels (List.replicate n true) { idle := idle, byte := none, run := run } = Reception.ready ∧
      receiveRows c (List.replicate n true) { idle := idle, byte := none, run := run } = [] := by
  have rows : idleRows c run = [] := by rcases h with rfl | rfl <;> rfl
  by_cases hi : idle < 10
  · rw [← rows]
    exact receive_idle c run n idle hi (by omega)
  · obtain ⟨m, rfl⟩ : ∃ m, n = m + 1 := ⟨n - 1, by omega⟩
    obtain ⟨a, b⟩ := receive_ready c m
    have hl : receiveLevel true { idle := idle, byte := none, run := run } = Reception.ready := by
      simp [receiveLevel, idleBits, Reception.ready, show 10 ≤ idle + 1 by omega]
    have hr : levelRows c true { idle := idle, byte := none, run := run } = [] := by
      rcases h with rfl | rfl <;> simp [levelRows, backChannelRows, openRunRows]
    rw [List.replicate_succ, receiveLevels, List.foldl_cons, ← receiveLevels, receiveRows, hl, hr]
    exact ⟨a, b⟩

/-- A run shorter than its frame completes no row yet. -/
theorem openRunRows_short (c : Chan) {k : Byte} {rest : List Byte} {kind : BackKind} (hk : backKindOfByte k = some kind)
    (h : (k :: rest).length < backFrameSize kind) : openRunRows c (k :: rest) = [] := by
  unfold openRunRows
  simp only [hk]
  exact if_pos h

theorem openRunRows_long (c : Chan) {k : Byte} {rest : List Byte} {kind : BackKind} (hk : backKindOfByte k = some kind)
    (h : backFrameSize kind ≤ (k :: rest).length) : openRunRows c (k :: rest) = backChannelRows c (k :: rest) := by
  unfold openRunRows
  simp only [hk]
  exact if_neg (by omega)


/-- The levels of some bytes, each with its rest behind it. -/
abbrev byteLevels (bytes : List (Byte × Nat)) : List Bool := bytes.flatMap fun x => backByteLevels x.1 ++ List.replicate x.2 true

/-- Bytes that do not yet fill a frame are kept (R185). -/
theorem backLevels_short {c : Chan} {s : State} {idle : Nat} {bytes : List (Byte × Nat)} {k : Byte} {rest : List Byte} {kind : BackKind}
    (hr : readsBack (s.channels.get c).state = true) (hq : (s.channels.get c).reception = { idle := idle, byte := none, run := some [] })
    (hgap : ∀ x ∈ bytes, x.2 < 10) (hb : bytes.map Prod.fst = k :: rest) (hk : backKindOfByte k = some kind)
    (hlen : bytes.length < backFrameSize kind) :
    ∃ q : Reception, q.run = some (k :: rest) ∧ q.byte = none ∧ backLevels c (byteLevels bytes) s = .next (setReception c q s) := by
  obtain ⟨i, _, levels, rows⟩ := receive_bytes c bytes [] idle hgap
  rw [List.nil_append, hb] at levels rows
  have none : openRunRows c (k :: rest) = [] := openRunRows_short c hk (by rw [← hb, List.length_map]; exact hlen)
  refine ⟨_, rfl, rfl, (backLevels_quiet c _ s hr ?_).trans (by rw [hq, levels])⟩
  rw [hq]
  rw [none] at rows
  exact rows

/-- The last byte of a frame, without a rest behind it, executes the frame's row (R185). -/
theorem backLevels_frame {c : Chan} {s : State} {idle : Nat} {bytes : List (Byte × Nat)} {b k : Byte} {rest : List Byte} {kind : BackKind}
    {i : Instr} (hr : readsBack (s.channels.get c).state = true)
    (hq : (s.channels.get c).reception = { idle := idle, byte := none, run := some [] })
    (hgap : ∀ x ∈ bytes, x.2 < 10) (hb : bytes.map Prod.fst ++ [b] = k :: rest) (hk : backKindOfByte k = some kind)
    (hlen : bytes.length + 1 = backFrameSize kind) (hi : backChannelRows c (k :: rest) = [i]) :
    backLevels c (byteLevels bytes ++ backByteLevels b) s =
      exec i (setReception c { idle := 0, byte := none, run := some (k :: rest) } s) := by
  obtain ⟨j, _, levels, rows⟩ := receive_bytes c bytes [] idle hgap
  rw [List.nil_append] at levels rows
  have size : (k :: rest).length = backFrameSize kind := by rw [← hb, ← hlen]; simp
  have short : openRunRows c (bytes.map Prod.fst) = [] := by
    match bytes, hb with
    | [], _ => rfl
    | x :: xs, hb =>
      have hx : x.1 = k := by simpa using congrArg List.head? hb
      exact openRunRows_short c (by rw [hx]; exact hk) (by simpa using (by omega : (x :: xs).length < backFrameSize kind))
  rw [short] at rows
  have rows : receiveRows c (byteLevels bytes) { idle := idle, byte := none, run := some [] } = [] := rows
  obtain ⟨byte, byteRow⟩ := receive_byte c b (if bytes = [] then idle else j) (some (bytes.map Prod.fst))
  have last : byteRows c b (some (bytes.map Prod.fst)) = [i] := by
    have grown := openRunRows_grow c (bytes.map Prod.fst) b
    rw [short, hb, openRunRows_long c hk (Nat.le_of_eq size.symm), hi] at grown
    exact grown
  have split : byteLevels bytes ++ backByteLevels b = (byteLevels bytes ++ (false :: msbFirst b)) ++ [true] := by
    simp [backByteLevels]
  rw [split, backLevels_last c _ true s hr, ← split, hq, receiveRows_append, receiveLevels_append, levels, rows, byteRow, byte, last,
    List.nil_append, execRows_one, Option.map_some, hb]
  rw [hq, receiveRows_append, levels, rows, receiveRows_byteBits]
  rfl

/-- What the back channel of a channel carries, where it reads it and where it does not. -/
theorem backLevels_read (c : Chan) (s : State) (r : Reception) (hq : r = (s.channels.get c).reception) :
    (readsBack (s.channels.get c).state = false → ∀ levels, levels ≠ [] →
      ∃ q, backLevels c levels s = .next (setReception c q s) ∧ (q.run = none ∨ q.run = some [] ∧ q.byte = none)) ∧
    (readsBack (s.channels.get c).state = true → r.byte = none →
      (∀ n, 10 ≤ n → r.run = none ∨ r.run = some [] → backLevels c (List.replicate n true) s =
        .next (setReception c { idle := 10, byte := none, run := some [] } s)) ∧
      ∀ (bytes : List (Byte × Nat)) (levels : List Bool), (∀ x ∈ bytes, x.2 < 10) →
        levels = bytes.flatMap (fun x => backByteLevels x.1 ++ List.replicate x.2 true) →
        (r.run = none → ∃ q, q.run = none ∧ q.byte = none ∧ backLevels c levels s = .next (setReception c q s)) ∧
        ∀ k rest kind, bytes.map Prod.fst = k :: rest → backKindOfByte k = some kind → r.run = some [] →
          (bytes.length < backFrameSize kind → ∃ q, q.run = some (k :: rest) ∧ q.byte = none ∧
            backLevels c levels s = .next (setReception c q s)) ∧
          (bytes.length = backFrameSize kind → (∃ b, bytes.getLast? = some (b, 0)) → ∀ i, backChannelRows c (k :: rest) = [i] →
            backLevels c levels s = exec i (setReception c { idle := 0, byte := none, run := some (k :: rest) } s))) := by
  refine ⟨fun hr levels hne => ?_, fun hr hbyte => ?_⟩
  · obtain ⟨x, hx⟩ := backLevels_unread c levels s hr hne
    refine ⟨_, hx, ?_⟩
    unfold discardFrame
    split
    · rename_i h; exact .inr h
    · exact .inl rfl
  · obtain ⟨idle, byte, run⟩ := r
    cases hbyte
    refine ⟨fun n hn hrun => ?_, fun bytes levels hgap hlevels => ⟨fun hrun => ?_, fun k rest kind hb hk hrun => ?_⟩⟩
    · obtain ⟨ready, rows⟩ := receive_quietIdle c hrun idle hn
      rw [hq] at ready rows
      rw [backLevels_quiet c _ s hr rows, ready]
      rfl
    · cases hrun
      obtain ⟨⟨i, left⟩, rows⟩ := receive_discarded c bytes idle hgap
      rw [hq, ← hlevels] at left rows
      exact ⟨_, rfl, rfl, (backLevels_quiet c _ s hr rows).trans (by rw [left])⟩
    · cases hrun
      subst hlevels
      refine ⟨fun hlen => backLevels_short hr hq.symm hgap hb hk hlen, fun hlen hlast i hi => ?_⟩
      obtain ⟨b, hlast⟩ := hlast
      obtain ⟨init, rfl⟩ := List.getLast?_eq_some_iff.mp hlast
      have frame := backLevels_frame (bytes := init) (b := b) hr hq.symm (fun x hx => hgap x (List.mem_append_left _ hx))
        (by rw [← hb]; simp) hk (by rw [← hlen]; simp) hi
      rw [← frame]
      congr 1
      simp

/-- Settles O42: the tests of a frame, a failed check, and the levels of the line. -/
theorem backChannelFramesAreTested : Obligations.BackChannelFramesAreTested := by
  unfold Obligations.BackChannelFramesAreTested
  refine ⟨?_, ?_, backLevels_read⟩
  · rintro i c code kind s ch hi rfl hd
    refine ⟨fun hr => exec_backFrame hi (fun _ => receiveFrame_unread hr) hd, fun k hk hr hs => ⟨fun ha => ?_, fun ha he => ?_, fun ha he => ?_⟩⟩
    · obtain ⟨only, moves, get⟩ := setFault_spec c .stranger s
      exact ⟨_, exec_backFrame hi (fun _ => receiveFrame_stranger hr hs hk ha) hd, only, moves, get⟩
    · obtain ⟨only, moves, get⟩ := setFault_spec c .unexpected s
      exact ⟨_, exec_backFrame hi (fun _ => receiveFrame_unexpected hr hs hk ha he) hd, only, moves, get⟩
    · exact congrArg Host.Outcome.next (receiveFrame_taken c code kind id s k hk ha he)
  · rintro i c s ch hi rfl
    refine ⟨fun hr hd => (exec_failedCheck hi).trans ?_, fun k hr hk => ⟨failedCheck c s, exec_failedCheck hi, ?_⟩⟩
    · rw [failedCheck_unread hr, finishStep_not_due s hd]
    obtain ⟨only, moves, get⟩ := setFault_spec c .badCheck s
    rw [failedCheck_reads hr]
    have trouble : ((setFault c .badCheck s).channels.get c).trouble = (s.channels.get c).trouble := by rw [get]
    by_cases hlow : (s.channels.get c).trouble < 124
    · obtain ⟨rises, only', moves', get'⟩ := raiseTrouble_rises c 4 k (setFault c .badCheck s) (by rw [get]; exact hk) (by omega)
      refine ⟨fun d hd => (only' d hd).trans (only d hd), fun _ => ⟨?_, moves.within.also moves', ?_⟩, fun h => absurd hlow (by omega)⟩
      · rw [get] at rises; exact rises
      · rw [get] at get'; exact get'
    · obtain ⟨ended, placed, only', moves', trouble', fault⟩ := raiseTrouble_dropped (n := 4) moves only
        (by rw [get]; exact ⟨rfl, rfl, rfl, rfl, rfl, rfl, rfl, rfl⟩) (by omega) (by omega)
      exact ⟨only', fun h => absurd h hlow, fun _ => ⟨ended, placed, by rw [trouble', trouble], by rw [fault, get], moves'⟩⟩

/-! ### The frames taken -/

/-- Settles O43: the station identified, or the call ended with WRONG STATION. -/
theorem stationIdentifiesTheReceiver : Obligations.StationIdentifiesTheReceiver := by
  unfold Obligations.StationIdentifiesTheReceiver
  intro c code s k hs hk
  refine ⟨takeStation c code s, congrArg (fun u => Host.Outcome.next (finishStep u)) (receiveFrame_announce hs), ?_⟩
  have known : (identify s.store code).isSome ∧ identify s.store code = (s.channels.get c).call.map Call.entryIndex ↔
      Identifies s.store code k.entryIndex := by
    rw [← identify_iff, hk, Option.map_some]
    constructor
    · exact And.right
    · intro h; exact ⟨by rw [h]; rfl, h⟩
  have get : (modChan c (fun ch => { ch with station := some code }) s).channels.get c = { s.channels.get c with station := some code } :=
    modChan_get _ _ _
  by_cases h : Identifies s.store code k.entryIndex
  · have e : takeStation c code s = modChan c (fun ch => { ch with state := .caption, stateTimer := none })
        (modChan c (fun ch => { ch with station := some code }) s) := if_pos (known.mpr h)
    rw [e]
    refine ⟨fun d hd => (modChan_get_ne _ _ hd).trans (modChan_get_ne _ _ hd),
      fun _ => ⟨(modChan_moves _ _ _).also (modChan_moves _ _ _), ?_⟩, fun h' => absurd h h'⟩
    rw [modChan_get, get]
  · have e : takeStation c code s = endWithOutcome c .wrongStation none (modChan c (fun ch => { ch with station := some code }) s) :=
      if_neg (mt known.mp h)
    rw [e]
    obtain ⟨ended, placed, only, _, _⟩ := endWithOutcome_from c .wrongStation none (modChan_moves c (fun ch => { ch with station := some code }) s).within
      (modChan_only rfl) (by rw [get]; exact ⟨rfl, rfl, rfl, rfl, rfl, rfl, rfl, rfl⟩)
    refine ⟨only, fun h' => absurd h' h, fun _ => ⟨ended, placed, ?_, (modChan_moves _ _ _).within.also (endWithOutcome_moves _ _ _ _)⟩⟩
    rw [(endWithOutcome_keeps c .wrongStation none _).2.2, get]

/-- Settles O44: PHASED tests the start, HOLD starts the hold timer and GO stops it. -/
theorem phasedHoldAndGoAreTaken : Obligations.PhasedHoldAndGoAreTaken := by
  unfold Obligations.PhasedHoldAndGoAreTaken
  intro c code s k hk ha
  refine ⟨fun hs => ?_, fun hs => ⟨?_, ?_⟩⟩
  · exact ⟨_, congrArg Host.Outcome.next (receiveFrame_taken c code .phased (takePhased c) s k hk ha (by rw [hs]; decide)),
      modChan_only rfl, modChan_moves _ _ _, modChan_get _ _ _⟩
  · have taken := receiveFrame_taken c code .hold (takeHold c) s k hk ha (by rcases hs with hs | hs <;> rw [hs] <;> decide)
    have get : (takeHold c s).channels.get c = { s.channels.get c with hold := match (s.channels.get c).hold with
      | none => some s.now
      | some t => some t } := modChan_get _ _ _
    refine ⟨_, congrArg Host.Outcome.next taken, modChan_only rfl, modChan_moves _ _ _, fun hh => ?_, fun hh => ?_⟩
    · rw [get, hh]
    · obtain ⟨t, ht⟩ := Option.ne_none_iff_exists'.mp hh
      rw [get, ht]
      exact congrArg (fun x => { s.channels.get c with hold := x }) ht.symm
  · have taken := receiveFrame_taken c code .go (takeGo c) s k hk ha (by rcases hs with hs | hs <;> rw [hs] <;> decide)
    exact ⟨_, congrArg Host.Outcome.next taken, modChan_only rfl, modChan_moves _ _ _, modChan_get _ _ _⟩

theorem queueHolds_entry_iff (q : List RetakeEntry) (line : Nat) :
    queueHolds q line = true ↔ RetakeEntry.resend line ∈ q ∨ RetakeEntry.skip line ∈ q := by
  simp only [queueHolds, Bool.or_eq_true, List.contains_iff_mem]

/-- Step 3 of R132: the queue keeps its entry for the line, refuses, or takes one by the store's answer. -/
theorem enqueueRetake_held {c : Chan} {line : Nat} {s : State}
    (h : .resend line ∈ (s.channels.get c).queue ∨ .skip line ∈ (s.channels.get c).queue) : enqueueRetake c line s = s :=
  if_pos ((queueHolds_entry_iff _ _).mpr h)

theorem enqueueRetake_full {c : Chan} {line : Nat} {s : State}
    (h : ¬ (.resend line ∈ (s.channels.get c).queue ∨ .skip line ∈ (s.channels.get c).queue)) (hf : 6 ≤ (s.channels.get c).queue.length) :
    enqueueRetake c line s = modChan c (fun ch => { ch with refused := satSucc ch.refused }) s :=
  (if_neg (mt (queueHolds_entry_iff _ _).mp h)).trans (if_pos hf)

theorem enqueueRetake_room {c : Chan} {line : Nat} {s : State}
    (h : ¬ (.resend line ∈ (s.channels.get c).queue ∨ .skip line ∈ (s.channels.get c).queue)) (hf : (s.channels.get c).queue.length < 6) :
    enqueueRetake c line s = modChan c (fun ch => { ch with queue := ch.queue ++
      [if askLine c line s.lineStore = none then .skip line else .resend line] }) s := by
  refine (if_neg (mt (queueHolds_entry_iff _ _).mp h)).trans ((if_neg (Nat.not_le.mpr hf)).trans ?_)
  cases askLine c line s.lineStore <;> rfl

theorem enqueueRetake_spec (c : Chan) (line : Nat) (s : State) : Moves [.channels] s (enqueueRetake c line s) ∧
    OnlyChannel c s (enqueueRetake c line s) ∧
    ((enqueueRetake c line s).channels.get c).trouble = (s.channels.get c).trouble ∧
    ((enqueueRetake c line s).channels.get c).caution = (s.channels.get c).caution := by
  by_cases h : .resend line ∈ (s.channels.get c).queue ∨ .skip line ∈ (s.channels.get c).queue
  · rw [enqueueRetake_held h]; exact ⟨(Moves.refl [] s).within, fun _ _ => rfl, rfl, rfl⟩
  · by_cases hf : 6 ≤ (s.channels.get c).queue.length
    · rw [enqueueRetake_full h hf, modChan_get]; exact ⟨modChan_moves _ _ _, modChan_only rfl, rfl, rfl⟩
    · rw [enqueueRetake_room h (by omega), modChan_get]; exact ⟨modChan_moves _ _ _, modChan_only rfl, rfl, rfl⟩

/-- A RETAKE of a line not yet started (R132). -/
theorem takeRetake_above {c : Chan} {line : Nat} {s : State} (h : (s.channels.get c).sendPosition ≤ line) :
    takeRetake c line s = setFault c .badRetake s := if_pos h

theorem takeRetake_drops {c : Chan} {line : Nat} {s : State} (h : line < (s.channels.get c).sendPosition)
    (ht : 120 ≤ (s.channels.get c).trouble) : takeRetake c line s = raiseTrouble c 8 s :=
  (if_neg (by omega)).trans (if_pos (by omega))

theorem takeRetake_queues {c : Chan} {line : Nat} {s : State} (h : line < (s.channels.get c).sendPosition)
    (ht : (s.channels.get c).trouble < 120) : takeRetake c line s = enqueueRetake c line (raiseTrouble c 8 s) :=
  (if_neg (by omega)).trans (if_neg (by omega))

/-- A trouble count that has risen stays so under a change of the queue. -/
theorem TroubleRises.congr {c : Chan} {n : Nat} {k : Call} {ch : Channel} {s u v : State} (h : TroubleRises c n k ch s u)
    (hl : v.links = u.links) (ht : (v.channels.get c).trouble = (u.channels.get c).trouble)
    (hc : (v.channels.get c).caution = (u.channels.get c).caution) : TroubleRises c n k ch s v := by
  unfold TroubleRises NoticedToBoth at *
  rw [hl, ht, hc]
  exact h

/-- Settles O45: the range of the line, the trouble count, then the queue. -/
theorem retakeIsHandledInOrder : Obligations.RetakeIsHandledInOrder := by
  unfold Obligations.RetakeIsHandledInOrder
  rintro c code line s k ch L rfl rfl hk ha hs
  have taken := receiveFrame_taken c code .retake (takeRetake c line.toNat) s k hk ha (by rcases hs with hs | hs <;> rw [hs] <;> decide)
  refine ⟨takeRetake c line.toNat s, congrArg (fun u => Host.Outcome.next (finishStep u)) taken, ?_⟩
  rcases Nat.lt_or_ge line.toNat (s.channels.get c).sendPosition with hlt | hge
  · rcases Nat.lt_or_ge (s.channels.get c).trouble 120 with hlow | hhigh
    · rw [takeRetake_queues hlt hlow]
      obtain ⟨rises, only, moves, get⟩ := raiseTrouble_rises c 8 k s hk (by omega)
      generalize hv : raiseTrouble c 8 s = v at *
      obtain ⟨moves', only', trouble, caution⟩ := enqueueRetake_spec c line.toNat v
      have queue : (v.channels.get c).queue = (s.channels.get c).queue := by rw [get]
      have store : v.lineStore = s.lineStore := moves .lineStore (by decide)
      refine ⟨fun d hd => (only' d hd).trans (only d hd), fun h => absurd hlt (by omega), fun _ h => absurd hlow (by omega), fun _ _ => ?_⟩
      rw [caution]
      refine ⟨rises.congr (moves' .links (by decide)) trouble caution, moves.also moves', fun h => ?_, fun h1 h2 hf => ?_, fun h1 h2 hf => ?_⟩
      · rw [enqueueRetake_held (by rw [queue]; exact h)]; exact get
      · rw [enqueueRetake_full (by rw [queue]; exact fun h => h.elim h1 h2) (by rw [queue]; exact hf), modChan_get]
        refine Eq.trans ?_ (congrArg (fun x : Channel => { x with refused := min 65535 ((s.channels.get c).refused + 1) }) get)
        rw [show (v.channels.get c).refused = (s.channels.get c).refused by rw [get], satSucc_eq]
      · rw [enqueueRetake_room (by rw [queue]; exact fun h => h.elim h1 h2) (by rw [queue]; exact hf), modChan_get, store, queue]
        exact congrArg (fun x : Channel => { x with queue := (s.channels.get c).queue ++
          [if askLine c line.toNat s.lineStore = none then RetakeEntry.skip line.toNat else RetakeEntry.resend line.toNat] }) get
    · rw [takeRetake_drops hlt hhigh]
      obtain ⟨ended, placed, only, moves, trouble, fault⟩ := raiseTrouble_dropped (c := c) (n := 8) (Moves.refl [.channels] s) (fun _ _ => rfl)
        ⟨rfl, rfl, rfl, rfl, rfl, rfl, rfl, rfl⟩ (by omega) (by omega)
      exact ⟨only, fun h => absurd hlt (by omega), fun _ _ => ⟨ended, placed, trouble, fault, moves⟩, fun _ h => absurd h (by omega)⟩
  · rw [takeRetake_above hge]
    obtain ⟨only, moves, get⟩ := setFault_spec c .badRetake s
    exact ⟨only, fun _ => ⟨moves, get⟩, fun h => absurd h (by omega), fun h => absurd h (by omega)⟩

/-- Settles O46: the receipt ends the call with its report. -/
theorem receiptEndsTheCall : Obligations.ReceiptEndsTheCall := by
  unfold Obligations.ReceiptEndsTheCall
  intro c code received unrecovered grade picture s k oc hs hk ha hoc
  have taken := receiveFrame_taken c code .receipt (takeReceipt c (reportOf received unrecovered grade picture)) s k hk ha (by rw [hs]; decide)
  have outcome : outcomeOf (reportOf received unrecovered grade picture) = oc := hoc.symm
  have final : retryable oc = false := by rw [hoc]; split <;> rfl
  have ends : takeReceipt c (reportOf received unrecovered grade picture) s =
      endWithOutcome c oc (some (reportOf received unrecovered grade picture)) s := by unfold takeReceipt; rw [outcome]
  rw [ends] at taken
  obtain ⟨ended, only, moves⟩ := endWithOutcome_spec c oc (some (reportOf received unrecovered grade picture)) s
  refine ⟨_, congrArg (fun u => Host.Outcome.next (finishStep u)) taken, ended, endWithOutcome_placed c oc _ rfl rfl rfl rfl, only, moves,
    fun o d ho hd hsend hch => ?_⟩
  obtain ⟨x, _, _, _, report, _, _, filed⟩ := endWithOutcome_places (oc := oc) (rep := some (reportOf received unrecovered grade picture))
    (s := s) (t := s) rfl rfl rfl rfl hk ho hd hsend hch
  obtain ⟨state, out, exhausted, find, filing⟩ := filed fun h => by rw [final] at h; cases h.1
  exact ⟨x, find, state, out, exhausted.trans final, report, filing⟩

end Sys2Proof.Machine
end

section
/-! PROOF. The layout of forward frames and of a line's segments (O47). -/

namespace Sys2Proof.Machine

/-! ### Pieces and segments (R122) -/

theorem le_ceilDiv_mul (a : Nat) {b : Nat} (hb : 0 < b) : a ≤ ceilDiv a b * b := by
  unfold ceilDiv
  have div := Nat.div_add_mod (a + (b - 1)) b
  have mod := Nat.mod_lt (a + (b - 1)) hb
  rw [Nat.mul_comm] at div
  omega

theorem SegmentSize.size_pos (g : SegmentSize) : 0 < g.size := by cases g <;> decide

@[simp] theorem length_pieces {α : Type} (g : Nat) : ∀ (n : Nat) (xs : List α), (pieces g n xs).length = n
  | 0, _ => rfl
  | n + 1, xs => by simp [pieces, length_pieces g n]

theorem pieces_getElem? {α : Type} (g : Nat) : ∀ (n : Nat) (xs : List α) (j : Nat), j < n →
    (pieces g n xs)[j]? = some ((xs.drop (j * g)).take g)
  | n + 1, xs, 0, _ => by simp [pieces]
  | n + 1, xs, j + 1, h => by
    rw [pieces, List.getElem?_cons_succ, pieces_getElem? g n (xs.drop g) j (by omega), List.drop_drop]
    congr 3
    rw [Nat.succ_mul, Nat.add_comm]

theorem flatten_pieces {α : Type} (g : Nat) : ∀ (n : Nat) (xs : List α), (pieces g n xs).flatten = xs.take (n * g)
  | 0, xs => by simp [pieces]
  | n + 1, xs => by
    rw [pieces, List.flatten_cons, flatten_pieces g n, Nat.succ_mul, Nat.add_comm, List.take_add]

theorem pieces_eq_range {α : Type} (g n : Nat) (xs : List α) :
    pieces g n xs = (List.range n).map fun j => (xs.drop (j * g)).take g := by
  refine List.ext_getElem? fun j => ?_
  by_cases h : j < n
  · rw [pieces_getElem? g n xs j h]; simp [h]
  · rw [List.getElem?_eq_none (by simpa using h), List.getElem?_eq_none (by simpa using h)]

@[simp] theorem length_numberSegments (g count : Nat) (resent : Bool) (number : Nat) : ∀ (j : Nat) (ps : List (List Nat)),
    (numberSegments g count resent number j ps).length = ps.length
  | _, [] => rfl
  | j, p :: ps => by simp [numberSegments, length_numberSegments g count resent number (j + 1) ps]

theorem numberSegments_getElem? (g count : Nat) (resent : Bool) (number : Nat) : ∀ (ps : List (List Nat)) (j i : Nat),
    (numberSegments g count resent number j ps)[i]? = ps[i]?.map (segmentFrame g count resent number (j + i))
  | [], _, _ => by simp [numberSegments]
  | p :: ps, j, 0 => by simp [numberSegments]
  | p :: ps, j, i + 1 => by
    rw [numberSegments, List.getElem?_cons_succ, numberSegments_getElem? g count resent number ps (j + 1) i, List.getElem?_cons_succ]
    congr 2
    omega

/-- A line in its segments: their number, each of them, and all its levels. -/
theorem lineSegments_spec (g : SegmentSize) (resent : Bool) (n : Nat) (levels : List Nat) :
    (lineSegments g.size resent n levels).length = ceilDiv levels.length g.size ∧
      (∀ j, j < ceilDiv levels.length g.size → (lineSegments g.size resent n levels)[j]? =
        some (.line (decide (j = 0)) (decide (j + 1 = ceilDiv levels.length g.size)) resent n (j * g.size)
          ((levels.drop (j * g.size)).take g.size))) ∧
      (pieces g.size (ceilDiv levels.length g.size) levels).flatten = levels := by
  refine ⟨?_, fun j hj => ?_, ?_⟩
  · unfold lineSegments; simp
  · unfold lineSegments
    rw [numberSegments_getElem?, pieces_getElem? _ _ _ _ hj, Nat.zero_add]
    rfl
  · rw [flatten_pieces, List.take_of_length_le (le_ceilDiv_mul _ g.size_pos)]

/-! ### Bytes, bits and the check (R120, R121, R184) -/

theorem be_one (v : Nat) : be 1 v = [BitVec.ofNat 8 v] := by simp [be]

@[simp] theorem length_be : ∀ n v, (be n v).length = n
  | 0, _ => rfl
  | n + 1, v => by simp [be, length_be n]

theorem fieldBytes_cons (f : Nat × Nat) (fs : List (Nat × Nat)) : fieldBytes (f :: fs) = be f.1 f.2 ++ fieldBytes fs := rfl

theorem fieldBytes_append (fs gs : List (Nat × Nat)) : fieldBytes (fs ++ gs) = fieldBytes fs ++ fieldBytes gs := by
  simp [fieldBytes]

theorem fieldBytes_numbers (levels : List Nat) : fieldBytes (levels.map fun v => (1, v)) = levels.map (BitVec.ofNat 8) := by
  induction levels with
  | nil => rfl
  | cons v levels ih => rw [List.map_cons, fieldBytes_cons, ih, be_one]; rfl

theorem fieldBytes_characters (chars : List Byte) : fieldBytes (chars.map fun b => (1, b.toNat)) = chars := by
  induction chars with
  | nil => rfl
  | cons b chars ih => rw [List.map_cons, fieldBytes_cons, ih, be_one, BitVec.ofNat_toNat, BitVec.setWidth_eq]; rfl

theorem flagsByte_eq (first last resent : Bool) :
    be 1 (flagNumber first + 2 * flagNumber last + 4 * flagNumber resent) = [flagsByte first last resent] := by
  cases first <;> cases last <;> cases resent <;> rfl

/-- The bytes of a frame before its check, as R184 lays its fields out. -/
theorem frameBody_eq (f : ForwardFrame) : frameBody f = fieldBytes (frameFields f) := by
  cases f with
  | caption first last chars =>
    have flags : be 1 (flagNumber first + 2 * flagNumber last) = [flagsByte first last false] := flagsByte_eq first last false
    simp only [frameFields, fieldBytes_append, fieldBytes_cons, fieldBytes_characters, frameBody]
    rw [flags, be_one, be_one]
    rfl
  | line first last resent number start levels =>
    simp only [frameFields, fieldBytes_append, fieldBytes_cons, fieldBytes_numbers, frameBody]
    rw [flagsByte_eq, be_one]
    simp [fieldBytes]
  | phase count =>
    simp only [frameFields, fieldBytes_cons, frameBody, be_one]
    rfl
  | _ =>
    simp only [frameFields, fieldBytes_cons, frameBody, be_one]
    simp [fieldBytes]

theorem length_frameBytes (f : ForwardFrame) : (frameBytes f).length = match f with
    | .ident _ _ _ => 10
    | .caption _ _ chars => 5 + chars.length
    | .phase _ => 4
    | .line _ _ _ _ _ levels => 10 + levels.length
    | .fill _ => 5
    | .skip _ => 5
    | .abort _ => 5
    | .stop _ _ => 7 := by
  cases f <;> simp [frameBytes, withCheck, frameBody] <;> omega

theorem length_bits (bytes : List Byte) : (bytes.flatMap msbFirst).length = 8 * bytes.length := by
  induction bytes with
  | nil => rfl
  | cons b bytes ih => rw [List.flatMap_cons, List.length_append, ih, length_msbFirst, List.length_cons]; omega

/-- Bit `i` of byte `j`, most significant first. -/
theorem bits_getElem? : ∀ (bytes : List Byte) (j i : Nat) (b : Byte), bytes[j]? = some b → i < 8 →
    (bytes.flatMap msbFirst)[8 * j + i]? = some (b.getLsbD (7 - i))
  | x :: bytes, 0, i, b, hb, hi => by
    cases hb
    have hlt : i < (msbFirst x).length := by rw [length_msbFirst]; exact hi
    rw [List.flatMap_cons, Nat.mul_zero, Nat.zero_add, List.getElem?_append_left hlt, List.getElem?_eq_getElem hlt, msbFirst_getElem]
  | x :: bytes, j + 1, i, b, hb, hi => by
    rw [List.flatMap_cons, List.getElem?_append_right (by rw [length_msbFirst]; omega), length_msbFirst,
      show 8 * (j + 1) + i - 8 = 8 * j + i by omega]
    exact bits_getElem? bytes j i b hb hi

/-- The check, bit by bit over the whole run of bytes (R121). -/
theorem checkCode_eq (bytes : List Byte) : checkCode bytes =
    (bytes.flatMap fun b => [7, 6, 5, 4, 3, 2, 1, 0].map fun i => b.getLsbD i).foldl
      (fun (r : Word) bit => if bit = r.getLsbD 15 then r <<< 1 else (r <<< 1) ^^^ 0x1021#16) 0xFFFF#16 := by
  have bit : ∀ (r : Word) (b : Bool), checkBit r b = if b = r.getLsbD 15 then r <<< 1 else (r <<< 1) ^^^ 0x1021#16 := by
    intro r b
    unfold checkBit
    rw [show r.msb = r.getLsbD 15 from BitVec.msb_eq_getLsbD_last r]
    cases b <;> cases r.getLsbD 15 <;> rfl
  unfold checkCode
  rw [List.foldl_flatMap]
  congr 1
  funext r b
  unfold checkByte
  rw [List.foldl_map]
  congr 1
  funext r i
  exact bit r _

/-! ### The time of a line (R7, R104, R123) -/

theorem bytesOnLine_numberSegments (g count : Nat) (resent : Bool) (number : Nat) : ∀ (ps : List (List Nat)) (j : Nat),
    bytesOnLine (numberSegments g count resent number j ps) = ps.flatten.length + 10 * ps.length
  | [], _ => rfl
  | p :: ps, j => by
    rw [numberSegments, bytesOnLine_cons, bytesOnLine_numberSegments g count resent number ps (j + 1), segmentFrame, length_frameBytes]
    simp only [List.flatten_cons, List.length_append, List.length_cons]
    omega

theorem bytesOnLine_lineSegments (g : SegmentSize) (resent : Bool) (n : Nat) (levels : List Nat) :
    bytesOnLine (lineSegments g.size resent n levels) = levels.length + 10 * ceilDiv levels.length g.size := by
  unfold lineSegments
  rw [bytesOnLine_numberSegments, (lineSegments_spec g resent n levels).2.2, length_pieces]

theorem LineRate.bits_pos (r : LineRate) : 0 < r.bits := by cases r <;> decide

theorem LpmClass.lpm_pos (k : LpmClass) : 0 < k.lpm := by cases k <;> decide

/-- Bytes within the bits of one receiver revolution have left the line by its end. -/
theorem lineTime_le {rate : LineRate} {k : LpmClass} {bytes : Nat} (h : bytes * 8 ≤ rate.bits * 60 / k.lpm) :
    lineTime rate bytes ≤ 60000000 / k.lpm := by
  unfold lineTime
  have hk := k.lpm_pos
  rw [Nat.le_div_iff_mul_le hk] at h ⊢
  refine Nat.le_of_mul_le_mul_right (c := rate.bits) ?_ rate.bits_pos
  have hdiv := Nat.div_mul_le_self (bytes * 8 * 1000000) rate.bits
  calc bytes * 8 * 1000000 / rate.bits * k.lpm * rate.bits
      = bytes * 8 * 1000000 / rate.bits * rate.bits * k.lpm := Nat.mul_right_comm _ _ _
    _ ≤ bytes * 8 * 1000000 * k.lpm := Nat.mul_le_mul_right _ hdiv
    _ = bytes * 8 * k.lpm * 1000000 := Nat.mul_right_comm _ _ _
    _ ≤ rate.bits * 60 * 1000000 := Nat.mul_le_mul_right _ h
    _ = 60000000 * rate.bits := by omega

/-- Settles O47: segments, bytes, bits, check and time. -/
theorem forwardFramesAreLaidOut : Obligations.ForwardFramesAreLaidOut := by
  unfold Obligations.ForwardFramesAreLaidOut
  refine ⟨?_, ⟨fun f => ⟨?_, length_bits _, bits_getElem? _, length_frameBytes f⟩, checkCode_eq, ?_, ?_⟩⟩
  · rintro g resent n levels count rfl
    obtain ⟨length, segment, whole⟩ := lineSegments_spec g resent n levels
    exact ⟨length, segment, by rw [← pieces_eq_range]; exact whole⟩
  · unfold frameBytes withCheck
    rw [frameBody_eq]
    simp [fieldBytes]
  · intro ch k fs hk
    exact framesEnd_eq hk fs
  · intro e resent n levels hfit
    have bytes := bytesOnLine_lineSegments e.segment resent n levels
    refine ⟨bytes, lineTime_le ?_⟩
    rw [bytes]
    exact of_decide_eq_true hfit

end Sys2Proof.Machine
end

section
/-! PROOF. The line periods (O48 to O50): the frame before the picture, the line of a picture period, and the end in STOP. -/

namespace Sys2Proof.Machine

/-! ### The start of a period (R104, R123) -/

/-- The state at the start of a line period: at its instant, the period counted. -/
def periodBegun (c : Chan) (tm : LineTimer) (s : State) : State :=
  modChan c (fun ch => { ch with lineTimer := some { tm with begun := tm.begun + 1 } })
    (jumpTo (tm.start + tm.begun * (s.channels.get c).linePeriod) s)

theorem periodBegun_spec (c : Chan) (tm : LineTimer) (s : State) : OnlyChannel c s (periodBegun c tm s) ∧
    Moves [.now, .channels] s (periodBegun c tm s) ∧
    (periodBegun c tm s).now = max s.now (tm.start + tm.begun * (s.channels.get c).linePeriod) ∧
    (periodBegun c tm s).channels.get c = { s.channels.get c with lineTimer := some { tm with begun := tm.begun + 1 } } :=
  ⟨modChan_only rfl, (jumpTo_moves _ s).within.also (modChan_moves _ _ _), rfl, modChan_get _ _ _⟩

theorem exec_linePeriodStart_stopped {c : Chan} {s : State} (h : (s.channels.get c).lineTimer = none) :
    exec (.linePeriodStart c) s = .next s := by
  show execLinePeriodStart c s = _
  unfold execLinePeriodStart
  simp only [h]

theorem exec_linePeriodStart {c : Chan} {s : State} {tm : LineTimer} (h : (s.channels.get c).lineTimer = some tm) :
    exec (.linePeriodStart c) s = if lineBusy (s.channels.get c) = true then .next (periodBegun c tm s)
      else .next (finishStep (periodContent c (periodBegun c tm s))) := by
  show execLinePeriodStart c s = _
  unfold execLinePeriodStart
  simp only [h]
  rfl

theorem lineBusy_iff (ch : Channel) : lineBusy ch = true ↔ ch.onLine ≠ none ∨ ch.owed ≠ [] := by
  unfold lineBusy
  cases ch.onLine <;> cases ch.owed <;> simp

/-- A period that finds the line free has its content by the channel's state. -/
theorem exec_linePeriodStart_free {c : Chan} {s : State} {tm : LineTimer} (h : (s.channels.get c).lineTimer = some tm)
    (h1 : (s.channels.get c).onLine = none) (h2 : (s.channels.get c).owed = []) :
    exec (.linePeriodStart c) s = .next (finishStep (periodContent c (periodBegun c tm s))) :=
  (exec_linePeriodStart h).trans (if_neg fun k => ((lineBusy_iff _).mp k).elim (fun f => f h1) (fun f => f h2))

/-- Frames that a period begins, from a state in which the period has begun and the channel has been changed. -/
theorem sendFrames_spec {c : Chan} {s v : State} (fs : List ForwardFrame) (hm : Moves [.now, .channels] s v) (ho : OnlyChannel c s v) :
    OnlyChannel c s (sendFrames c fs v) ∧ Moves [.now, .channels] s (sendFrames c fs v) ∧ (sendFrames c fs v).now = v.now ∧
      (sendFrames c fs v).channels.get c =
        { v.channels.get c with onLine := fs.head?, owed := fs.tail, runStart := v.now, runBytes := 0 } := by
  refine ⟨fun d hd => ?_, hm.also (sendFrames_moves c fs v), rfl, sendFrames_get c fs v⟩
  rw [show (sendFrames c fs v).channels.get d = v.channels.get d from modChan_get_ne _ _ hd, ho d hd]

theorem callOrder_eq {c : Chan} {s : State} {k : Call} (hk : (s.channels.get c).call = some k) : callOrder s c = findOrder s k.order := by
  unfold callOrder; rw [hk]

/-- A change of the channel after the period has begun. -/
theorem periodBegun_changed (c : Chan) (tm : LineTimer) (f : Channel → Channel) (s : State) :
    OnlyChannel c s (modChan c f (periodBegun c tm s)) ∧ Moves [.now, .channels] s (modChan c f (periodBegun c tm s)) ∧
    (modChan c f (periodBegun c tm s)).now = max s.now (tm.start + tm.begun * (s.channels.get c).linePeriod) ∧
    (modChan c f (periodBegun c tm s)).channels.get c = f { s.channels.get c with lineTimer := some { tm with begun := tm.begun + 1 } } := by
  obtain ⟨only, moves, now, get⟩ := periodBegun_spec c tm s
  exact ⟨fun d hd => (modChan_get_ne _ _ hd).trans (only d hd), moves.also (modChan_moves _ _ _), now, by rw [modChan_get, get]⟩

/-! ### Before the picture (O48) -/

theorem periodContent_announce {c : Chan} {v : State} {k : Call} {o : Order} (h : (v.channels.get c).state = .announce)
    (hk : (v.channels.get c).call = some k) (ho : findOrder v k.order = some o) :
    periodContent c v = sendFrames c [.ident k.bureau k.order o.tag] v := by
  unfold periodContent announcePeriod
  simp only [h, callOrder_eq hk, ho, hk]

theorem phasingPeriod_sends {c : Chan} {v : State} (h : (v.channels.get c).phaseCount < 32) : phasingPeriod c v =
    sendFrames c [.phase ((v.channels.get c).phaseCount + 1)]
      (modChan c (fun ch => { ch with phaseCount := (v.channels.get c).phaseCount + 1 }) v) := if_neg (by omega)

theorem phasingPeriod_fails {c : Chan} {v : State} (h : 32 ≤ (v.channels.get c).phaseCount) :
    phasingPeriod c v = endWithOutcome c .phasingFailed none v := if_pos h

theorem periodContent_caption {c : Chan} {v : State} {k : Call} {o : Order} (h : (v.channels.get c).state = .caption)
    (hk : (v.channels.get c).call = some k) (ho : findOrder v k.order = some o) :
    periodContent c v = if (v.channels.get c).captionSent < captionFrames o.caption then
        sendFrames c [captionFrame o.caption (v.channels.get c).captionSent]
          (modChan c (fun ch => { ch with captionSent := (v.channels.get c).captionSent + 1 }) v)
      else phasingPeriod c (modChan c (fun ch => { ch with state := .phasing }) v) := by
  unfold periodContent captionPeriod
  simp only [h, callOrder_eq hk, ho]

/-- A PHASING period, from the state in which the period has begun (R108). -/
theorem phasing_spec {c : Chan} {s v : State} {tm : LineTimer} (hm : Moves [.now, .channels] s v) (ho : OnlyChannel c s v)
    (hget : v.channels.get c = { s.channels.get c with lineTimer := some { tm with begun := tm.begun + 1 }, state := .phasing })
    (howes : owesClosing (s.channels.get c).state = true) :
    OnlyChannel c s (phasingPeriod c v) ∧ (phasingPeriod c v).now = v.now ∧
      ((s.channels.get c).phaseCount < 32 → Moves [.now, .channels] s (phasingPeriod c v) ∧
        (phasingPeriod c v).channels.get c =
          { periodOf (s.channels.get c) tm v.now [.phase ((s.channels.get c).phaseCount + 1)] with
            state := .phasing, phaseCount := (s.channels.get c).phaseCount + 1 }) ∧
      (32 ≤ (s.channels.get c).phaseCount → CallEnded c (.outcome .phasingFailed) s (phasingPeriod c v) ∧
        DestinationPlaced c .phasingFailed s (phasingPeriod c v) ∧ Moves (.now :: callEndParts) s (phasingPeriod c v)) := by
  have count : (v.channels.get c).phaseCount = (s.channels.get c).phaseCount := by rw [hget]
  rcases Nat.lt_or_ge (s.channels.get c).phaseCount 32 with hlt | hge
  · rw [phasingPeriod_sends (by omega), count]
    obtain ⟨only, moves, now, get⟩ := sendFrames_spec [.phase ((s.channels.get c).phaseCount + 1)]
      (hm.also (modChan_moves c (fun ch => { ch with phaseCount := (s.channels.get c).phaseCount + 1 }) v))
      (fun d hd => (modChan_get_ne _ _ hd).trans (ho d hd))
    refine ⟨only, now, fun _ => ⟨moves, ?_⟩, fun h => absurd hlt (by omega)⟩
    rw [get, modChan_get, hget]
    rfl
  · rw [phasingPeriod_fails (by omega)]
    obtain ⟨ended, placed, only, moves, now⟩ := endWithOutcome_from c .phasingFailed none hm ho
      (by rw [hget]; exact ⟨howes.symm, rfl, rfl, rfl, rfl, rfl, rfl, rfl⟩)
    exact ⟨only, now, fun h => absurd h (by omega), fun _ => ⟨ended, placed, moves⟩⟩

/-- Settles O48: a passed period, and the content of ANNOUNCE, CAPTION and PHASING. -/
theorem earlyPeriodsSendTheirFrame : Obligations.EarlyPeriodsSendTheirFrame := by
  unfold Obligations.EarlyPeriodsSendTheirFrame
  rintro c s ch rfl
  refine ⟨exec_linePeriodStart_stopped, fun tm now htm hnow => ⟨fun hbusy => ?_, fun k o h1 h2 hk ho hst => ?_⟩⟩
  · obtain ⟨only, moves, hnow', get⟩ := periodBegun_spec c tm s
    exact ⟨_, (exec_linePeriodStart htm).trans (if_pos ((lineBusy_iff _).mpr hbusy)), only, moves, hnow'.trans hnow.symm, get⟩
  · obtain ⟨only, moves, hnow', get⟩ := periodBegun_spec c tm s
    have call : ((periodBegun c tm s).channels.get c).call = some k := by rw [get]; exact hk
    have order : findOrder (periodBegun c tm s) k.order = some o := (findOrder_congr (moves .book (by decide)) _).trans ho
    have state : ((periodBegun c tm s).channels.get c).state = (s.channels.get c).state := by rw [get]
    refine ⟨_, exec_linePeriodStart_free htm h1 h2, ?_⟩
    rcases hst with hst | hst | hst
    · rw [periodContent_announce (state.trans hst) call order, hst]
      obtain ⟨only', moves', now', get'⟩ := sendFrames_spec [.ident k.bureau k.order o.tag] moves only
      refine ⟨only', now'.trans (hnow'.trans hnow.symm), fun _ => ⟨moves', ?_⟩, by simp, by simp⟩
      rw [get', get, hnow', ← hnow]
      rfl
    · have sent : ((periodBegun c tm s).channels.get c).captionSent = (s.channels.get c).captionSent := by rw [get]
      rw [periodContent_caption (state.trans hst) call order, sent, hst]
      rcases Nat.lt_or_ge (s.channels.get c).captionSent (captionFrames o.caption) with hlt | hge
      · rw [if_pos hlt]
        obtain ⟨only1, moves1, now1, get1⟩ := periodBegun_changed c tm (fun ch => { ch with captionSent := (s.channels.get c).captionSent + 1 }) s
        obtain ⟨only', moves', now', get'⟩ := sendFrames_spec [captionFrame o.caption (s.channels.get c).captionSent] moves1 only1
        refine ⟨only', now'.trans (now1.trans hnow.symm), by simp, fun _ _ => ⟨moves', ?_⟩, ?_⟩
        · rw [get', get1, now1, ← hnow]
          rfl
        · rintro (h | h)
          · exact absurd hlt (Nat.not_lt.mpr h.2)
          · cases h
      · rw [if_neg (by omega)]
        obtain ⟨only1, moves1, now1, get1⟩ := periodBegun_changed c tm (fun ch => { ch with state := .phasing }) s
        obtain ⟨only', now', below, above⟩ := phasing_spec moves1 only1 get1 (by rw [hst]; rfl)
        rw [now1, ← hnow] at now' below
        exact ⟨only', now', by simp, fun _ h => absurd h (Nat.not_lt.mpr hge), fun _ => ⟨below, above⟩⟩
    · have e : periodContent c (periodBegun c tm s) = phasingPeriod c (periodBegun c tm s) := by
        unfold periodContent; rw [state, hst]
      rw [e]
      obtain ⟨only', now', below, above⟩ := phasing_spec (tm := tm) moves only (get.trans (by rw [← hst])) (by rw [hst]; rfl)
      rw [hnow', ← hnow] at now' below
      rw [hst]
      exact ⟨only', now', by simp, by simp, fun _ => ⟨below, above⟩⟩

end Sys2Proof.Machine
end

section
/-! PROOF. The periods of the picture (O49, O50) and the frames that leave the line (O51). -/

namespace Sys2Proof.Machine

/-! ### The retake queue served (R125, R127) -/

/-- The entries answered with SKIP frames come before what the rest of the queue gives. -/
theorem serveQueue_append (ask : Nat → Option (List Nat)) (left : List RetakeEntry) : ∀ (skipped : List RetakeEntry),
    (∀ l, RetakeEntry.resend l ∈ skipped → ask l = none) →
    serveQueue ask (skipped ++ left) =
      { serveQueue ask left with skips := skipped.map RetakeEntry.line ++ (serveQueue ask left).skips }
  | [], _ => rfl
  | .skip l :: skipped, h => by
    rw [List.cons_append, serveQueue, serveQueue_append ask left skipped fun m hm => h m (List.mem_cons_of_mem _ hm)]
    rfl
  | .resend l :: skipped, h => by
    rw [List.cons_append, serveQueue, h l List.mem_cons_self,
      serveQueue_append ask left skipped fun m hm => h m (List.mem_cons_of_mem _ hm)]
    rfl

theorem QueueServed.resend {ask : Nat → Option (List Nat)} {queue skipped rest : List RetakeEntry} {l : Nat} {levels : List Nat}
    (h : QueueServed ask queue skipped (.resend l :: rest)) (ha : ask l = some levels) :
    serveQueue ask queue = { skips := skipped.map RetakeEntry.line, resend := some (l, levels), left := rest } := by
  obtain ⟨rfl, hs, _⟩ := h
  rw [serveQueue_append ask _ _ hs]
  simp [serveQueue, ha]

theorem QueueServed.empty {ask : Nat → Option (List Nat)} {queue skipped : List RetakeEntry} (h : QueueServed ask queue skipped []) :
    serveQueue ask queue = { skips := skipped.map RetakeEntry.line, resend := none, left := [] } := by
  obtain ⟨rfl, hs, _⟩ := h
  rw [serveQueue_append ask _ _ hs]
  simp [serveQueue]

theorem skipFrames_eq (skipped : List RetakeEntry) : (skipped.map RetakeEntry.line).map ForwardFrame.skip = skipFrames skipped := by
  simp [skipFrames]

/-! ### The release by depth (R89) and the releases of a channel's marks -/

theorem retakeDepth_eq {ls : LineStore} {D : Nat} (h : ls.depth = some D) : retakeDepth ls = D := by
  unfold retakeDepth; rw [h]; rfl

theorem askLine_releaseMark {s : State} (hc : StoreCanonical s) (c : Chan) (n : Nat) (d : Chan) (m : Nat) :
    askLine d m (releaseMark c n s.lineStore) = if d = c ∧ m = n then none else askLine d m s.lineStore := by
  obtain ⟨_, _, _, ask, _⟩ := lineStoreFilesAndReleases.2 c n s.lineStore hc
  exact ask d m

theorem askLine_releaseAll {s : State} (hc : StoreCanonical s) (c d : Chan) (m : Nat) :
    askLine d m (releaseAll c s.lineStore) = if d = c then none else askLine d m s.lineStore := by
  obtain ⟨_, _, _, _, ask, _⟩ := lineStoreFilesAndReleases.2 c 0 s.lineStore hc
  exact ask d m

theorem depthRelease_moves (c : Chan) (k : Nat) (s : State) : Moves [.lineStore] s (depthRelease c k s) := by
  unfold depthRelease
  dsimp only
  split <;> (intro p hp; cases p <;> first | rfl | exact absurd (by decide) hp)

/-- The mark D lines back goes with a new line, where no retake is owed (R89). -/
theorem depthRelease_lineStore {c : Chan} {k D : Nat} {s : State} (hd : s.lineStore.depth = some D) (hc : StoreCanonical s)
    (hq : (s.channels.get c).queue = []) : (depthRelease c k s).lineStore.depth = some D ∧
      ∀ d m, askLine d m (depthRelease c k s).lineStore = if d = c ∧ m + D = k then none else askLine d m s.lineStore := by
  unfold depthRelease
  dsimp only
  rw [retakeDepth_eq hd, hq]
  by_cases h : D ≤ k
  · rw [if_pos ⟨h, rfl⟩]
    refine ⟨hd, fun d m => (askLine_releaseMark hc c (k - D) d m).trans ?_⟩
    simp only [show m = k - D ↔ m + D = k by omega]
  · rw [if_neg fun e => h e.1]
    refine ⟨hd, fun d m => ?_⟩
    rw [if_neg]
    rintro ⟨_, e⟩
    omega

/-! ### A new line (R126, R110) -/

/-- The channel that starts new line `k` of an order behind some SKIP frames. -/
def lineStarted (o : Order) (frames : List ForwardFrame) (now : Nat) (ch : Channel) : Channel :=
  { ch with
    onLine := frames.head?, owed := frames.tail, runStart := now, runBytes := 0, sendPosition := ch.sendPosition + 1,
    sent := min 65535 (ch.sent + 1), trouble := ch.trouble - 1, caution := if ch.trouble - 1 < 32 then .armed else ch.caution,
    state := if o.lines = ch.sendPosition + 1 then .stopping else .picture,
    stopping := if o.lines = ch.sendPosition + 1 then 0 else ch.stopping }

theorem startLine_spec {c : Chan} {lead : List ForwardFrame} {levels : List Nat} {s v : State} {k : Call} {o : Order} {D : Nat}
    (hm : Moves [.now, .channels] s v) (hon : OnlyChannel c s v) (hk : (v.channels.get c).call = some k)
    (ho : findOrder s k.order = some o) (hq : (v.channels.get c).queue = []) (hd : s.lineStore.depth = some D) (hc : StoreCanonical s) :
    let u := startLine c lead levels v
    OnlyChannel c s u ∧ Moves [.now, .channels, .lineStore] s u ∧ u.now = v.now ∧
      u.channels.get c = lineStarted o (lead ++ lineSegments k.entry.segment.size false (v.channels.get c).sendPosition levels) v.now
        (v.channels.get c) ∧
      u.lineStore.depth = some D ∧
      ∀ d m, askLine d m u.lineStore = if d = c ∧ m + D = (v.channels.get c).sendPosition then none else askLine d m s.lineStore := by
  intro u
  have order : callOrder v c = some o := (callOrder_eq hk).trans ((findOrder_congr (hm .book (by decide)) _).trans ho)
  have segment : callSegment (v.channels.get c) = k.entry.segment.size := by unfold callSegment; rw [hk]
  have last : ((callOrder v c).any fun o => o.lines == (v.channels.get c).sendPosition + 1) = decide (o.lines = (v.channels.get c).sendPosition + 1) := by
    rw [order]; rfl
  generalize hw : modChan c (fun ch =>
    { lowerTrouble ch with
      state := if (callOrder v c).any (fun o => o.lines == (v.channels.get c).sendPosition + 1) then .stopping else .picture,
      stopping := if (callOrder v c).any (fun o => o.lines == (v.channels.get c).sendPosition + 1) then 0 else ch.stopping,
      sendPosition := (v.channels.get c).sendPosition + 1, sent := satSucc ch.sent })
    (sendFrames c (lead ++ lineSegments (callSegment (v.channels.get c)) false (v.channels.get c).sendPosition levels) v) = w
  have hu : u = depthRelease c (v.channels.get c).sendPosition w := by rw [← hw]; rfl
  have moves : Moves [.now, .channels] s w := by
    rw [← hw]; exact (hm.also (sendFrames_moves c _ v)).also (modChan_moves _ _ _)
  have get : w.channels.get c = lineStarted o
      (lead ++ lineSegments k.entry.segment.size false (v.channels.get c).sendPosition levels) v.now (v.channels.get c) := by
    rw [← hw, modChan_get, sendFrames_get, last, segment]
    simp only [decide_eq_true_eq]
    rfl
  have released := depthRelease_moves c (v.channels.get c).sendPosition w
  have channels : u.channels = w.channels := by rw [hu]; exact released .channels (by decide)
  have store : w.lineStore = s.lineStore := moves .lineStore (by decide)
  obtain ⟨depth, ask⟩ := depthRelease_lineStore (c := c) (k := (v.channels.get c).sendPosition) (s := w) (D := D)
    (by rw [store]; exact hd) (by unfold StoreCanonical; rw [store]; exact hc) (by rw [get]; exact hq)
  rw [← hu, store] at ask
  rw [← hu] at depth
  refine ⟨fun d hdc => ?_, by rw [hu]; exact moves.within.also released, ?_, by rw [channels]; exact get, depth, ask⟩
  · rw [channels, ← hw, modChan_get_ne _ _ hdc, show (sendFrames c _ v).channels.get d = v.channels.get d from modChan_get_ne _ _ hdc, hon d hdc]
  · rw [hu, show (depthRelease c _ w).now = w.now from released .now (by decide), ← hw]; rfl

/-! ### PHASED and PICTURE (R109, R125) -/

theorem picturePeriod_held {c : Chan} {v : State} (h : (v.channels.get c).hold ≠ none) :
    picturePeriod c v = sendFrames c [fillFrame (v.channels.get c)] v := if_pos (Option.isSome_iff_ne_none.mpr h)

theorem phasedPeriod_held {c : Chan} {v : State} (h : (v.channels.get c).hold ≠ none) :
    phasedPeriod c v = sendFrames c [fillFrame (v.channels.get c)] v := if_pos (Option.isSome_iff_ne_none.mpr h)

theorem phasedPeriod_absent {c : Chan} {v : State} (h : askLine c 0 v.lineStore = none) :
    phasedPeriod c v = sendFrames c [fillFrame (v.channels.get c)] v := by
  unfold phasedPeriod
  dsimp only
  rw [h]
  split <;> rfl

theorem phasedPeriod_line {c : Chan} {v : State} {levels : List Nat} (h : (v.channels.get c).hold = none)
    (ha : askLine c 0 v.lineStore = some levels) : phasedPeriod c v = startLine c [] levels v := by
  unfold phasedPeriod
  dsimp only
  rw [if_neg (by rw [h]; decide), ha]

/-- The queue as served in this period. -/
abbrev servedIn (c : Chan) (v : State) : Served := serveQueue (fun l => askLine c l v.lineStore) (v.channels.get c).queue

theorem picturePeriod_resend {c : Chan} {v : State} {l : Nat} {levels : List Nat} (h : (v.channels.get c).hold = none)
    (hr : (servedIn c v).resend = some (l, levels)) : picturePeriod c v =
      sendFrames c ((servedIn c v).skips.map ForwardFrame.skip ++ lineSegments (callSegment (v.channels.get c)) true l levels)
        (modChan c (afterService (servedIn c v)) v) := by
  unfold picturePeriod
  dsimp only
  rw [if_neg (by rw [h]; decide), if_pos (by rw [hr]; rfl)]
  unfold resendFrames
  rw [hr]

theorem picturePeriod_absent {c : Chan} {v : State} (h : (v.channels.get c).hold = none)
    (hr : (servedIn c v).resend = none) (ha : askLine c (v.channels.get c).sendPosition v.lineStore = none) : picturePeriod c v =
      sendFrames c ((servedIn c v).skips.map ForwardFrame.skip ++ [fillFrame (v.channels.get c)])
        (modChan c (afterService (servedIn c v)) v) := by
  unfold picturePeriod
  dsimp only
  rw [if_neg (by rw [h]; decide), if_neg (by rw [hr]; decide), ha]

theorem picturePeriod_line {c : Chan} {v : State} {levels : List Nat} (h : (v.channels.get c).hold = none)
    (hr : (servedIn c v).resend = none) (ha : askLine c (v.channels.get c).sendPosition v.lineStore = some levels) : picturePeriod c v =
      startLine c ((servedIn c v).skips.map ForwardFrame.skip) levels (modChan c (afterService (servedIn c v)) v) := by
  unfold picturePeriod
  dsimp only
  rw [if_neg (by rw [h]; decide), if_neg (by rw [hr]; decide), ha]

theorem modChan_unchanged {c : Chan} {f : Channel → Channel} {s : State} (h : f (s.channels.get c) = s.channels.get c) : modChan c f s = s := by
  unfold modChan
  rw [h]
  cases c <;> rfl

/-- A PHASED channel without retakes, at line 0, has the period of PICTURE (R109, R125). -/
theorem phasedPeriod_eq {c : Chan} {v : State} (hq : (v.channels.get c).queue = []) (hp : (v.channels.get c).sendPosition = 0)
    (hs : (v.channels.get c).skipped ≤ 65535) : phasedPeriod c v = picturePeriod c v := by
  have served : servedIn c v = { skips := [], resend := none, left := [] } := by unfold servedIn; rw [hq]; rfl
  have kept : modChan c (afterService (servedIn c v)) v = v := by
    refine modChan_unchanged ?_
    rw [served]
    unfold afterService satAdd
    rw [← hq]
    simp only [List.length_nil, Nat.add_zero, Nat.min_eq_right hs]
    rfl
  cases hh : (v.channels.get c).hold with
  | some t => rw [phasedPeriod_held (by rw [hh]; simp), picturePeriod_held (by rw [hh]; simp)]
  | none =>
    have resend : (servedIn c v).resend = none := by rw [served]
    cases ha : askLine c 0 v.lineStore with
    | none =>
      rw [phasedPeriod_absent ha, picturePeriod_absent hh resend (by rw [hp]; exact ha), kept, served]
      rfl
    | some levels =>
      rw [phasedPeriod_line hh ha, picturePeriod_line hh resend (by rw [hp]; exact ha), kept, served]
      rfl

/-- Frames sent after a change of the channel, in the period that has begun. -/
theorem begun_sends (c : Chan) (tm : LineTimer) (f : Channel → Channel) (fs : List ForwardFrame) (s : State) :
    let u := sendFrames c fs (modChan c f (periodBegun c tm s))
    OnlyChannel c s u ∧ Moves [.now, .channels] s u ∧ u.now = max s.now (tm.start + tm.begun * (s.channels.get c).linePeriod) ∧
      u.channels.get c = { f { s.channels.get c with lineTimer := some { tm with begun := tm.begun + 1 } } with
        onLine := fs.head?, owed := fs.tail, runBytes := 0,
        runStart := max s.now (tm.start + tm.begun * (s.channels.get c).linePeriod) } := by
  obtain ⟨only, moves, now, get⟩ := periodBegun_changed c tm f s
  obtain ⟨only', moves', now', get'⟩ := sendFrames_spec fs moves only
  exact ⟨only', moves', now'.trans now, by rw [get', get, now]⟩

/-- Settles O49: the content of a picture period, and a PHASED channel before any retake depth was read. -/
theorem picturePeriodsCarryOneLine : Obligations.PicturePeriodsCarryOneLine := by
  unfold Obligations.PicturePeriodsCarryOneLine
  refine ⟨?_, ?_⟩
  · rintro c s ch tm now D k o skipped left rfl htm hnow h1 h2 hk ho hd hc hst hq
    obtain ⟨only, moves, hnow', get⟩ := periodBegun_spec c tm s
    have now' : (periodBegun c tm s).now = now := hnow'.trans hnow.symm
    have store : (periodBegun c tm s).lineStore = s.lineStore := moves .lineStore (by decide)
    have hold : ((periodBegun c tm s).channels.get c).hold = (s.channels.get c).hold := by rw [get]
    have content : periodContent c (periodBegun c tm s) = picturePeriod c (periodBegun c tm s) := by
      rcases hst with hs | ⟨hs, hqe, hp, hsk⟩
      · unfold periodContent; rw [get]; simp only [hs]
      · rw [← phasedPeriod_eq (by rw [get]; exact hqe) (by rw [get]; exact hp) (by rw [get]; exact hsk)]
        unfold periodContent; rw [get]; simp only [hs]
    refine ⟨_, exec_linePeriodStart_free htm h1 h2, ?_⟩
    rw [content]
    by_cases hh : (s.channels.get c).hold = none
    · have served : servedIn c (periodBegun c tm s) = serveQueue (fun l => askLine c l s.lineStore) (s.channels.get c).queue := by
        unfold servedIn; rw [store, get]
      have segment : callSegment ((periodBegun c tm s).channels.get c) = k.entry.segment.size := by unfold callSegment; rw [get, hk]
      have position : ((periodBegun c tm s).channels.get c).sendPosition = (s.channels.get c).sendPosition := by rw [get]
      rcases hq.2.2 with rfl | ⟨l, levels, rest, rfl, hask⟩
      · have sv := hq.empty
        cases ha : askLine c (s.channels.get c).sendPosition s.lineStore with
        | none =>
          rw [picturePeriod_absent (hold.trans hh) (by rw [served, sv]) (by rw [position, store]; exact ha), served, sv]
          obtain ⟨only', moves', now2, get'⟩ := begun_sends c tm
            (afterService { skips := skipped.map RetakeEntry.line, resend := none, left := [] })
            ((skipped.map RetakeEntry.line).map ForwardFrame.skip ++ [fillFrame ((periodBegun c tm s).channels.get c)]) s
          refine ⟨only', now2.trans hnow.symm, moves'.within, fun h => absurd hh h, fun _ => ⟨by simp,
            fun _ _ => ⟨moves' .lineStore (by decide), ?_⟩, by simp⟩⟩
          rw [get', ← hnow, skipFrames_eq, get]
          unfold afterService satAdd
          rw [List.length_map]
          rfl
        | some levels =>
          rw [picturePeriod_line (hold.trans hh) (by rw [served, sv]) (by rw [position, store]; exact ha), served, sv]
          obtain ⟨only1, moves1, now1, get1⟩ := periodBegun_changed c tm
            (afterService { skips := skipped.map RetakeEntry.line, resend := none, left := [] }) s
          obtain ⟨only', moves', now2, get', depth, ask⟩ := startLine_spec (lead := (skipped.map RetakeEntry.line).map ForwardFrame.skip)
            (levels := levels) moves1 only1 (by rw [get1]; exact hk) ho (by rw [get1]; rfl) hd hc
          rw [get1] at get' ask
          refine ⟨only', now2.trans (now1.trans hnow.symm), moves', fun h => absurd hh h, fun _ => ⟨by simp, by simp, fun x _ hx => ?_⟩⟩
          cases hx
          refine ⟨?_, depth, ask⟩
          rw [get', now1, ← hnow, skipFrames_eq]
          unfold afterService satAdd
          rw [List.length_map]
          rfl
      · have sv := hq.resend hask
        rw [picturePeriod_resend (l := l) (levels := levels) (hold.trans hh) (by rw [served, sv]), served, sv, segment]
        obtain ⟨only', moves', now2, get'⟩ := begun_sends c tm
          (afterService { skips := skipped.map RetakeEntry.line, resend := some (l, levels), left := rest })
          ((skipped.map RetakeEntry.line).map ForwardFrame.skip ++ lineSegments k.entry.segment.size true l levels) s
        refine ⟨only', now2.trans hnow.symm, moves'.within, fun h => absurd hh h, fun _ => ⟨fun l' levels' rest' e ha' => ?_, by simp, by simp⟩⟩
        cases e
        cases hask.symm.trans ha'
        refine ⟨moves' .lineStore (by decide), ?_⟩
        rw [get', ← hnow, skipFrames_eq]
        unfold afterService satAdd
        rw [List.length_map]
        rfl
    · rw [picturePeriod_held (by rw [hold]; exact hh)]
      obtain ⟨only', moves', now2, get'⟩ := sendFrames_spec [fillFrame ((periodBegun c tm s).channels.get c)] moves only
      refine ⟨only', now2.trans now', moves'.within, fun _ => ⟨moves' .lineStore (by decide), ?_⟩, fun h => absurd h hh⟩
      rw [get', get, now']
      rfl
  · rintro c s ch tm now rfl htm hnow h1 h2 hst _ hheld
    obtain ⟨only, moves, hnow', get⟩ := periodBegun_spec c tm s
    have now' : (periodBegun c tm s).now = now := hnow'.trans hnow.symm
    have absent : askLine c 0 (periodBegun c tm s).lineStore = none := by
      rw [show (periodBegun c tm s).lineStore = s.lineStore from moves .lineStore (by decide)]
      unfold askLine findLine
      rw [hheld]
      rfl
    have content : periodContent c (periodBegun c tm s) = sendFrames c [fillFrame ((periodBegun c tm s).channels.get c)] (periodBegun c tm s) := by
      rw [← phasedPeriod_absent absent]
      unfold periodContent; rw [get]; simp only [hst]
    obtain ⟨only', moves', now2, get'⟩ := sendFrames_spec [fillFrame ((periodBegun c tm s).channels.get c)] moves only
    refine ⟨_, exec_linePeriodStart_free htm h1 h2, ?_⟩
    rw [content]
    refine ⟨only', now2.trans now', moves', ?_⟩
    rw [get', get, now']
    rfl

end Sys2Proof.Machine
end

section
/-! PROOF. The periods of STOPPING (O50) and the frames that leave the line (O51). -/

namespace Sys2Proof.Machine

/-! ### STOPPING (R128, R91) -/

theorem stoppingPeriod_fill {c : Chan} {v : State} (hq : (v.channels.get c).queue = [])
    (h : (v.channels.get c).stopping < retakeDepth v.lineStore) : stoppingPeriod c v =
      sendFrames c [fillFrame (v.channels.get c)] (modChan c (fun ch => { ch with stopping := ch.stopping + 1 }) v) := by
  unfold stoppingPeriod
  dsimp only
  rw [if_pos hq, if_pos h]

theorem stoppingPeriod_stop {c : Chan} {v : State} {k : Call} {o : Order} (hq : (v.channels.get c).queue = [])
    (h : retakeDepth v.lineStore ≤ (v.channels.get c).stopping) (hk : (v.channels.get c).call = some k)
    (ho : findOrder v k.order = some o) : stoppingPeriod c v =
      sendFrames c [.stop k.order o.lines] { v with lineStore := releaseAll c v.lineStore } := by
  unfold stoppingPeriod beginStop
  dsimp only
  rw [if_pos hq, if_neg (by omega)]
  simp only [hk, callOrder_eq hk, ho]

/-- The service of a retake queue in STOPPING, which starts the count again. -/
def servedStopping (sv : Served) (ch : Channel) : Channel := { afterService sv ch with stopping := 0 }

theorem stoppingPeriod_resend {c : Chan} {v : State} {l : Nat} {levels : List Nat} (hq : (v.channels.get c).queue ≠ [])
    (hr : (servedIn c v).resend = some (l, levels)) : stoppingPeriod c v =
      sendFrames c ((servedIn c v).skips.map ForwardFrame.skip ++ lineSegments (callSegment (v.channels.get c)) true l levels)
        (modChan c (servedStopping (servedIn c v)) v) := by
  unfold stoppingPeriod
  dsimp only
  rw [if_neg hq, if_pos (by rw [hr]; rfl)]
  unfold resendFrames
  rw [hr]
  rfl

theorem stoppingPeriod_skips {c : Chan} {v : State} (hq : (v.channels.get c).queue ≠ []) (hr : (servedIn c v).resend = none) :
    stoppingPeriod c v = sendFrames c ((servedIn c v).skips.map ForwardFrame.skip ++ [fillFrame (v.channels.get c)])
      (modChan c (servedStopping (servedIn c v)) v) := by
  unfold stoppingPeriod
  dsimp only
  rw [if_neg hq, if_neg (by rw [hr]; decide)]
  rfl

/-- Settles O50: FILL up to the depth, then STOP, and the service of an owed queue. -/
theorem stoppingPeriodsEndInStop : Obligations.StoppingPeriodsEndInStop := by
  unfold Obligations.StoppingPeriodsEndInStop
  rintro c s ch tm now D k o skipped left rfl htm hnow h1 h2 hk ho hd hc hst hq
  obtain ⟨only, moves, hnow', get⟩ := periodBegun_spec c tm s
  have now' : (periodBegun c tm s).now = now := hnow'.trans hnow.symm
  have store : (periodBegun c tm s).lineStore = s.lineStore := moves .lineStore (by decide)
  have depth : retakeDepth (periodBegun c tm s).lineStore = D := by rw [store]; exact retakeDepth_eq hd
  have queue : ((periodBegun c tm s).channels.get c).queue = (s.channels.get c).queue := by rw [get]
  have count : ((periodBegun c tm s).channels.get c).stopping = (s.channels.get c).stopping := by rw [get]
  have content : periodContent c (periodBegun c tm s) = stoppingPeriod c (periodBegun c tm s) := by
    unfold periodContent; rw [get]; simp only [hst]
  refine ⟨_, exec_linePeriodStart_free htm h1 h2, ?_⟩
  rw [content]
  by_cases hqe : (s.channels.get c).queue = []
  · rcases Nat.lt_or_ge (s.channels.get c).stopping D with hlt | hge
    · rw [stoppingPeriod_fill (queue.trans hqe) (by rw [depth, count]; exact hlt)]
      obtain ⟨only', moves', now2, get'⟩ := begun_sends c tm (fun ch => { ch with stopping := ch.stopping + 1 })
        [fillFrame ((periodBegun c tm s).channels.get c)] s
      refine ⟨only', now2.trans hnow.symm, moves'.within, fun _ _ => ⟨moves' .lineStore (by decide), ?_⟩, fun _ h => absurd hlt (by omega),
        fun h => absurd hqe h⟩
      rw [get', ← hnow, get]
      rfl
    · rw [stoppingPeriod_stop (k := k) (o := o) (queue.trans hqe) (by rw [depth, count]; exact hge) (by rw [get]; exact hk)
        ((findOrder_congr (moves .book (by decide)) _).trans ho), store]
      have released : Moves [.lineStore] (periodBegun c tm s) { periodBegun c tm s with lineStore := releaseAll c s.lineStore } := by
        intro p hp; cases p <;> first | rfl | exact absurd (by decide) hp
      refine ⟨fun d hdc => (modChan_get_ne _ _ hdc).trans (only d hdc), now', (moves.within.also released).also (sendFrames_moves _ _ _),
        fun _ h => absurd h (by omega), fun _ _ => ⟨?_, hd, askLine_releaseAll hc c⟩, fun h => absurd hqe h⟩
      rw [sendFrames_get]
      have stop := congr (congrArg (fun (x : Channel) (n : Nat) => { x with
        onLine := [ForwardFrame.stop k.order o.lines].head?, owed := [ForwardFrame.stop k.order o.lines].tail, runStart := n, runBytes := 0 }) get) now'
      exact stop
  · have served : servedIn c (periodBegun c tm s) = serveQueue (fun l => askLine c l s.lineStore) (s.channels.get c).queue := by
      unfold servedIn; rw [store, get]
    have segment : callSegment ((periodBegun c tm s).channels.get c) = k.entry.segment.size := by unfold callSegment; rw [get, hk]
    rcases hq.2.2 with rfl | ⟨l, levels, rest, rfl, hask⟩
    · have sv := hq.empty
      rw [stoppingPeriod_skips (by rw [queue]; exact hqe) (by rw [served, sv]), served, sv]
      obtain ⟨only', moves', now2, get'⟩ := begun_sends c tm
        (servedStopping { skips := skipped.map RetakeEntry.line, resend := none, left := [] })
        ((skipped.map RetakeEntry.line).map ForwardFrame.skip ++ [fillFrame ((periodBegun c tm s).channels.get c)]) s
      refine ⟨only', now2.trans hnow.symm, moves'.within, fun h => absurd h hqe, fun h => absurd h hqe,
        fun _ => ⟨moves' .lineStore (by decide), by simp, fun _ => ?_⟩⟩
      rw [get', ← hnow, skipFrames_eq, get]
      unfold servedStopping afterService satAdd
      rw [List.length_map]
      rfl
    · have sv := hq.resend hask
      rw [stoppingPeriod_resend (l := l) (levels := levels) (by rw [queue]; exact hqe) (by rw [served, sv]), served, sv, segment]
      obtain ⟨only', moves', now2, get'⟩ := begun_sends c tm
        (servedStopping { skips := skipped.map RetakeEntry.line, resend := some (l, levels), left := rest })
        ((skipped.map RetakeEntry.line).map ForwardFrame.skip ++ lineSegments k.entry.segment.size true l levels) s
      refine ⟨only', now2.trans hnow.symm, moves'.within, fun h => absurd h hqe, fun h => absurd h hqe,
        fun _ => ⟨moves' .lineStore (by decide), fun l' levels' rest' e ha' => ?_, by simp⟩⟩
      cases e
      cases hask.symm.trans ha'
      rw [get', ← hnow, skipFrames_eq]
      unfold servedStopping afterService satAdd
      rw [List.length_map]
      rfl

/-! ### Frames that leave the line (R120, R90, R110) -/

/-- The bit on the data output, by its place in the frame. -/
theorem forwardOutput_bit {c : Chan} {s : State} {f : ForwardFrame} {k : Call} {i : Nat} {b : Bool}
    (hf : (s.channels.get c).onLine = some f) (hk : (s.channels.get c).call = some k) (hb : (frameBits f)[i]? = some b)
    (hi : (s.now - (s.channels.get c).runStart) * k.entry.rate.bits / 1000000 = 8 * (s.channels.get c).runBytes + i) :
    forwardOutput s c = some b := by
  unfold forwardOutput callRate
  simp only [hf, hk, hi, Nat.add_sub_cancel_left]
  exact hb

theorem framesGone_moves (c : Chan) (gone left : List ForwardFrame) (s : State) : Moves [.now, .channels] s (framesGone c gone left s) :=
  (jumpTo_moves _ s).within.also (modChan_moves _ _ _)

/-- One frame has left the line at its end, and the next owed one begins. -/
theorem frameLeft {c : Chan} {s : State} {f : ForwardFrame} {k : Call} (hk : (s.channels.get c).call = some k) :
    let t := framesGone c [f] (s.channels.get c).owed s
    OnlyChannel c s t ∧ Moves [.now, .channels] s t ∧
      t.now = max s.now ((s.channels.get c).runStart +
        ((s.channels.get c).runBytes + (frameBytes f).length) * 8 * 1000000 / k.entry.rate.bits) ∧
      t.channels.get c = { s.channels.get c with onLine := (s.channels.get c).owed.head?, owed := (s.channels.get c).owed.tail,
                                                 runBytes := (s.channels.get c).runBytes + (frameBytes f).length } := by
  intro t
  refine ⟨modChan_only rfl, framesGone_moves _ _ _ _, ?_, ?_⟩
  · show max s.now (framesEnd (s.channels.get c) [f]) = _
    rw [framesEnd_eq hk]
    rfl
  · exact (framesGone_get c [f] (s.channels.get c).owed s).trans (by rw [bytesOnLine_cons, bytesOnLine_nil, Nat.add_zero])

theorem exec_forwardFrameSent {c : Chan} {s : State} {f : ForwardFrame} (h : (s.channels.get c).onLine = some f) :
    exec (.forwardFrameSent c) s = .next (frameGone c f (framesGone c [f] (s.channels.get c).owed s)) := by
  show execForwardFrameSent c s = _
  unfold execForwardFrameSent
  rw [h]

theorem exec_stopSent {c : Chan} {s : State} {f : ForwardFrame} (h : (s.channels.get c).onLine = some f)
    (hs : (s.channels.get c).state = .stopping) (hf : isStop f = true) :
    exec (.stopSent c) s = .next (enterAwaitReceipt c (framesGone c [f] (s.channels.get c).owed s)) := by
  show execStopSent c s = _
  unfold execStopSent
  simp only [h]
  exact if_pos ⟨hs, hf⟩

theorem exec_resendEnd {c : Chan} {s : State} {f : ForwardFrame} {l : Nat} (h : (s.channels.get c).onLine = some f)
    (hs : (s.channels.get c).state = .picture ∨ (s.channels.get c).state = .stopping) (hf : resendLast f = some l) :
    exec (.resendEnd c) s = .next (frameGone c f (framesGone c [f] (s.channels.get c).owed s)) := by
  show execResendEnd c s = _
  unfold execResendEnd framesOut
  simp only [h, Option.toList_some, List.singleton_append, List.takeWhile_cons, hf, Option.isNone_some, Bool.false_eq_true, if_false,
    List.length_nil, List.drop_zero, List.nil_append]
  exact if_pos hs

/-- A frame that is no STOP of STOPPING and no last segment of a resend, or after the picture, brings nothing about. -/
theorem frameGone_quiet {c : Chan} {f : ForwardFrame} {s : State}
    (h : ¬ ((s.channels.get c).state = .picture ∨ (s.channels.get c).state = .stopping) ∨ resendLast f = none ∧ isStop f = false) :
    frameGone c f s = s := by
  unfold frameGone
  dsimp only
  split
  · rename_i hs
    obtain ⟨hr, hf⟩ := h.resolve_left (not_not_intro hs)
    rw [hr, hf]
    rfl
  · rfl

theorem frameGone_stop {c : Chan} {f : ForwardFrame} {s : State} (hs : (s.channels.get c).state = .stopping) (hr : resendLast f = none)
    (hf : isStop f = true) : frameGone c f s = enterAwaitReceipt c s := by
  unfold frameGone
  dsimp only
  rw [if_pos (.inr hs), hr, hf, hs]
  rfl

theorem frameGone_resend {c : Chan} {f : ForwardFrame} {s : State} {l : Nat}
    (hs : (s.channels.get c).state = .picture ∨ (s.channels.get c).state = .stopping) (hr : resendLast f = some l) :
    frameGone c f s = endResend c l s := by
  unfold frameGone
  dsimp only
  rw [if_pos hs, hr]

theorem resendLast_eq_none_iff (f : ForwardFrame) : resendLast f = none ↔ ∀ a n x levels, f ≠ .line a true true n x levels := by
  cases f with
  | line first last resent number start levels => cases first <;> cases last <;> cases resent <;> simp [resendLast]
  | _ => simp [resendLast]

theorem isStop_iff (f : ForwardFrame) : isStop f = true ↔ ∃ n m, f = .stop n m := by
  cases f <;> simp [isStop]

/-- Settles O51: the bits of a frame, a frame gone, the STOP and the last segment of a resend. -/
theorem framesLeaveTheLine : Obligations.FramesLeaveTheLine := by
  unfold Obligations.FramesLeaveTheLine
  rintro c s ch f k gone rfl hf hk rfl
  obtain ⟨only, moves, now, get⟩ := frameLeft (f := f) hk
  have state : ((framesGone c [f] (s.channels.get c).owed s).channels.get c).state = (s.channels.get c).state := by rw [get]
  refine ⟨fun i b hb hi => forwardOutput_bit hf hk hb hi, fun h => ?_, fun hs hstop i hi => ?_, fun a L x levels D hs hline hd hc i hi => ?_⟩
  · refine ⟨_, exec_forwardFrameSent hf, ?_⟩
    have quiet : frameGone c f (framesGone c [f] (s.channels.get c).owed s) = framesGone c [f] (s.channels.get c).owed s := by
      refine frameGone_quiet (h.imp (by rw [state]; exact id) fun h => ⟨(resendLast_eq_none_iff f).mpr h.1, ?_⟩)
      rw [← Bool.not_eq_true, isStop_iff]
      rintro ⟨n, m, e⟩
      exact h.2 n m e
    rw [quiet]
    exact ⟨only, moves, now, get⟩
  · have isstop := (isStop_iff f).mpr hstop
    have none : resendLast f = none := by obtain ⟨n, m, rfl⟩ := hstop; rfl
    have e : exec i s = .next (enterAwaitReceipt c (framesGone c [f] (s.channels.get c).owed s)) := by
      rcases hi with rfl | rfl
      · rw [exec_forwardFrameSent hf, frameGone_stop (state.trans hs) none isstop]
      · exact exec_stopSent hf hs isstop
    refine ⟨_, e, fun d hdc => (modChan_get_ne _ _ hdc).trans (only d hdc), moves.also (modChan_moves _ _ _), now, ?_⟩
    refine (modChan_get _ _ _).trans ?_
    rw [get]
    rfl
  · have last : resendLast f = some L := by rw [hline]; rfl
    have e : exec i s = .next (endResend c L (framesGone c [f] (s.channels.get c).owed s)) := by
      rw [← frameGone_resend (f := f) (by rw [state]; exact hs) last]
      rcases hi with rfl | rfl
      · exact exec_forwardFrameSent hf
      · exact exec_resendEnd hf hs last
    have resent := endResend_moves c L (framesGone c [f] (s.channels.get c).owed s)
    have channels : (endResend c L (framesGone c [f] (s.channels.get c).owed s)).channels = (framesGone c [f] (s.channels.get c).owed s).channels :=
      resent .channels (by decide)
    have store : (endResend c L (framesGone c [f] (s.channels.get c).owed s)).lineStore =
        if L + D < (s.channels.get c).sendPosition then releaseMark c L s.lineStore else s.lineStore := by
      rw [endResend_lineStore, get, show (framesGone c [f] (s.channels.get c).owed s).lineStore = s.lineStore from moves .lineStore (by decide),
        retakeDepth_eq hd]
    refine ⟨_, e, fun d hdc => by rw [channels]; exact only d hdc, moves.within.also resent, ?_, by rw [channels]; exact get, ?_, fun d m => ?_⟩
    · rw [show (endResend c L (framesGone c [f] (s.channels.get c).owed s)).now = _ from resent .now (by decide)]; exact now
    · rw [store]; split
      · exact hd
      · exact hd
    · rw [store]
      by_cases h : L + D < (s.channels.get c).sendPosition
      · rw [if_pos h, askLine_releaseMark hc]
        simp only [h, and_true]
      · rw [if_neg h, if_neg fun k => h k.2.2]

end Sys2Proof.Machine
end

section
/-! PROOF. The commands and inputs that act on the receipt log (O52). -/

namespace Sys2Proof.Machine

theorem findReceipt_congr {s t : State} (h : t.log = s.log) (g : Nat) : findReceipt t g = findReceipt s g := by
  rw [findReceipt_eq, findReceipt_eq, h]

theorem LogShrinks.of_log {s t u : State} (h : LogShrinks t u) (hl : t.log = s.log) : LogShrinks s u := by
  unfold LogShrinks at *; rw [← hl]; exact h

theorem LogShrinks.congr {s t u : State} (h : LogShrinks s t) (hl : u.log = t.log) : LogShrinks s u := by
  unfold LogShrinks at *; rw [hl]; exact h

theorem LogShrinks.refl (s : State) : LogShrinks s s := List.Sublist.refl _

/-- Elements of different numbers are told apart by their numbers. -/
theorem eq_of_nodup_map {α β : Type} {f : α → β} {x y : α} : ∀ {xs : List α}, (xs.map f).Nodup → x ∈ xs → y ∈ xs → f x = f y → x = y
  | z :: zs, h, hx, hy, e => by
    obtain ⟨fresh, h⟩ := List.nodup_cons.mp h
    rcases List.mem_cons.mp hx with rfl | inx <;> rcases List.mem_cons.mp hy with rfl | iny
    · rfl
    · exact absurd (e ▸ List.mem_map_of_mem iny) fresh
    · exact absurd (e ▸ List.mem_map_of_mem inx) fresh
    · exact eq_of_nodup_map h inx iny e

/-- In a log of distinct numbers the record found under a number is the only one (R145). -/
theorem findReceipt_unique {s : State} (h : RecordsDistinct s) {f : Nat} {r x : Receipt} (hr : findReceipt s f = some r)
    (hx : x ∈ s.log) (hf : x.filing = f) : x = r :=
  eq_of_nodup_map h hx (findReceipt_mem hr) (hf.trans (findReceipt_filing hr).symm)

theorem testRecord_moves (f : Nat) (s : State) : Moves [.log] s (testRecord f s) := testRemoval_moves _ _

/-- A record changed to `x` and then tested for removal, from `s` to `m` (R146): gone or as changed, and every other one as it was. -/
structure RecordTested (s : State) (f : Nat) (x : Receipt) (m : State) : Prop where
  shrinks : LogShrinks s m
  others : ∀ k, k ≠ f → findReceipt m k = findReceipt s k
  gone : Removable s x → findReceipt m f = none
  stays : ¬ Removable s x → findReceipt m f = some x ∧ m.log.length = s.log.length

theorem recordTested {s : State} (hd : RecordsDistinct s) {f : Nat} {r : Receipt} (g : Receipt → Receipt)
    (hg : ∀ r, (g r).filing = r.filing) (hr : findReceipt s f = some r) : RecordTested s f (g r) (testRecord f (modRecord f g s)) := by
  let m := testRecord f (modRecord f g s)
  have shrinks := modRecord_shrinks f g hg s
  have distinct := shrinks.distinct hd
  have changed : findReceipt (modRecord f g s) f = some (g r) := by rw [findReceipt_modRecord f g hg, if_pos rfl, hr]; rfl
  have found := findReceipt_testRecord f (modRecord f g s) distinct
  have pins : removable (modRecord f g s) (g r) = removable s (g r) := removable_congr (modRecord_moves f g s .pins (by decide)) _
  refine ⟨shrinks.trans (testRecord_shrinks f _), fun k hk => ?_, fun h => ?_, fun h => ⟨?_, ?_⟩⟩
  · rw [show findReceipt m k = _ from found k, if_neg hk, findReceipt_modRecord f g hg, if_neg hk]
  · rw [show findReceipt m f = _ from found f, if_pos rfl, changed, Option.filter, pins, (removable_iff _ _).mpr h]
    rfl
  · have no : removable s (g r) = false := by rw [← Bool.not_eq_true, removable_iff]; exact h
    rw [show findReceipt m f = _ from found f, if_pos rfl, changed, Option.filter, pins, no]
    rfl
  · have no : removable s (g r) = false := by rw [← Bool.not_eq_true, removable_iff]; exact h
    have kept : m.log = (modRecord f g s).log := testRecord_kept f _ fun x hx hf => by
      rw [findReceipt_unique distinct changed hx hf, pins, no]
    rw [kept, modRecord_log, List.length_map]

theorem RecordTested.congr {s m u : State} {f : Nat} {x : Receipt} (h : RecordTested s f x m) (hl : u.log = m.log) :
    RecordTested s f x u :=
  ⟨h.shrinks.congr hl, fun k hk => (findReceipt_congr hl k).trans (h.others k hk), fun hr => (findReceipt_congr hl f).trans (h.gone hr),
    fun hr => ⟨(findReceipt_congr hl f).trans (h.stays hr).1, by rw [hl]; exact (h.stays hr).2⟩⟩

/-! ### The commands (R147, R160) and the presence inputs (R148) -/

theorem exec_releaseReceipt_absent {l : Link} {f : Word} {s : State} (h : findReceipt s f.toNat = none) :
    exec (.releaseReceipt l f) s = .next (postResult l 0x1B#8 .noSuchReceipt 0 s) := by
  show execReleaseReceipt l f s = _
  unfold execReleaseReceipt
  rw [h]

theorem exec_releaseReceipt {l : Link} {f : Word} {s : State} {r : Receipt} (h : findReceipt s f.toNat = some r) :
    exec (.releaseReceipt l f) s = .next (letThrough s.log.length (testRecord f.toNat
      (modRecord f.toNat (fun r => { r with released := r.released.set l true }) (postResult l 0x1B#8 .ok 0 s)))) := by
  show execReleaseReceipt l f s = _
  unfold execReleaseReceipt
  rw [h]

theorem exec_reprintSlip_absent {l : Link} {f : Word} {s : State} (h : findReceipt s f.toNat = none) :
    exec (.reprintSlip l f) s = .next (postResult l 0x1C#8 .noSuchReceipt 0 s) := by
  show execReprintSlip l f s = _
  unfold execReprintSlip
  rw [h]

theorem exec_reprintSlip {l : Link} {f : Word} {s : State} {r : Receipt} (h : findReceipt s f.toNat = some r) :
    exec (.reprintSlip l f) s =
      if s.printer.state = .disabled ∨ s.printer.disablePending = true then .next (postResult l 0x1C#8 .printerDisabled 0 s)
      else if r.slip ≠ .printed then .next (postResult l 0x1C#8 .notPrinted 0 s)
      else .next (modRecord f.toNat (fun r => { r with slip := .pending, reprint := true }) (postResult l 0x1C#8 .ok 0 s)) := by
  show execReprintSlip l f s = _
  unfold execReprintSlip
  rw [h]

/-- The level of a presence input as taken. -/
def presenceTaken (l : Link) (b : Bool) (s : State) : State := { s with pins := { s.pins with presence := s.pins.presence.set l b } }

theorem presenceTaken_moves (l : Link) (b : Bool) (s : State) : Moves [.pins] s (presenceTaken l b s) := by
  intro p hp; cases p <;> first | rfl | exact absurd (by decide) hp

/-- A release, its removal test, and the references let through. -/
theorem releaseReceipt_spec {l : Link} {f : Word} {s : State} {r : Receipt} (hd : RecordsDistinct s) (hr : findReceipt s f.toNat = some r) :
    ∃ m t, exec (.releaseReceipt l f) s = .next t ∧ LetThrough s.log.length m t ∧
      Posted l 0x1B#8 .ok 0 s m ∧ Moves [.links, .log] s m ∧ LogShrinks s m ∧
      (∀ g, g ≠ f.toNat → findReceipt m g = findReceipt s g) ∧
      (Removable s { r with released := r.released.set l true } → findReceipt m f.toNat = none) ∧
      (¬ Removable s { r with released := r.released.set l true } →
        findReceipt m f.toNat = some { r with released := r.released.set l true } ∧ t = m) := by
  obtain ⟨shrinks, others, gone, stays⟩ := recordTested (s := postResult l 0x1B#8 .ok 0 s) (f := f.toNat) hd
    (fun r => { r with released := r.released.set l true }) (by intro _; rfl) hr
  have posted := postResult_posted l 0x1B#8 .ok 0 s
  refine ⟨_, _, exec_releaseReceipt hr, letThrough_spec _ _, posted.of_links rfl,
    (((postResult_moves l 0x1B#8 .ok 0 s).within.also (modRecord_moves _ _ _)).also (testRecord_moves _ _)), shrinks, others, gone, fun h => ?_⟩
  obtain ⟨found, length⟩ := stays h
  exact ⟨found, letThrough_full (Nat.le_of_eq length.symm)⟩

/-- Settles O52: a release, a presence input and a reprint. -/
theorem receiptCommandsActOnTheRecord : Obligations.ReceiptCommandsActOnTheRecord := by
  unfold Obligations.ReceiptCommandsActOnTheRecord
  refine ⟨fun l s hd => ⟨fun f h => refused_of_eq (exec_releaseReceipt_absent h), ?_, ?_, ?_⟩, ?_⟩
  · rintro f r x hr rfl
    exact releaseReceipt_spec hd hr
  · refine ⟨testRemoval (fun _ => true) (presenceTaken l false s), _, rfl, letThrough_spec _ _,
      (presenceTaken_moves l false s).within.also (testRemoval_moves _ _), rfl, List.filter_sublist, fun r => ?_⟩
    have log : (testRemoval (fun _ => true) (presenceTaken l false s)).log = s.log.filter fun r => !(true && removable (presenceTaken l false s) r) := rfl
    rw [log, List.mem_filter, Bool.true_and, Bool.not_eq_true', ← Bool.not_eq_true, removable_iff,
      Removable_congr (s := presenceTaken l false s) (t := testRemoval (fun _ => true) (presenceTaken l false s)) rfl]
  · exact ⟨_, rfl, presenceTaken_moves l true s, rfl⟩
  · rintro l f s i rfl hd
    refine ⟨fun h => refused_of_eq (exec_reprintSlip_absent h), fun r hr => ⟨fun h => refused_of_eq ?_, fun h1 h2 => ⟨fun h => refused_of_eq ?_, fun h => ?_⟩⟩⟩
    · rw [exec_reprintSlip hr, if_pos h]
    · rw [exec_reprintSlip hr, if_neg (by simp [h1, h2]), if_pos h]
    · have found := findReceipt_modRecord f.toNat (fun r => { r with slip := .pending, reprint := true }) (by intro _; rfl)
        (postResult l 0x1C#8 .ok 0 s)
      refine ⟨modRecord f.toNat (fun r => { r with slip := .pending, reprint := true }) (postResult l 0x1C#8 .ok 0 s),
        by rw [exec_reprintSlip hr, if_neg (by simp [h1, h2]), if_neg (not_not_intro h)], (postResult_posted l 0x1C#8 .ok 0 s).of_links rfl,
        (postResult_moves l 0x1C#8 .ok 0 s).within.also (modRecord_moves _ _ _), ?_, fun g hg => ?_⟩
      · rw [found, if_pos rfl, show findReceipt (postResult l 0x1C#8 .ok 0 s) f.toNat = some r from hr]
        rfl
      · rw [found, if_neg hg]
        rfl

end Sys2Proof.Machine
end

section
/-! PROOF. The slip text (R159) and the printing of a slip character by character (O53). -/

namespace Sys2Proof.Machine

/-! ### Numbers and codes of the slip (R159) -/

theorem decimal_eq : ∀ (w n : Nat), decimal w n = digitsOf w n
  | 0, _ => rfl
  | w + 1, n => by
    rw [decimal, decimal_eq w (n / 10), digitsOf, digitsOf, List.range_succ, List.map_append]
    congr 1
    · refine List.map_congr_left fun i hi => ?_
      have hlt : i < w := List.mem_range.mp hi
      rw [Nat.div_div_eq_div_mul, show w + 1 - 1 - i = (w - 1 - i) + 1 by omega, Nat.pow_succ, Nat.mul_comm 10]
    · simp

theorem hexDigit_eq (d : Nat) : hexDigit d = BitVec.ofNat 8 (if d < 10 then 0x30 + d else 0x41 + (d - 10)) := by
  unfold hexDigit
  split
  · rfl
  · congr 1; omega

theorem hex4_eq (w : Word) : hex4 w = hexOf w := by
  unfold hex4 hexOf
  simp only [hexDigit_eq]
  simp [List.range_succ]

theorem padded_eq (w : Nat) (cs : List Byte) : padded w cs = spacedTo w cs := rfl

theorem priorityName_eq (p : Priority) : text (priorityName p) = nameAt ["FLASH", "URGENT", "ROUTINE", "DEFERRED"] p.rank := by
  cases p <;> rfl

theorem outcomeName_eq (oc : CallOutcome) : text (outcomeName oc) = nameAt ["NO ANSWER", "LINE LOST", "DROPPED", "PHASING FAILED",
    "HOLD TIMEOUT", "WRONG STATION", "INCOMPATIBLE", "WITHDRAWN", "DELIVERED", "DELIVERED WITH GAPS", "SENT UNCONFIRMED"] oc.number := by
  cases oc <;> rfl

/-- The lines of a slip are those of the table. -/
theorem slipLines_eq (bureau : Word) (r : Receipt) : slipLines bureau r = slipTable bureau r := by
  unfold slipLines slipTable filingLine stationLine channelLine reportLine
  simp only [decimal_eq, hex4_eq, padded_eq, priorityName_eq, outcomeName_eq] <;> rfl

/-! ### The width of a slip line -/

@[simp] theorem length_digitsOf (w n : Nat) : (digitsOf w n).length = w := by simp [digitsOf]

@[simp] theorem length_hexOf (w : Word) : (hexOf w).length = 4 := by simp [hexOf]

theorem length_spacedTo {w : Nat} {cs : List Byte} (h : cs.length ≤ w) : (spacedTo w cs).length = w := by
  unfold spacedTo
  rw [List.length_append, List.length_replicate]
  omega

@[simp] theorem length_text (s : String) : (text s).length = s.length := by
  rw [text, List.length_map, String.length_toList]

theorem length_priorityName (p : Priority) :
    (spacedTo 8 (nameAt ["FLASH", "URGENT", "ROUTINE", "DEFERRED"] p.rank)).length = 8 :=
  length_spacedTo (by cases p <;> decide)

theorem length_outcomeName (oc : CallOutcome) : (nameAt ["NO ANSWER", "LINE LOST", "DROPPED", "PHASING FAILED", "HOLD TIMEOUT",
    "WRONG STATION", "INCOMPATIBLE", "WITHDRAWN", "DELIVERED", "DELIVERED WITH GAPS", "SENT UNCONFIRMED"] oc.number).length ≤ 19 := by
  cases oc <;> decide

theorem slipTable_width {bureau : Word} {r : Receipt} (hn : r.name.length ≤ 16) (hc : r.caption.length ≤ 32) :
    ∀ line ∈ slipTable bureau r, line.length ≤ 40 := by
  unfold slipTable
  simp only [List.forall_mem_append, List.forall_mem_cons]
  refine ⟨⟨?_, ?_⟩, ?_, ?_, ?_, ?_, ?_, ?_, ?_, ?_, ?_, ?_⟩
  · simp; decide
  · split
    · simp; decide
    · simp
  · cases r.endTime <;> (simp; decide)
  · rw [List.length_append, List.length_append, List.length_append, List.length_append, List.length_append, length_priorityName]
    simp; decide
  · have name := length_spacedTo hn
    cases r.station <;> (simp [name]; decide)
  · cases r.channel <;> cases r.exhausted <;> (simp; decide)
  · have name := length_outcomeName r.outcome
    rw [List.length_append, length_text]
    exact Nat.le_trans (Nat.add_le_add_left name 8) (by decide)
  · simp; decide
  · cases r.report <;> (simp; decide)
  · split
    · simp; decide
    · rw [List.length_append, length_text]
      exact Nat.add_le_add_left hc 8
  · simp
  · simp

end Sys2Proof.Machine
end

section
/-! PROOF. The printing of a slip character by character (O53). -/

namespace Sys2Proof.Machine

/-! ### The bits on PRTX (R155) -/

theorem foldl_xor_parity : ∀ (bs : List Bool) (a : Bool), bs.foldl xor a = xor a (decide ((bs.filter id).length % 2 = 1))
  | [], a => by simp
  | b :: bs, a => by
    rw [List.foldl_cons, foldl_xor_parity bs]
    cases b with
    | false => simp
    | true =>
      rw [List.filter_cons_of_pos (by rfl), List.length_cons]
      rcases Nat.mod_two_eq_zero_or_one (bs.filter id).length with h | h
      · simp [Nat.add_mod, h]
      · simp [Nat.add_mod, h]

/-- The eleven bits of a character, by their places. -/
theorem characterBits_spec (b : Byte) (i : Nat) :
    (i = 0 → (characterBits b)[i]?.getD true = false) ∧
      (1 ≤ i → i ≤ 7 → (characterBits b)[i]?.getD true = b.getLsbD (i - 1)) ∧
      (i = 8 → (characterBits b)[i]?.getD true = decide (((List.range 7).filter fun j => b.getLsbD j).length % 2 = 1)) ∧
      (9 ≤ i → (characterBits b)[i]?.getD true = true) := by
  refine ⟨?_, fun h1 h7 => ?_, ?_, fun h9 => ?_⟩
  · rintro rfl; rfl
  · obtain rfl | rfl | rfl | rfl | rfl | rfl | rfl : i = 1 ∨ i = 2 ∨ i = 3 ∨ i = 4 ∨ i = 5 ∨ i = 6 ∨ i = 7 := by omega
    all_goals rfl
  · rintro rfl
    have parity := foldl_xor_parity ((List.range 7).map fun j => b.getLsbD j) false
    rw [List.filter_map, List.length_map, Bool.false_xor] at parity
    exact parity
  · obtain rfl | rfl | h : i = 9 ∨ i = 10 ∨ 11 ≤ i := by omega
    · rfl
    · rfl
    · rw [List.getElem?_eq_none (show (characterBits b).length ≤ i from h)]
      rfl

theorem printerLine_rests {s : State} (h : s.printer.state ≠ .printing ∨ s.printer.slip = none) : printerLine s = true := by
  unfold printerLine
  split
  · rename_i hs hsl
    rcases h with h | h
    · exact absurd hs h
    · rw [h] at hsl; cases hsl
  · rfl

theorem printerLine_sends {s : State} {sl : Slip} {ch : Byte} {i : Nat} (hs : s.printer.state = .printing) (hsl : s.printer.slip = some sl)
    (hch : sl.text[s.printer.position]? = some ch)
    (hi : (s.now - s.printer.runStart) * sl.rate.baud / 1000000 = 11 * s.printer.runSent + i) :
    printerLine s = (characterBits ch)[i]?.getD true := by
  unfold printerLine
  simp only [hs, hsl, hi, Nat.add_sub_cancel_left, List.getD_eq_getElem?_getD, hch]
  rfl

/-! ### The slip that begins (R156) -/

theorem nextPending_none {s : State} (h : ∀ r ∈ s.log, r.slip ≠ .pending) : nextPending s = none := by
  unfold nextPending
  rw [List.find?_eq_none]
  intro r hr
  simpa using h r hr

theorem nextPending_first {s : State} {before after : List Receipt} {r : Receipt} (hlog : s.log = before ++ r :: after)
    (hb : ∀ x ∈ before, x.slip ≠ .pending) (hr : r.slip = .pending) : nextPending s = some r := by
  unfold nextPending
  rw [hlog, List.find?_append, List.find?_eq_none.mpr (by simpa using hb), Option.none_or, List.find?_cons_of_pos (by simp [hr])]

/-- A change of the record at a place of a log of distinct numbers. -/
theorem modRecord_at {s : State} (hd : RecordsDistinct s) {before after : List Receipt} {r : Receipt} (g : Receipt → Receipt)
    (hlog : s.log = before ++ r :: after) : (modRecord r.filing g s).log = before ++ g r :: after := by
  unfold RecordsDistinct at hd
  rw [hlog, List.map_append, List.map_cons, List.nodup_append, List.nodup_cons] at hd
  obtain ⟨_, ⟨hafter, _⟩, hbefore⟩ := hd
  have same : ∀ xs : List Receipt, (∀ x ∈ xs, x.filing ≠ r.filing) → (xs.map fun x => if x.filing = r.filing then g x else x) = xs := by
    intro xs h
    refine (List.map_congr_left fun x hx => ?_).trans (List.map_id xs)
    rw [if_neg (h x hx)]
    rfl
  rw [modRecord_log, hlog, List.map_append, List.map_cons, if_pos rfl,
    same before fun x hx => hbefore _ (List.mem_map_of_mem hx) _ List.mem_cons_self,
    same after fun x hx e => hafter (List.mem_map.mpr ⟨x, hx, e⟩)]

theorem nextCharacter_moves (ready : Bool) (run : Printer → Printer) (s : State) : Moves [.printer, .pins] s (nextCharacter ready run s) := by
  unfold nextCharacter
  cases ready <;> (intro p hp; cases p <;> first | rfl | exact absurd (by decide) hp)

/-- The next character begins, or the controller waits, by PRRDY (R157). -/
theorem nextCharacter_printer (ready : Bool) (run : Printer → Printer) (s : State) :
    (nextCharacter ready run s).printer =
      (if ready then { run s.printer with state := .printing } else { s.printer with state := .waiting }) ∧
    (nextCharacter ready run s).pins = { s.pins with printerReady := ready } := by
  cases ready <;> exact ⟨rfl, rfl⟩

theorem exec_slipBegin_idle {ready : Bool} {s : State} (h : s.printer.state ≠ .ready ∨ nextPending s = none) :
    exec (.slipBegin ready) s = .next s := by
  show execSlipBegin ready s = _
  unfold execSlipBegin
  split
  · rename_i hs hp
    rcases h with h | h
    · exact absurd hs h
    · rw [h] at hp; cases hp
  · rfl

/-- The slip of a record, its text formed and its rate read (R156). -/
def slipOf (r : Receipt) (s : State) : Slip :=
  { filing := r.filing, text := slipText (readSettings s.store).bureau r, rate := (readSettings s.store).rate }

/-- The controller with the slip of a record in progress, at its first character. -/
def slipBegun (r : Receipt) (s : State) : State :=
  modPrinter (fun p => { p with state := .printing, slip := some (slipOf r s), position := 0, abandonDue := false })
    (modRecord r.filing (fun r => { r with slip := .printing }) s)

theorem slipBegun_moves (r : Receipt) (s : State) : Moves [.log, .printer] s (slipBegun r s) :=
  (modRecord_moves _ _ s).within.also (modPrinter_moves _ _)

theorem exec_slipBegin {ready : Bool} {s : State} {r : Receipt} (hs : s.printer.state = .ready) (hr : nextPending s = some r) :
    exec (.slipBegin ready) s = .next (nextCharacter ready (freshRun s.now) (slipBegun r s)) := by
  show execSlipBegin ready s = _
  unfold execSlipBegin
  simp only [hs, hr]
  rfl

theorem slipBegin_spec {ready : Bool} {s : State} {before after : List Receipt} {r : Receipt} (hd : RecordsDistinct s)
    (hs : s.printer.state = .ready) (hlog : s.log = before ++ r :: after) (hb : ∀ x ∈ before, x.slip ≠ .pending) (hr : r.slip = .pending) :
    ∃ t, exec (.slipBegin ready) s = .next t ∧ Moves [.log, .printer, .pins] s t ∧
      t.log = before ++ { r with slip := .printing } :: after ∧
      t.printer.slip = some { filing := r.filing, text := slipText (readSettings s.store).bureau r,
                              rate := (readSettings s.store).rate } ∧
      t.printer.position = 0 ∧ t.printer.disablePending = s.printer.disablePending ∧
      t.printer.state = (if ready then .printing else .waiting) ∧
      (ready = true → t.printer.runStart = s.now ∧ t.printer.runSent = 0) ∧
      t.pins = { s.pins with printerReady := ready } := by
  have begun := slipBegun_moves r s
  have next := nextCharacter_moves ready (freshRun s.now) (slipBegun r s)
  have log : (nextCharacter ready (freshRun s.now) (slipBegun r s)).log = before ++ { r with slip := .printing } :: after :=
    (next .log (by decide)).trans (modRecord_at hd (fun r => { r with slip := .printing }) hlog)
  refine ⟨_, exec_slipBegin hs (nextPending_first hlog hb hr), begun.within.also next, log, ?_⟩
  cases ready <;> exact ⟨rfl, rfl, rfl, rfl, by simp [nextCharacter, slipBegun, modPrinter, freshRun], rfl⟩

/-! ### The slip that goes on (R157) -/

theorem exec_slipCharacterSent_other {ready : Bool} {s : State} (h : s.printer.state ≠ .printing) :
    exec (.slipCharacterSent ready) s = .next s := by
  show execSlipCharacterSent ready s = _
  unfold execSlipCharacterSent
  split
  · rename_i hs _; exact absurd hs h
  · rfl

/-- The end of a character: the slip complete, abandoned, or going on. -/
theorem exec_slipCharacterSent {ready : Bool} {s : State} {sl : Slip} (hs : s.printer.state = .printing) (hsl : s.printer.slip = some sl) :
    exec (.slipCharacterSent ready) s =
      if sl.text.length ≤ s.printer.position + 1 then
        .next (letThrough s.log.length (completeSlip sl.filing (jumpTo (characterEnd s.printer sl.rate) s)))
      else if s.printer.abandonDue then
        .next (letThrough s.log.length (abandonSlip sl.filing (s.printer.position + 1) (jumpTo (characterEnd s.printer sl.rate) s)))
      else .next (nextCharacter ready sameRun
        (modPrinter (fun p => { p with position := s.printer.position + 1 }) (jumpTo (characterEnd s.printer sl.rate) s))) := by
  show execSlipCharacterSent ready s = _
  unfold execSlipCharacterSent
  simp only [hs, hsl]

theorem exec_prrdyReady_waiting {s : State} (h : s.printer.state = .waiting) :
    exec .prrdyReady s = .next (nextCharacter true (freshRun s.now) s) := by
  show execPrrdyReady s = _
  unfold execPrrdyReady
  simp only [h]

theorem exec_prrdyReady_other {s : State} (h : s.printer.state ≠ .waiting) :
    exec .prrdyReady s = .next { s with pins := { s.pins with printerReady := true } } := by
  show execPrrdyReady s = _
  unfold execPrrdyReady
  split
  · rename_i hs; exact absurd hs h
  · rfl

/-- Settles O53: the slip begun, its characters, PRTX, and the slip text. -/
theorem slipsArePrintedCharacterByCharacter : Obligations.SlipsArePrintedCharacterByCharacter := by
  unfold Obligations.SlipsArePrintedCharacterByCharacter
  refine ⟨fun ready s => ⟨fun h => exec_slipBegin_idle (h.imp id nextPending_none),
    fun before after r hd hs hlog hb hr => slipBegin_spec hd hs hlog hb hr, ?_, exec_slipCharacterSent_other, fun hs => ?_, exec_prrdyReady_other,
    printerLine_rests, fun sl ch i hs hsl hch hi => ?_⟩, fun bureau r => ⟨?_, ?_, slipTable_width⟩⟩
  · rintro sl now hs hsl rfl hlt ha
    have e := (exec_slipCharacterSent (ready := ready) hs hsl).trans ((if_neg (by omega)).trans (if_neg (by rw [ha]; decide)))
    have moves := ((jumpTo_moves (characterEnd s.printer sl.rate) s).within (qs := [.now, .printer, .pins])
      |>.also (modPrinter_moves (fun p => { p with position := s.printer.position + 1 }) _))
    obtain ⟨printer, pins⟩ := nextCharacter_printer ready sameRun
      (modPrinter (fun p => { p with position := s.printer.position + 1 }) (jumpTo (characterEnd s.printer sl.rate) s))
    refine ⟨_, e, moves.also (nextCharacter_moves _ _ _), nextCharacter_moves _ _ _ .now (by decide), pins, printer.trans ?_⟩
    cases ready <;> rfl
  · obtain ⟨printer, pins⟩ := nextCharacter_printer true (freshRun s.now) s
    exact ⟨_, exec_prrdyReady_waiting hs, nextCharacter_moves _ _ _, pins, printer⟩
  · rw [printerLine_sends hs hsl hch hi]
    exact characterBits_spec ch i
  · unfold slipText; rw [slipLines_eq]
  · unfold slipTable; cases r.reprint <;> rfl

end Sys2Proof.Machine
end

section
/-! PROOF. The end of a slip (O54): complete, abandoned, and either with disable pending set. -/

namespace Sys2Proof.Machine

/-! ### What the removal test and the dropping of PENDING records read (R146, R161) -/

theorem Removable_presence {s t : State} (h : t.pins.presence = s.pins.presence) (r : Receipt) : Removable t r ↔ Removable s r := by
  unfold Removable ReleasedOn
  rw [h]

theorem PendingDropped.congr_presence {g : Nat} {s t m u : State} (h : PendingDropped g s m) (h1 : findReceipt t g = findReceipt s g)
    (h2 : t.pins.presence = s.pins.presence) (h3 : findReceipt u g = findReceipt m g) : PendingDropped g t u := by
  unfold PendingDropped
  rw [h1, h3]
  refine ⟨h.1, fun y hy => ⟨(h.2 y hy).1, fun hp z hz => ?_⟩⟩
  rw [Removable_presence h2]
  exact (h.2 y hy).2 hp z hz

/-- The controller DISABLED at the end of a slip, every PENDING record NOT REQUIRED (R161). -/
theorem disableAtEnd_spec {v : State} (hd : RecordsDistinct v) : Moves [.log, .printer] v (disableAtEnd v) ∧
    (disableAtEnd v).printer = { v.printer with state := .disabled, disablePending := false } ∧
    (∀ y ∈ (disableAtEnd v).log, y.slip ≠ .pending) ∧ LogShrinks v (disableAtEnd v) ∧ ∀ g, PendingDropped g v (disableAtEnd v) :=
  ⟨(modPrinter_moves _ v).within.also (dropPending_moves _), rfl, dropPending_none _,
    (dropPending_shrinks (modPrinter (fun p => { p with state := .disabled, disablePending := false }) v)).of_log rfl,
    fun g => (dropPending_dropped (modPrinter (fun p => { p with state := .disabled, disablePending := false }) v) hd g).congr_presence rfl rfl rfl⟩

/-! ### A slip complete (R157) -/

/-- The record of a complete slip PRINTED and tested, the controller without a slip. -/
def slipPrinted (f : Nat) (s : State) : State :=
  modPrinter (withoutSlip .ready) (testRecord f (modRecord f (fun r => { r with slip := .printed, reprint := false }) s))

theorem completeSlip_eq (f : Nat) (s : State) : completeSlip f s =
    if s.printer.disablePending then disableAtEnd (slipPrinted f s)
    else if s.pins.paper then slipPrinted f s else paperOutFromReady (slipPrinted f s) := rfl

theorem slipPrinted_moves (f : Nat) (s : State) : Moves [.log, .printer] s (slipPrinted f s) :=
  ((modRecord_moves f _ s).within.also (testRecord_moves f _)).also (modPrinter_moves _ _)

theorem slipPrinted_spec {s : State} (hd : RecordsDistinct s) {f : Nat} {r : Receipt} (hr : findReceipt s f = some r) :
    RecordTested s f { r with slip := .printed, reprint := false } (slipPrinted f s) :=
  (recordTested hd (fun r => { r with slip := .printed, reprint := false }) (by intro _; rfl) hr).congr rfl

theorem completeSlip_moves (f : Nat) (s : State) : Moves [.links, .log, .printer] s (completeSlip f s) := by
  have printed := slipPrinted_moves f s
  rw [completeSlip_eq]
  split
  · exact printed.within.also ((modPrinter_moves _ _).within (qs := [.log, .printer]) |>.also (dropPending_moves _))
  · split
    · exact printed.within
    · exact printed.within.also ((modPrinter_moves _ _).within (qs := [.printer, .links]) |>.also (noticeBoth_moves _ _))

/-! ### A slip abandoned (R158) -/

/-- The record of an abandoned slip PENDING again and noticed, the controller without a slip. -/
def slipAbandoned (f sent : Nat) (s : State) : State :=
  noticeBoth (.printerAttention (some f)) (modPrinter (withoutSlip .paperOut)
    (modRecord f (fun r => { r with slip := .pending, reprint := r.reprint || decide (1 ≤ sent) }) s))

theorem abandonSlip_eq (f sent : Nat) (s : State) : abandonSlip f sent s =
    if s.printer.disablePending then disableAtEnd (slipAbandoned f sent s)
    else if s.pins.paper then modPrinter (fun p => { p with state := .ready }) (slipAbandoned f sent s)
    else slipAbandoned f sent s := rfl

theorem slipAbandoned_moves (f sent : Nat) (s : State) : Moves [.links, .log, .printer] s (slipAbandoned f sent s) :=
  ((modRecord_moves f _ s).within.also (modPrinter_moves _ _)).also (noticeBoth_moves _ _)

theorem slipAbandoned_find (f sent : Nat) (s : State) (k : Nat) : findReceipt (slipAbandoned f sent s) k =
    if k = f then (findReceipt s k).map fun r => { r with slip := .pending, reprint := r.reprint || decide (1 ≤ sent) }
    else findReceipt s k :=
  findReceipt_modRecord f (fun r => { r with slip := .pending, reprint := r.reprint || decide (1 ≤ sent) }) (by intro _; rfl) s k

theorem slipAbandoned_shrinks (f sent : Nat) (s : State) : LogShrinks s (slipAbandoned f sent s) :=
  modRecord_shrinks f (fun r => { r with slip := .pending, reprint := r.reprint || decide (1 ≤ sent) }) (by intro _; rfl) s

/-- A slip abandoned with disable pending clear (R158). -/
theorem abandonSlip_spec {v : State} {f sent : Nat} {r : Receipt} (hp : v.printer.disablePending = false) (hr : findReceipt v f = some r) :
    Moves [.links, .log, .printer] v (abandonSlip f sent v) ∧
      findReceipt (abandonSlip f sent v) f = some { r with slip := .pending, reprint := r.reprint || decide (1 ≤ sent) } ∧
      (∀ g, g ≠ f → findReceipt (abandonSlip f sent v) g = findReceipt v g) ∧ (abandonSlip f sent v).printer.slip = none ∧
      (abandonSlip f sent v).printer.position = 0 ∧ NoticedToBoth (.printerAttention (some f)) (abandonSlip f sent v) ∧
      (abandonSlip f sent v).pins = v.pins ∧ (abandonSlip f sent v).printer.state = (if v.pins.paper then .ready else .paperOut) ∧
      (abandonSlip f sent v).log.length = v.log.length := by
  have found := slipAbandoned_find f sent v
  have moves := slipAbandoned_moves f sent v
  have noticed : NoticedToBoth (.printerAttention (some f)) (slipAbandoned f sent v) := noticeBoth_noticed _ _
  have same : findReceipt (slipAbandoned f sent v) f = some { r with slip := .pending, reprint := r.reprint || decide (1 ≤ sent) } := by
    rw [found, if_pos rfl, hr]; rfl
  have length : (slipAbandoned f sent v).log.length = v.log.length := List.length_map _
  rw [abandonSlip_eq, if_neg (by rw [hp]; decide)]
  cases v.pins.paper with
  | true => exact ⟨moves.also (modPrinter_moves _ _), same, fun g hg => (found g).trans (if_neg hg), rfl, rfl, noticed, rfl, rfl, length⟩
  | false => exact ⟨moves, same, fun g hg => (found g).trans (if_neg hg), rfl, rfl, noticed, rfl, rfl, length⟩

/-! ### The paper input (R158) -/

/-- The level of the paper input as taken. -/
def paperTaken (b : Bool) (s : State) : State := { s with pins := { s.pins with paper := b } }

theorem paperTaken_moves (b : Bool) (s : State) : Moves [.pins] s (paperTaken b s) := by
  intro p hp; cases p <;> first | rfl | exact absurd (by decide) hp

theorem exec_paperAbsent_ready {s : State} (h : s.printer.state = .ready) :
    exec .paperAbsent s = .next (paperOutFromReady (paperTaken false s)) := by
  show execPaperAbsent s = _
  unfold execPaperAbsent
  simp only [h]
  rfl

theorem exec_paperAbsent_printing {s : State} (h : s.printer.state = .printing) :
    exec .paperAbsent s = .next (modPrinter (fun p => { p with abandonDue := true }) (paperTaken false s)) := by
  show execPaperAbsent s = _
  unfold execPaperAbsent
  simp only [h]
  rfl

theorem exec_paperAbsent_waiting {s : State} {sl : Slip} (h : s.printer.state = .waiting) (hs : s.printer.slip = some sl) :
    exec .paperAbsent s = .next (letThrough s.log.length (abandonSlip sl.filing s.printer.position (paperTaken false s))) := by
  show execPaperAbsent s = _
  unfold execPaperAbsent
  simp only [h, hs]
  rfl

theorem exec_paperAbsent_rest {s : State} (h : s.printer.state = .disabled ∨ s.printer.state = .paperOut) :
    exec .paperAbsent s = .next (paperTaken false s) := by
  show execPaperAbsent s = _
  unfold execPaperAbsent
  rcases h with h | h <;> (simp only [h]; rfl)

theorem exec_paperPresent (s : State) : ∃ t, exec .paperPresent s = .next t ∧ Moves [.printer, .pins] s t ∧
    t.pins = { s.pins with paper := true } ∧
    t.printer = (if s.printer.state = .paperOut then { s.printer with state := .ready } else s.printer) := by
  have taken := paperTaken_moves true s
  by_cases h : s.printer.state = .paperOut
  · refine ⟨modPrinter (fun p => { p with state := .ready }) (paperTaken true s), ?_, taken.within.also (modPrinter_moves _ _), rfl, by rw [if_pos h]; rfl⟩
    show execPaperPresent s = _
    unfold execPaperPresent
    simp only [h]
    rfl
  · refine ⟨paperTaken true s, ?_, taken.within, rfl, by rw [if_neg h]; rfl⟩
    show execPaperPresent s = _
    unfold execPaperPresent
    split
    · rename_i hs; exact absurd hs h
    · rfl

/-- The two events that abandon a slip: the end of a character after an absence, and an absence in WAITING (R158). -/
theorem exec_abandons {i : Instr} {ready : Bool} {s : State} {sl : Slip} {sent : Nat} (hs : s.printer.slip = some sl)
    (hi : i = .slipCharacterSent ready ∧ s.printer.state = .printing ∧ s.printer.abandonDue = true ∧
        sent = s.printer.position + 1 ∧ sent < sl.text.length ∨
      i = .paperAbsent ∧ s.printer.state = .waiting ∧ sent = s.printer.position) :
    ∃ v, exec i s = .next (letThrough s.log.length (abandonSlip sl.filing sent v)) ∧ Moves [.now, .pins] s v ∧
      v.pins = (if i = .paperAbsent then { s.pins with paper := false } else s.pins) := by
  rcases hi with ⟨rfl, hst, ha, rfl, hlt⟩ | ⟨rfl, hst, rfl⟩
  · exact ⟨_, (exec_slipCharacterSent hst hs).trans ((if_neg (by omega)).trans (if_pos ha)), (jumpTo_moves _ s).within,
      by rw [if_neg (by simp)]; rfl⟩
  · exact ⟨_, exec_paperAbsent_waiting hst hs, (paperTaken_moves false s).within, by rw [if_pos rfl]; rfl⟩

/-- The end of the last character of a slip (R157). -/
theorem exec_completes {ready : Bool} {s : State} {sl : Slip} (hst : s.printer.state = .printing) (hs : s.printer.slip = some sl)
    (hlen : sl.text.length ≤ s.printer.position + 1) : exec (.slipCharacterSent ready) s =
      .next (letThrough s.log.length (completeSlip sl.filing (jumpTo (characterEnd s.printer sl.rate) s))) :=
  (exec_slipCharacterSent hst hs).trans (if_pos hlen)

/-- A complete slip with disable pending clear: the controller READY, or PAPER OUT. -/
theorem completeSlip_free {v : State} {f : Nat} (hp : v.printer.disablePending = false) :
    (completeSlip f v).log = (slipPrinted f v).log ∧ (completeSlip f v).printer.slip = none ∧ (completeSlip f v).printer.position = 0 ∧
      (v.pins.paper = true → (completeSlip f v).printer.state = .ready ∧ (completeSlip f v).links = v.links) ∧
      (v.pins.paper = false → (completeSlip f v).printer.state = .paperOut ∧ NoticedToBoth (.printerAttention none) (completeSlip f v)) := by
  rw [completeSlip_eq, if_neg (by rw [hp]; decide)]
  cases v.pins.paper with
  | true => exact ⟨rfl, rfl, rfl, fun _ => ⟨rfl, rfl⟩, by simp⟩
  | false => exact ⟨rfl, rfl, rfl, by simp, fun _ => ⟨rfl, noticeBoth_noticed _ _⟩⟩

/-- The record of a slip, and the others, once the controller is DISABLED at its end (R161). -/
theorem disabledAtEnd_records {s v w : State} {f : Nat} {x : Receipt} (hd : RecordsDistinct s) (hw : LogShrinks s w)
    (hpres : w.pins.presence = s.pins.presence) (hothers : ∀ g, g ≠ f → findReceipt w g = findReceipt s g)
    (hv : v = disableAtEnd w) (hx : x.slip ≠ .pending)
    (hf : (findReceipt w f = some x ∧ ¬ Removable s x) ∨ (findReceipt w f = none ∧ Removable s x) ∨
      ∃ y, findReceipt w f = some y ∧ y.slip = .pending ∧ x = { y with slip := .notRequired }) :
    (∀ y ∈ v.log, y.slip ≠ .pending) ∧ LogShrinks s v ∧ (Removable s x → findReceipt v f = none) ∧
      (¬ Removable s x → findReceipt v f = some x) ∧ ∀ g, g ≠ f → PendingDropped g s v := by
  obtain ⟨_, _, none, shrinks, dropped⟩ := disableAtEnd_spec (hw.distinct hd)
  rw [hv]
  refine ⟨none, hw.trans shrinks, fun hr => ?_, fun hr => ?_, fun g hg =>
    (dropped g).congr_presence (hothers g hg).symm hpres.symm rfl⟩
  · rcases hf with ⟨_, k⟩ | ⟨hn, _⟩ | ⟨y, hy, hp, hz⟩
    · exact absurd hr k
    · exact (dropped f).1 hn
    · exact ((dropped f).2 y hy).2 hp x hz |>.1 ((Removable_presence hpres x).mpr hr)
  · rcases hf with ⟨hy, _⟩ | ⟨_, k⟩ | ⟨y, hy, hp, hz⟩
    · exact ((dropped f).2 x hy).1 hx
    · exact absurd k hr
    · exact ((dropped f).2 y hy).2 hp x hz |>.2 (mt (Removable_presence hpres x).mp hr)

/-- Settles O54: a slip complete or abandoned, the paper input, and a slip that ends with disable pending set. -/
theorem slipsEndPrintedOrAbandoned : Obligations.SlipsEndPrintedOrAbandoned := by
  unfold Obligations.SlipsEndPrintedOrAbandoned
  refine ⟨fun s hd hp => ⟨?_, ?_, fun hs => ?_, fun hs => ?_, exec_paperAbsent_rest, exec_paperPresent s⟩, ?_⟩
  · rintro ready sl r x hst hs hr rfl hlen
    have taken := jumpTo_moves (characterEnd s.printer sl.rate) s
    obtain ⟨shrinks, others, gone, stays⟩ := slipPrinted_spec (s := jumpTo (characterEnd s.printer sl.rate) s) hd hr
    obtain ⟨log, slip, position, ready', out⟩ := completeSlip_free (v := jumpTo (characterEnd s.printer sl.rate) s) (f := sl.filing) hp
    refine ⟨_, _, exec_completes hst hs hlen, letThrough_spec _ _, taken.within.also (completeSlip_moves _ _), shrinks.congr log,
      fun h => (findReceipt_congr log _).trans (gone h), fun h => ?_, fun g hg => (findReceipt_congr log _).trans (others g hg), slip, position, ready', out⟩
    obtain ⟨found, length⟩ := stays h
    exact ⟨(findReceipt_congr log _).trans found, letThrough_full (by rw [log, length]; exact Nat.le_refl _)⟩
  · intro i ready sl r sent hs hr hi
    obtain ⟨v, e, moves, pins⟩ := exec_abandons hs hi
    have log : v.log = s.log := moves .log (by decide)
    have printer : v.printer = s.printer := moves .printer (by decide)
    obtain ⟨moves', found, others, slip, position, noticed, pins', state, length⟩ :=
      abandonSlip_spec (sent := sent) (v := v) (by rw [printer]; exact hp) ((findReceipt_congr log _).trans hr)
    rw [letThrough_full (Nat.le_of_eq (by rw [length, log]))] at e
    refine ⟨_, e, moves.within.also moves', found, fun g hg => (others g hg).trans (findReceipt_congr log g), slip, position, noticed,
      pins'.trans pins, by rw [pins']; exact state⟩
  · exact ⟨_, exec_paperAbsent_ready hs, ((paperTaken_moves false s).within (qs := [.links, .printer, .pins])).also
      ((modPrinter_moves _ _).within (qs := [.printer, .links]) |>.also (noticeBoth_moves _ _)), rfl, noticeBoth_noticed _ _, rfl⟩
  · exact ⟨_, exec_paperAbsent_printing hs, (paperTaken_moves false s).within.also (modPrinter_moves _ _), rfl, rfl⟩
  · rintro s i ready sl r x sent hd hp hs hr (⟨rfl, hst, hlen, rfl⟩ | ⟨hi, rfl⟩)
    · have taken := jumpTo_moves (characterEnd s.printer sl.rate) s
      generalize hv : jumpTo (characterEnd s.printer sl.rate) s = v at taken
      have log : v.log = s.log := taken .log (by decide)
      have printer : v.printer = s.printer := taken .printer (by decide)
      have pins : v.pins = s.pins := taken .pins (by decide)
      have printed := slipPrinted_moves sl.filing v
      obtain ⟨shrinks, others, gone, stays⟩ := slipPrinted_spec (s := v) (f := sl.filing) (r := r)
        (by unfold RecordsDistinct; rw [log]; exact hd) ((findReceipt_congr log _).trans hr)
      have eq : completeSlip sl.filing v = disableAtEnd (slipPrinted sl.filing v) := by
        rw [completeSlip_eq, if_pos (by rw [printer]; exact hp)]
      have presence : (slipPrinted sl.filing v).pins = s.pins := (printed .pins (by decide)).trans pins
      obtain ⟨none, shrinks', removed, kept, dropped⟩ := disabledAtEnd_records (x := { r with slip := .printed, reprint := false }) hd
        (shrinks.of_log log) (by rw [presence]) (fun g hg => (others g hg).trans (findReceipt_congr log g)) eq (by simp) (by
          by_cases h : Removable s { r with slip := .printed, reprint := false }
          · exact .inr (.inl ⟨gone ((Removable_presence (by rw [pins]) _).mpr h), h⟩)
          · exact .inl ⟨(stays (mt (Removable_presence (by rw [pins]) _).mp h)).1, h⟩)
      refine ⟨completeSlip sl.filing v, _, by rw [← hv]; exact exec_completes hst hs hlen, letThrough_spec _ _,
        taken.within.also (completeSlip_moves _ _), ?_, ?_⟩
      · rw [if_neg (by simp), show (completeSlip sl.filing v).pins = v.pins from completeSlip_moves _ _ .pins (by decide), pins]
      · refine ⟨by rw [eq]; rfl, by rw [eq]; rfl, by rw [eq]; rfl, by rw [eq]; rfl, none, shrinks', removed, kept, dropped, fun _ => ?_, by simp⟩
        rw [eq]
        exact ((disableAtEnd_spec (shrinks.distinct (by unfold RecordsDistinct; rw [log]; exact hd))).1 .links (by decide)).trans
          ((printed .links (by decide)).trans (taken .links (by decide)))
    · obtain ⟨v, e, moves, pins⟩ := exec_abandons hs hi
      have log : v.log = s.log := moves .log (by decide)
      have printer : v.printer = s.printer := moves .printer (by decide)
      have abandoned := slipAbandoned_moves sl.filing sent v
      have find := slipAbandoned_find sl.filing sent v
      have eq : abandonSlip sl.filing sent v = disableAtEnd (slipAbandoned sl.filing sent v) := by
        rw [abandonSlip_eq, if_pos (by rw [printer]; exact hp)]
      have pins' : (slipAbandoned sl.filing sent v).pins = v.pins := abandoned .pins (by decide)
      have presence : (slipAbandoned sl.filing sent v).pins.presence = s.pins.presence := by
        rw [pins', pins]; split <;> rfl
      have shrinks : LogShrinks s (slipAbandoned sl.filing sent v) := (slipAbandoned_shrinks sl.filing sent v).of_log log
      have ended := disableAtEnd_spec (shrinks.distinct hd)
      obtain ⟨none, shrinks', removed, kept, dropped⟩ := disabledAtEnd_records
        (x := { r with slip := .notRequired, reprint := r.reprint || decide (1 ≤ sent) }) hd shrinks presence
        (fun g hg => (find g).trans ((if_neg hg).trans (findReceipt_congr log g))) eq (by simp)
        (.inr (.inr ⟨{ r with slip := .pending, reprint := r.reprint || decide (1 ≤ sent) },
          by rw [find, if_pos rfl, findReceipt_congr log, hr]; rfl, rfl, rfl⟩))
      rw [eq] at e none shrinks' removed kept dropped
      refine ⟨_, _, e, letThrough_spec _ _, (moves.within.also abandoned).also ended.1, ?_, rfl, rfl, rfl, rfl, none, shrinks', removed, kept,
        dropped, by simp, fun _ => ?_⟩
      · rw [show (disableAtEnd (slipAbandoned sl.filing sent v)).pins = _ from ended.1 .pins (by decide), pins', pins]
      · intro l
        rw [show (disableAtEnd (slipAbandoned sl.filing sent v)).links = _ from ended.1 .links (by decide)]
        exact noticeBoth_noticed _ _ l

end Sys2Proof.Machine
end

section
/-! PROOF. The end of a store cycle, with the printer setting it may change, and the guard input (O56). -/

namespace Sys2Proof.Machine

/-! ### The items after a cycle (R165, R166) -/

/-- The store IDLE again, the item of the write with its new contents. -/
def cycleEnded (w : StoreWrite) (st : Store) : Store := { writeItem w st with cycle := none }

theorem setIfInBounds_getElem?_self {α : Type} {n : Nat} (v : Vector α n) {i : Nat} (x : α) (hi : i < n) :
    (v.setIfInBounds i x)[i]? = some x := by simp [hi]

theorem readEntry_cycleEnded (j : Nat) (e : EntryContents) (st : Store) (hj : j < 24) :
    readEntry (cycleEnded (.entry j e) st) j = readingOf e := by
  have written : (cycleEnded (.entry j e) st).entries[j]? = some (freshItem entryContentBytes e) :=
    setIfInBounds_getElem?_self _ _ hj
  unfold readEntry
  rw [written]
  cases e <;> rfl

theorem readCurve_cycleEnded (j : Nat) (t : Curve) (st : Store) (hj : j < 4) :
    readCurvePoints (cycleEnded (.curve j t) st) j = t ∧ curveReplaced (cycleEnded (.curve j t) st) j = false := by
  have written : (cycleEnded (.curve j t) st).curves[j]? = some (freshItem curveBytes t) := setIfInBounds_getElem?_self _ _ hj
  unfold readCurvePoints curveReplaced
  rw [written]
  exact ⟨rfl, rfl⟩

/-- Every other entry keeps its contents. -/
theorem cycleEnded_entry_ne {w : StoreWrite} (st : Store) {j : Nat} (hj : j < 24) (h : ∀ e, w ≠ .entry j e) :
    (cycleEnded w st).entries[j] = st.entries[j] := by
  cases w with
  | entry i e => exact Vector.getElem_setIfInBounds_ne hj fun hij => h e (by rw [hij])
  | curve i t => rfl
  | settings v => rfl
  | lock f => rfl

/-- Every other curve keeps its contents. -/
theorem cycleEnded_curve_ne {w : StoreWrite} (st : Store) {j : Nat} (hj : j < 4) (h : ∀ t, w ≠ .curve j t) :
    (cycleEnded w st).curves[j] = st.curves[j] := by
  cases w with
  | curve i t => exact Vector.getElem_setIfInBounds_ne hj fun hij => h t (by rw [hij])
  | entry i e => rfl
  | settings v => rfl
  | lock f => rfl

theorem cycleEnded_settings_ne {w : StoreWrite} (st : Store) (h : ∀ v, w ≠ .settings v) :
    (cycleEnded w st).settings = st.settings := by
  cases w with
  | settings v => exact absurd rfl (h v)
  | entry i e => rfl
  | curve i t => rfl
  | lock f => rfl

theorem cycleEnded_lock_ne {w : StoreWrite} (st : Store) (h : ∀ b, w ≠ .lock b) : (cycleEnded w st).lock = st.lock := by
  cases w with
  | lock b => exact absurd rfl (h b)
  | entry i e => rfl
  | curve i t => rfl
  | settings v => rfl

/-- The lock without a fall held off (R170). -/
theorem storeLocked_idle {s : State} (h : s.store.cycle = none) :
    storeLocked s = true ↔ readLockFlag s.store = true ∧ s.pins.guard = false := by
  simp [storeLocked, guardFallHeldOff, h]

/-! ### The printer setting (R161) -/

/-- The PENDING records dropped after a change of the controller. -/
theorem dropPending_modPrinter (f : Printer → Printer) (s : State) :
    (∀ y ∈ (dropPending (modPrinter f s)).log, y.slip ≠ .pending) ∧ LogShrinks s (dropPending (modPrinter f s)) ∧
      (RecordsDistinct s → ∀ g, PendingDropped g s (dropPending (modPrinter f s))) ∧
      Moves [.log, .printer] s (dropPending (modPrinter f s)) :=
  ⟨dropPending_none _, (dropPending_shrinks (modPrinter f s)).of_log rfl,
    fun hd g => (dropPending_dropped (modPrinter f s) hd g).congr_presence rfl rfl rfl,
    (modPrinter_moves f s).within.also (dropPending_moves _)⟩

/-- What a printer setting that turns disabled makes of a part whose controller is not DISABLED. -/
structure SettingDisabled (s m : State) : Prop where
  none_pending : ∀ y ∈ m.log, y.slip ≠ .pending
  shrinks : LogShrinks s m
  dropped : RecordsDistinct s → ∀ g, PendingDropped g s m
  moves : Moves [.log, .printer] s m
  at_rest : s.printer.state = .ready ∨ s.printer.state = .paperOut → m.printer = { s.printer with state := .disabled }
  in_slip : s.printer.state = .printing ∨ s.printer.state = .waiting → m.printer = { s.printer with disablePending := true }

theorem turnDisabled_rest {s : State} (h : s.printer.state = .ready ∨ s.printer.state = .paperOut) :
    turnDisabled s = dropPending (modPrinter (fun p => { p with state := .disabled }) s) := by
  unfold turnDisabled
  rcases h with h | h <;> rw [h]

theorem turnDisabled_slip {s : State} (h : s.printer.state = .printing ∨ s.printer.state = .waiting) :
    turnDisabled s = dropPending (modPrinter (fun p => { p with disablePending := true }) s) := by
  unfold turnDisabled
  rcases h with h | h <;> rw [h]

theorem turnDisabled_spec {s : State} (h : s.printer.state ≠ .disabled) : SettingDisabled s (turnDisabled s) := by
  by_cases rest : s.printer.state = .ready ∨ s.printer.state = .paperOut
  · rw [turnDisabled_rest rest]
    obtain ⟨none_pending, shrinks, dropped, moves⟩ := dropPending_modPrinter (fun p => { p with state := .disabled }) s
    refine ⟨none_pending, shrinks, dropped, moves, fun _ => rfl, fun slip => ?_⟩
    rcases rest with e | e <;> simp [e] at slip
  · have slip : s.printer.state = .printing ∨ s.printer.state = .waiting := by
      revert h rest; cases s.printer.state <;> simp
    rw [turnDisabled_slip slip]
    obtain ⟨none_pending, shrinks, dropped, moves⟩ := dropPending_modPrinter (fun p => { p with disablePending := true }) s
    exact ⟨none_pending, shrinks, dropped, moves, fun r => absurd r rest, fun _ => rfl⟩

theorem turnEnabled_moves (s : State) : Moves [.printer] s (turnEnabled s) := by
  unfold turnEnabled
  split
  case h_1 => exact modPrinter_moves _ _
  case h_2 => exact modPrinter_moves _ _
  case h_3 => exact modPrinter_moves _ _
  case h_4 => exact Moves.refl _ _
  case h_5 => exact Moves.refl _ _

theorem turnEnabled_disabled {s : State} (h : s.printer.state = .disabled) :
    (turnEnabled s).printer = { s.printer with state := if s.pins.paper then .ready else .paperOut } := by
  unfold turnEnabled
  rw [h]
  rfl

theorem turnEnabled_slip {s : State} (h : s.printer.state = .printing ∨ s.printer.state = .waiting) :
    (turnEnabled s).printer = { s.printer with disablePending := false } := by
  unfold turnEnabled
  rcases h with h | h <;> rw [h] <;> rfl

theorem turnDisabled_moves (s : State) : Moves [.log, .printer] s (turnDisabled s) := by
  by_cases h : s.printer.state = .disabled
  · unfold turnDisabled
    rw [h]
    exact Moves.refl _ _
  · exact (turnDisabled_spec h).moves

theorem applyPrinterSetting_moves (before after : Bool) (s : State) :
    Moves [.log, .printer] s (applyPrinterSetting before after s) := by
  unfold applyPrinterSetting
  split
  · exact Moves.refl _ _
  · split
    · exact (turnEnabled_moves s).within
    · exact turnDisabled_moves s

/-! ### The end of a cycle (R166) -/

/-- The item written and STORE DONE noticed, at the end of the cycle `c`. -/
def cycleNoticed (c : StoreCycle) (s : State) : State :=
  noticeTo c.link (.storeDone c.item.name) { jumpTo (c.start + cycleLength) s with store := cycleEnded c.item s.store }

theorem cycleNoticed_moves (c : StoreCycle) (s : State) : Moves [.now, .links, .store] s (cycleNoticed c s) := by
  intro p hp; cases p <;> first | rfl | exact absurd (by decide) hp

/-- The end of a cycle, before the places it freed are used. -/
def cycleSettled (c : StoreCycle) (s : State) : State :=
  applyPrinterSetting (readSettings s.store).printerEnabled (readSettings (cycleEnded c.item s.store)).printerEnabled (cycleNoticed c s)

theorem exec_storeCycleEnd {s : State} {c : StoreCycle} (h : s.store.cycle = some c) :
    exec .storeCycleEnd s = .next (letThrough s.log.length (cycleSettled c s)) := by
  show execStoreCycleEnd s = _
  unfold execStoreCycleEnd
  rw [h]
  rfl

theorem cycleSettled_from (c : StoreCycle) (s : State) : Moves [.log, .printer] (cycleNoticed c s) (cycleSettled c s) :=
  applyPrinterSetting_moves _ _ _

theorem cycleSettled_store (c : StoreCycle) (s : State) : (cycleSettled c s).store = cycleEnded c.item s.store :=
  cycleSettled_from c s .store (by decide)

theorem cycleSettled_links (c : StoreCycle) (s : State) : (cycleSettled c s).links = (cycleNoticed c s).links :=
  cycleSettled_from c s .links (by decide)

theorem cycleNoticed_done (c : StoreCycle) (s : State) :
    ((cycleNoticed c s).links.get c.link).notices.storeDone = some (.storeDone c.item.name) := by
  unfold cycleNoticed
  cases c.link <;> rfl

theorem noticeTo_onlyLink (l : Link) (n : Notice) (s : State) : OnlyLink l s (noticeTo l n s) :=
  fun _ hk => PerLink.get_set_ne _ _ hk

theorem SettingDisabled.from_noticed {c : StoreCycle} {s m : State} (h : SettingDisabled (cycleNoticed c s) m) :
    (∀ r ∈ m.log, r.slip ≠ .pending) ∧ LogShrinks s m ∧ (RecordsDistinct s → ∀ g, PendingDropped g s m) ∧
      (s.printer.state = .ready ∨ s.printer.state = .paperOut → m.printer = { s.printer with state := .disabled }) ∧
      (s.printer.state = .printing ∨ s.printer.state = .waiting → m.printer = { s.printer with disablePending := true }) :=
  ⟨h.none_pending, h.shrinks.of_log rfl, fun hd g => (h.dropped hd g).congr_presence rfl rfl rfl, h.at_rest, h.in_slip⟩

theorem cycleSettled_same {c : StoreCycle} {s : State}
    (h : (readSettings (cycleEnded c.item s.store)).printerEnabled = (readSettings s.store).printerEnabled) :
    cycleSettled c s = cycleNoticed c s := if_pos h.symm

theorem cycleSettled_disabled {c : StoreCycle} {s : State} (before : (readSettings s.store).printerEnabled = true)
    (after : (readSettings (cycleEnded c.item s.store)).printerEnabled = false) :
    cycleSettled c s = turnDisabled (cycleNoticed c s) := by
  unfold cycleSettled applyPrinterSetting
  rw [before, after, if_neg (by decide), if_neg (by decide)]

theorem cycleSettled_enabled {c : StoreCycle} {s : State} (before : (readSettings s.store).printerEnabled = false)
    (after : (readSettings (cycleEnded c.item s.store)).printerEnabled = true) :
    cycleSettled c s = turnEnabled (cycleNoticed c s) := by
  unfold cycleSettled applyPrinterSetting
  rw [before, after, if_neg (by decide), if_pos rfl]

/-! ### The guard (R170) -/

/-- The state after a fall of the guard input. -/
def guardFallen (s : State) : State :=
  { s with
    pins := { s.pins with guard := false },
    store := { s.store with cycle := s.store.cycle.map fun c => { c with guardFell := c.guardFell || s.pins.guard } } }

theorem guardFallen_idle {s : State} (h : s.store.cycle = none) : (guardFallen s).store = s.store := by
  have same : (guardFallen s).store.cycle = s.store.cycle := by simp [guardFallen, h]
  exact congrArg (fun c => { s.store with cycle := c }) same

theorem guardFallen_writing {s : State} {c : StoreCycle} (h : s.store.cycle = some c) (hg : s.pins.guard = true) :
    (guardFallen s).store = { s.store with cycle := some { c with guardFell := true } } := by
  simp [guardFallen, h, hg]

/-- A fall inside a cycle waits for the end of the cycle. -/
theorem storeLocked_heldOff {s : State} {c : StoreCycle} (h : s.store.cycle = some c) (hc : c.guardFell = true) :
    storeLocked s = false := by
  simp [storeLocked, guardFallHeldOff, h, hc]

theorem guardFall_spec (s : State) :
    ∃ t, exec .guardFall s = .next t ∧ Moves [.pins, .store] s t ∧ t.pins = { s.pins with guard := false } ∧
      (s.store.cycle = none → t.store = s.store ∧ (storeLocked t = true ↔ readLockFlag s.store = true)) ∧
      ∀ c, s.store.cycle = some c → s.pins.guard = true → storeLocked t = false ∧
        t.store = { s.store with cycle := some { c with guardFell := true } } := by
  refine ⟨guardFallen s, rfl, ?_, rfl, fun hc => ⟨guardFallen_idle hc, ?_⟩, fun c hc hg => ⟨?_, guardFallen_writing hc hg⟩⟩
  · intro p hp; cases p <;> first | rfl | exact absurd (by decide) hp
  · have idle : (guardFallen s).store.cycle = none := by rw [guardFallen_idle hc, hc]
    exact (storeLocked_idle idle).trans ⟨fun k => k.1, fun k => ⟨k, rfl⟩⟩
  · have writing : (guardFallen s).store.cycle = some { c with guardFell := true } := by rw [guardFallen_writing hc hg]
    exact storeLocked_heldOff writing rfl

theorem guardRise_spec (s : State) :
    ∃ t, exec .guardRise s = .next t ∧ Moves [.pins] s t ∧ t.pins = { s.pins with guard := true } ∧ storeLocked t = false := by
  refine ⟨{ s with pins := { s.pins with guard := true } }, rfl, ?_, rfl, ?_⟩
  · intro p hp; cases p <;> first | rfl | exact absurd (by decide) hp
  · simp [storeLocked]

/-- Settles O56: the items by the kind of the write; the printer and the log by whether the setting changes, and which way. -/
theorem storeCyclesEndWithTheNewContents : Obligations.StoreCyclesEndWithTheNewContents := by
  unfold Obligations.StoreCyclesEndWithTheNewContents
  refine ⟨fun s h => ?_, fun s c h => ?_, fun s => ⟨guardFall_spec s, guardRise_spec s⟩⟩
  · show execStoreCycleEnd s = _
    unfold execStoreCycleEnd
    rw [h]
  · have store := cycleSettled_store c s
    have links := cycleSettled_links c s
    refine ⟨cycleSettled c s, _, exec_storeCycleEnd h, letThrough_spec _ _, cycleSettled_from c s .now (by decide), ?_,
      (cycleNoticed_moves c s).within.also (cycleSettled_from c s), ?_, ?_, ?_⟩
    · rw [store]; rfl
    · intro k hk
      rw [links]
      exact noticeTo_onlyLink c.link (.storeDone c.item.name) _ k hk
    · rw [links]
      exact cycleNoticed_done c s
    · simp only [store]
      refine ⟨fun j hj => ⟨fun e he => ?_, cycleEnded_entry_ne _ hj⟩, fun j hj => ⟨fun p hp => ?_, cycleEnded_curve_ne _ hj⟩,
        fun v hv => ?_, cycleEnded_settings_ne _, fun b hb => ?_, cycleEnded_lock_ne _, ?_, fun same => ?_,
        fun before after enabled => ?_, fun before after => ?_⟩
      · rw [he]; exact readEntry_cycleEnded j e _ hj
      · rw [hp]; exact readCurve_cycleEnded j p _ hj
      · rw [hv]; exact ⟨rfl, rfl⟩
      · rw [hb]; exact ⟨by cases b <;> rfl, rfl⟩
      · have idle : (cycleSettled c s).store.cycle = none := by rw [store]; rfl
        have guard : (cycleSettled c s).pins = s.pins := cycleSettled_from c s .pins (by decide)
        rw [storeLocked_idle idle, store, guard]
      · rw [cycleSettled_same same]; exact ⟨rfl, rfl⟩
      · rw [cycleSettled_disabled before after]
        exact (turnDisabled_spec (s := cycleNoticed c s) enabled).from_noticed
      · rw [cycleSettled_enabled before after]
        exact ⟨turnEnabled_moves (cycleNoticed c s) .log (by decide), turnEnabled_disabled (s := cycleNoticed c s),
          turnEnabled_slip (s := cycleNoticed c s)⟩

end Sys2Proof.Machine
end

section
/-! PROOF. The arguments of the store writes (O55): what WRITE DIRECTORY, WRITE CURVE and WRITE SETTINGS carry, and what is out of
range (R163, R164, R168, R169). -/

namespace Sys2Proof.Machine

/-! ### The bytes of an entry's fields (R184) -/

theorem lpmOfByte_lpm {b : Byte} {k : LpmClass} (h : lpmOfByte b = some k) : k.lpm = b.toNat := by
  unfold lpmOfByte at h
  split at h <;> simp_all only [Option.some.injEq, reduceCtorEq]
  all_goals subst h; rfl

theorem lpmOfByte_class {b : Byte} {k : LpmClass} (h : b.toNat = k.lpm) : lpmOfByte b = some k := by
  unfold lpmOfByte
  rw [h]
  cases k <;> rfl

theorem rateOfByte_byte {b : Byte} {r : LineRate} (h : rateOfByte b = some r) : r.byte = b := by
  apply BitVec.eq_of_toNat_eq
  unfold rateOfByte at h
  split at h <;> simp_all only [Option.some.injEq, reduceCtorEq]
  all_goals subst h; rfl

theorem rateOfByte_some {b : Byte} (h : b.toNat ≤ 3) : ∃ r, rateOfByte b = some r := by
  unfold rateOfByte
  obtain h | h | h | h : b.toNat = 0 ∨ b.toNat = 1 ∨ b.toNat = 2 ∨ b.toNat = 3 := by omega
  all_goals rw [h]; exact ⟨_, rfl⟩

theorem segmentOfByte_byte {b : Byte} {g : SegmentSize} (h : segmentOfByte b = some g) : g.byte = b := by
  apply BitVec.eq_of_toNat_eq
  unfold segmentOfByte at h
  split at h <;> simp_all only [Option.some.injEq, reduceCtorEq]
  all_goals subst h; rfl

theorem segmentOfByte_some {b : Byte} (h : b.toNat ≤ 2) : ∃ g, segmentOfByte b = some g := by
  unfold segmentOfByte
  obtain h | h | h : b.toNat = 0 ∨ b.toNat = 1 ∨ b.toNat = 2 := by omega
  all_goals rw [h]; exact ⟨_, rfl⟩

theorem chan_of_number {n : Nat} (h0 : n ≠ 0) (h : n ≤ 4) : ∃ c : Chan, n = c.number := by
  have : n = 1 ∨ n = 2 ∨ n = 3 ∨ n = 4 := by omega
  rcases this with rfl | rfl | rfl | rfl
  · exact ⟨.c1, rfl⟩
  · exact ⟨.c2, rfl⟩
  · exact ⟨.c3, rfl⟩
  · exact ⟨.c4, rfl⟩

theorem lineKindOfByte_dialled {b : Byte} (h : b.toNat = 0) : lineKindOfByte b = some .dialled := if_pos h

theorem lineKindOfByte_leased {b : Byte} {c : Chan} (h : b.toNat = c.number) : lineKindOfByte b = some (.leased c) := by
  unfold lineKindOfByte
  rw [if_neg (by rw [h]; cases c <;> decide), chanOfByte_number h]
  rfl

theorem lineKindOfByte_outside {b : Byte} (h : 4 < b.toNat) : lineKindOfByte b = none := by
  unfold lineKindOfByte
  rw [if_neg (by omega), chanOfByte_outside (.inr h)]
  rfl

theorem lineKindOfByte_kind {b : Byte} {kind : LineKind} (h : lineKindOfByte b = some kind) :
    b.toNat ≤ 4 ∧ (kind = .dialled ↔ b.toNat = 0) := by
  have hle : b.toNat ≤ 4 := by
    refine Nat.le_of_not_lt fun hlt => ?_
    rw [lineKindOfByte_outside hlt] at h
    cases h
  refine ⟨hle, ?_⟩
  by_cases h0 : b.toNat = 0
  · obtain rfl := Option.some.inj (h.symm.trans (lineKindOfByte_dialled h0))
    simp [h0]
  · obtain ⟨c, hc⟩ := chan_of_number h0 hle
    obtain rfl := Option.some.inj (h.symm.trans (lineKindOfByte_leased hc))
    simp [h0]

/-! ### The entry that WRITE DIRECTORY carries (R168) -/

/-- The fields of an entry, but for those a byte names, within their ranges. -/
def EntryFieldsFit (a : EntryArgs) (kind : LineKind) : Prop :=
  a.nameCount.toNat ≤ 16 ∧ (counted a.nameCount a.name).all (fun c => 0x20 ≤ c.toNat && c.toNat ≤ 0x7E) = true ∧
    100 ≤ a.iocLow.toNat ∧ a.iocLow.toNat ≤ 2000 ∧ 100 ≤ a.iocHigh.toNat ∧ a.iocHigh.toNat ≤ 2000 ∧
    a.iocLow.toNat ≤ a.iocHigh.toNat ∧ a.retries.toNat ≤ 5 ∧
    (if kind = .dialled then
      1 ≤ a.digitCount.toNat ∧ a.digitCount.toNat ≤ 20 ∧
        ((counted a.digitCount a.digits).map BitVec.toNat).all (fun d => d ≤ 9) = true
     else a.digitCount.toNat = 0)

/-- The entry of arguments whose named fields are `kind`, `lpm`, `rate` and `segment`. -/
def entryCarried (a : EntryArgs) (kind : LineKind) (lpm : LpmClass) (rate : LineRate) (segment : SegmentSize) : Entry :=
  { code := a.code, mask := a.mask, name := counted a.nameCount a.name, kind := kind,
    digits := (counted a.digitCount a.digits).map BitVec.toNat, lpm := lpm, rate := rate, segment := segment,
    iocLow := a.iocLow.toNat, iocHigh := a.iocHigh.toNat, retries := a.retries.toNat }

theorem entryOfArgs_eq_some_iff (a : EntryArgs) (e : Entry) : entryOfArgs a = some e ↔
    ∃ kind lpm rate segment, lineKindOfByte a.kind = some kind ∧ lpmOfByte a.lpm = some lpm ∧ rateOfByte a.rate = some rate ∧
      segmentOfByte a.segment = some segment ∧ EntryFieldsFit a kind ∧ entryCarried a kind lpm rate segment = e := by
  simp only [entryOfArgs, Option.bind_eq_bind, Option.bind_eq_some_iff, Option.ite_none_right_eq_some, Option.some.injEq]
  constructor
  · rintro ⟨kind, hk, lpm, hl, rate, hr, segment, hs, fit, he⟩
    exact ⟨kind, lpm, rate, segment, hk, hl, hr, hs, fit, he⟩
  · rintro ⟨kind, lpm, rate, segment, hk, hl, hr, hs, fit, he⟩
    exact ⟨kind, hk, lpm, hl, rate, hr, segment, hs, fit, he⟩

theorem entryOfArgs_carried {a : EntryArgs} {e : Entry} (h : entryOfArgs a = some e) : EntryCarried a e := by
  obtain ⟨kind, lpm, rate, segment, hk, hl, hr, hs, -, rfl⟩ := (entryOfArgs_eq_some_iff a e).mp h
  refine ⟨rfl, rfl, rfl, fun h0 => ?_, fun c hc => ?_, rfl, lpmOfByte_lpm hl, rateOfByte_byte hr, segmentOfByte_byte hs, rfl, rfl, rfl⟩
  · exact Option.some.inj (hk.symm.trans (lineKindOfByte_dialled h0))
  · exact Option.some.inj (hk.symm.trans (lineKindOfByte_leased hc))

theorem entryFieldsFit_dialled {a : EntryArgs} (h : a.kind.toNat = 0) (hr : ¬ EntryOutOfRange a) : EntryFieldsFit a .dialled := by
  simp only [EntryOutOfRange, h] at hr
  simp only [EntryFieldsFit, counted, List.all_eq_true, if_true, List.all_map]
  grind

theorem entryFieldsFit_leased {a : EntryArgs} (h : a.kind.toNat ≠ 0) (hr : ¬ EntryOutOfRange a) (c : Chan) :
    EntryFieldsFit a (.leased c) := by
  simp only [EntryOutOfRange, h] at hr
  simp only [EntryFieldsFit, counted, List.all_eq_true, reduceCtorEq, if_false]
  grind

theorem entryOfArgs_inRange {a : EntryArgs} (h : ¬ EntryOutOfRange a) : ∃ e, entryOfArgs a = some e := by
  have range := h
  simp only [EntryOutOfRange, not_or, Classical.not_and_iff_not_or_not, Nat.not_lt, Classical.not_not] at range
  obtain ⟨-, -, hl, hr, hs, -, -, -, -, -, -, hk, -, -⟩ := range
  obtain ⟨lpm, hl⟩ : ∃ k : LpmClass, a.lpm.toNat = k.lpm := by
    rcases hl with hl | hl | hl | hl | hl
    · exact ⟨.l30, hl⟩
    · exact ⟨.l45, hl⟩
    · exact ⟨.l60, hl⟩
    · exact ⟨.l90, hl⟩
    · exact ⟨.l120, hl⟩
  obtain ⟨rate, hr⟩ := rateOfByte_some hr
  obtain ⟨segment, hs⟩ := segmentOfByte_some hs
  by_cases h0 : a.kind.toNat = 0
  · exact ⟨_, (entryOfArgs_eq_some_iff a _).mpr
      ⟨.dialled, lpm, rate, segment, lineKindOfByte_dialled h0, lpmOfByte_class hl, hr, hs, entryFieldsFit_dialled h0 h, rfl⟩⟩
  · obtain ⟨c, hc⟩ := chan_of_number h0 hk
    exact ⟨_, (entryOfArgs_eq_some_iff a _).mpr
      ⟨.leased c, lpm, rate, segment, lineKindOfByte_leased hc, lpmOfByte_class hl, hr, hs, entryFieldsFit_leased h0 h c, rfl⟩⟩

theorem lineRate_byte_le (r : LineRate) : r.byte.toNat ≤ 3 := by cases r <;> decide

theorem segmentSize_byte_le (g : SegmentSize) : g.byte.toNat ≤ 2 := by cases g <;> decide

/-- Arguments that give an entry are in range: the fields that a byte names, then the others. -/
theorem entryOfArgs_outOfRange {a : EntryArgs} (h : EntryOutOfRange a) : entryOfArgs a = none := by
  refine Option.eq_none_iff_forall_ne_some.mpr fun e he => ?_
  obtain ⟨kind, lpm, rate, segment, hk, hl, hr, hs, fit, -⟩ := (entryOfArgs_eq_some_iff a e).mp he
  have lpm_eq := lpmOfByte_lpm hl
  have rate_le : a.rate.toNat ≤ 3 := rateOfByte_byte hr ▸ lineRate_byte_le rate
  have segment_le : a.segment.toNat ≤ 2 := segmentOfByte_byte hs ▸ segmentSize_byte_le segment
  obtain ⟨kind_le, kind_iff⟩ := lineKindOfByte_kind hk
  have lpm_values : lpm.lpm = 30 ∨ lpm.lpm = 45 ∨ lpm.lpm = 60 ∨ lpm.lpm = 90 ∨ lpm.lpm = 120 := by cases lpm <;> decide
  simp only [EntryFieldsFit, counted, List.all_eq_true, List.all_map] at fit
  unfold EntryOutOfRange at h
  grind

/-! ### The settings that WRITE SETTINGS carries (R164, R169) -/

theorem configOfByte_byte {b : Byte} {g : ChanConfig} (h : configOfByte b = some g) : g.byte = b := by
  unfold configOfByte at h
  apply BitVec.eq_of_toNat_eq
  split at h
  case isTrue hb => cases h; exact hb.symm
  case isFalse hb =>
    split at h
    · cases h
      simp [ChanConfig.byte]
    · cases h

theorem configOfByte_dialled {b : Byte} {g : ChanConfig} (h : configOfByte b = some g) : g = .dialled ↔ b.toNat = 0xFF := by
  unfold configOfByte at h
  grind

theorem configOfByte_some {b : Byte} (h : b.toNat ≤ 23 ∨ b.toNat = 0xFF) : ∃ g, configOfByte b = some g := by
  unfold configOfByte
  rcases h with h | h
  · exact ⟨.leased b.toNat, by rw [if_neg (by omega), if_pos h]⟩
  · exact ⟨.dialled, if_pos h⟩

theorem configOfByte_range {b : Byte} {g : ChanConfig} (h : configOfByte b = some g) : b.toNat ≤ 23 ∨ b.toNat = 0xFF := by
  unfold configOfByte at h
  grind

theorem leasesOneEntryTwice_iff (gs : List ChanConfig) :
    leasesOneEntryTwice gs = false ↔ gs.Pairwise fun x y => x = y → x = .dialled := by
  induction gs with
  | nil => simp [leasesOneEntryTwice]
  | cons g rest ih =>
    cases g with
    | dialled => simp [leasesOneEntryTwice, ih]
    | leased i =>
      simp only [leasesOneEntryTwice, Bool.or_eq_false_iff, ih, List.pairwise_cons, reduceCtorEq, imp_false]
      simp only [List.contains_eq_mem, decide_eq_false_iff_not]
      grind

/-- No two channels are leased to one entry. -/
theorem leasesOneEntryTwice_channels (p : PerChan ChanConfig) : leasesOneEntryTwice [p.c1, p.c2, p.c3, p.c4] = false ↔
    ∀ c d : Chan, c ≠ d → p.get c = p.get d → p.get c = .dialled := by
  rw [leasesOneEntryTwice_iff, show [p.c1, p.c2, p.c3, p.c4] = Chan.all.map p.get from rfl, List.pairwise_map]
  constructor
  · intro h c d hcd
    have later : Chan.all.Pairwise fun c d => c ≠ d → p.get c = p.get d → p.get c = .dialled := by
      refine h.imp ?_
      exact fun k _ => k
    have earlier : Chan.all.Pairwise (flip fun c d => c ≠ d → p.get c = p.get d → p.get c = .dialled) :=
      h.imp fun k _ e => e.trans (k e.symm)
    exact List.Pairwise.forall_of_forall_of_flip (fun _ _ hne => absurd rfl hne) later earlier (chan_mem c) (chan_mem d) hcd
  · exact fun h => chan_nodup.imp fun hcd => h _ _ hcd

/-- The settings but for the bytes that name a rate or a configuration, within their ranges. -/
def SettingsFieldsFit (a : SettingsArgs) (config : PerChan ChanConfig) : Prop :=
  300 ≤ a.diameter.toNat ∧ a.diameter.toNat ≤ 800 ∧ a.depth.toNat ≤ 8 ∧ 30 ≤ a.retryDelay.toNat ∧
    a.retryDelay.toNat ≤ 600 ∧ a.printer.toNat ≤ 1 ∧ leasesOneEntryTwice [config.c1, config.c2, config.c3, config.c4] = false

/-- The settings of arguments whose named fields are `rate` and `config`. -/
def settingsCarried (a : SettingsArgs) (rate : PrintRate) (config : PerChan ChanConfig) : Settings :=
  { diameter := a.diameter.toNat, depth := a.depth.toNat, retryDelay := a.retryDelay.toNat, bureau := a.bureau,
    printerEnabled := decide (a.printer.toNat = 1), rate := rate, config := config }

theorem settingsOfArgs_eq_some_iff (a : SettingsArgs) (v : Settings) : settingsOfArgs a = some v ↔
    ∃ rate config, (∀ c : Chan, configOfByte (a.channels.get c) = some (config.get c)) ∧ rate.byte = a.rate ∧
      SettingsFieldsFit a config ∧ settingsCarried a rate config = v := by
  simp only [settingsOfArgs, Option.bind_eq_bind, Option.bind_eq_some_iff]
  constructor
  · rintro ⟨g1, h1, g2, h2, g3, h3, g4, h4, h⟩
    have configs : ∀ c : Chan, configOfByte (a.channels.get c) = some ((⟨g1, g2, g3, g4⟩ : PerChan ChanConfig).get c) := by
      intro c; cases c <;> assumption
    split at h
    case h_1 hr =>
      obtain ⟨fit, hv⟩ := (Option.ite_none_right_eq_some.mp h)
      exact ⟨.b1200, _, configs, BitVec.eq_of_toNat_eq hr.symm, fit, Option.some.inj hv⟩
    case h_2 hr =>
      obtain ⟨fit, hv⟩ := (Option.ite_none_right_eq_some.mp h)
      exact ⟨.b2400, _, configs, BitVec.eq_of_toNat_eq hr.symm, fit, Option.some.inj hv⟩
    case h_3 => cases h
  · rintro ⟨rate, config, hc, hr, fit, hv⟩
    refine ⟨_, hc .c1, _, hc .c2, _, hc .c3, _, hc .c4, ?_⟩
    rw [← hr, ← hv]
    cases rate <;> exact if_pos fit

theorem settingsOfArgs_carried {a : SettingsArgs} {v : Settings} (h : settingsOfArgs a = some v) : SettingsCarried a v := by
  obtain ⟨rate, config, hc, hr, -, rfl⟩ := (settingsOfArgs_eq_some_iff a v).mp h
  exact ⟨rfl, rfl, rfl, rfl, decide_eq_true_iff, hr, fun c => configOfByte_byte (hc c)⟩

theorem settingsOfArgs_inRange {a : SettingsArgs} (h : ¬ SettingsOutOfRange a) : ∃ v, settingsOfArgs a = some v := by
  simp only [SettingsOutOfRange, not_or, not_exists, not_and, Nat.not_lt, Classical.not_not] at h
  obtain ⟨hd1, hd2, hdepth, hr1, hr2, hp, hrate, hchan, hpair⟩ := h
  obtain ⟨rate, hr⟩ : ∃ rate : PrintRate, rate.byte = a.rate := by
    obtain h0 | h1 : a.rate.toNat = 0 ∨ a.rate.toNat = 1 := by omega
    · exact ⟨.b1200, BitVec.eq_of_toNat_eq h0.symm⟩
    · exact ⟨.b2400, BitVec.eq_of_toNat_eq h1.symm⟩
  have config : ∀ c : Chan, ∃ g, configOfByte (a.channels.get c) = some g := fun c =>
    configOfByte_some (by have := hchan c; omega)
  obtain ⟨g1, h1⟩ := config .c1
  obtain ⟨g2, h2⟩ := config .c2
  obtain ⟨g3, h3⟩ := config .c3
  obtain ⟨g4, h4⟩ := config .c4
  have configs : ∀ c : Chan, configOfByte (a.channels.get c) = some ((⟨g1, g2, g3, g4⟩ : PerChan ChanConfig).get c) := by
    intro c; cases c <;> assumption
  refine ⟨_, (settingsOfArgs_eq_some_iff a _).mpr ⟨rate, _, configs, hr,
    ⟨hd1, hd2, hdepth, hr1, hr2, hp, (leasesOneEntryTwice_channels _).mpr fun c d hcd e => ?_⟩, rfl⟩⟩
  have same : a.channels.get c = a.channels.get d := by
    rw [← configOfByte_byte (configs c), ← configOfByte_byte (configs d), e]
  exact (configOfByte_dialled (configs c)).mpr (hpair c d hcd same)

/-- Arguments that give settings are in range. -/
theorem settingsOfArgs_outOfRange {a : SettingsArgs} (h : SettingsOutOfRange a) : settingsOfArgs a = none := by
  refine Option.eq_none_iff_forall_ne_some.mpr fun v hv => ?_
  obtain ⟨rate, config, hc, hr, ⟨hd1, hd2, hdepth, hr1, hr2, hp, hpair⟩, -⟩ := (settingsOfArgs_eq_some_iff a v).mp hv
  have rate_le : a.rate.toNat ≤ 1 := by rw [← hr]; cases rate <;> decide
  rcases h with h | h | h | h | h | h | h | ⟨c, h1, h2⟩ | ⟨c, d, hcd, same, h2⟩
  iterate 7 omega
  · rcases configOfByte_range (hc c) with k | k <;> omega
  · have e : config.get c = config.get d := Option.some.inj ((hc c).symm.trans (same ▸ hc d))
    exact h2 ((configOfByte_dialled (hc c)).mp ((leasesOneEntryTwice_channels config).mp hpair c d hcd e))

/-! ### The points that WRITE CURVE carries (R164, R169) -/

theorem curveOfPoints_some {ps : List Byte} (h : ps.length = 17) :
    ∃ t : Curve, curveOfPoints ps = some t ∧ t.toList = ps.map BitVec.toNat := by
  have size : (ps.map BitVec.toNat).toArray.size = 17 := by simp [h]
  exact ⟨⟨_, size⟩, dif_pos size, rfl⟩

theorem nonDecreasing_iff (ns : List Nat) : nonDecreasing ns = true ↔ List.Pairwise (· ≤ ·) ns := by
  induction ns with
  | nil => simp [nonDecreasing]
  | cons a rest ih =>
    cases rest with
    | nil => simp [nonDecreasing]
    | cons b rest =>
      rw [nonDecreasing, Bool.and_eq_true, decide_eq_true_eq, ih, List.pairwise_cons (a := a)]
      refine ⟨fun ⟨hab, hrest⟩ => ⟨fun y hy => ?_, hrest⟩, fun ⟨first, hrest⟩ => ⟨first b List.mem_cons_self, hrest⟩⟩
      rcases List.mem_cons.mp hy with rfl | hy
      · exact hab
      · exact Nat.le_trans hab ((List.pairwise_cons.mp hrest).1 y hy)

end Sys2Proof.Machine
end

section
/-! PROOF. The six store writes: their checks in order (O55). -/

namespace Sys2Proof.Machine

theorem writeTaken_of_eq {i : Instr} {l : Link} {command : Byte} {w : StoreWrite} {s : State}
    (h : exec i s = .next (takeWrite l command w s)) : WriteTaken i l command w w.name.code s :=
  ⟨_, h, (postResult_posted l command .ok w.name.code s).of_links rfl,
    (postResult_moves l command .ok w.name.code s).within.also (startCycle_moves l w _), rfl⟩

/-! ### What the checks read (R167) -/

theorem entryNamed_iff (s : State) (entry : Nat) {p : DestState → Bool} {states : List DestState} (hp : ∀ st, p st = true ↔ st ∈ states) :
    entryNamed s entry p = true ↔ EntryNamed s entry states := by
  simp only [entryNamed, EntryNamed, List.any_eq_true, Bool.and_eq_true, decide_eq_true_eq, hp]

theorem entryInUse_iff (s : State) (entry : Nat) : entryInUse s entry = true ↔ EntryNamed s entry [.assigned, .sending] :=
  entryNamed_iff s entry fun st => by simp

theorem entryReferenced_iff (s : State) (entry : Nat) : entryReferenced s entry = true ↔ EntryNamed s entry [.ready, .delayed] :=
  entryNamed_iff s entry fun st => by simp

theorem channelBusy_iff (s : State) (v : Settings) : channelBusy s v.config = true ↔ SomeChannelBusy s v := by
  simp only [channelBusy, SomeChannelBusy, List.any_eq_true, Bool.and_eq_true, bne_iff_ne, and_assoc, chan_mem, true_and]

/-- The lock as the checks read it, with no cycle running (R170). -/
theorem storeLocked_of_low {s : State} (hc : s.store.cycle = none) (h : readLockFlag s.store = true ∧ s.pins.guard = false) :
    storeLocked s = true := (storeLocked_idle hc).mpr h

theorem storeLocked_of_open {s : State} (h : readLockFlag s.store = false ∨ s.pins.guard = true) : storeLocked s = false := by
  rcases h with h | h <;> simp [storeLocked, h]

theorem not_locked {s : State} (opened : storeLocked s = false) : ¬ storeLocked s = true := by simp [opened]

/-! ### The first check: a cycle runs (R167) -/

theorem write_busy {s : State} (h : s.store.cycle ≠ none) (l : Link) (b : Byte) (a : EntryArgs) (points : List Byte) (v : SettingsArgs) :
    RefusedWith (.writeDirectory l b a) l 0x20#8 .storeBusy s ∧ RefusedWith (.eraseDirectory l b) l 0x21#8 .storeBusy s ∧
      RefusedWith (.writeCurve l b points) l 0x22#8 .storeBusy s ∧ RefusedWith (.writeSettings l v) l 0x23#8 .storeBusy s ∧
      RefusedWith (.setLock l) l 0x24#8 .storeBusy s ∧ RefusedWith (.clearLock l) l 0x25#8 .storeBusy s := by
  have busy : s.store.cycle.isSome = true := Option.isSome_iff_ne_none.mpr h
  exact ⟨refused_of_eq (if_pos busy), refused_of_eq (if_pos busy), refused_of_eq (if_pos busy), refused_of_eq (if_pos busy),
    refused_of_eq (if_pos busy), refused_of_eq (if_pos busy)⟩

/-! ### The lock commands (R171) -/

section
variable {s : State} (idle : s.store.cycle = none)
include idle

theorem not_busy : ¬ s.store.cycle.isSome = true := by simp [idle]

theorem setLock_taken (l : Link) : WriteTaken (.setLock l) l 0x24#8 (.lock true) 0x300 s :=
  writeTaken_of_eq (if_neg (not_busy idle))

theorem clearLock_low (l : Link) (h : s.pins.guard = false) : RefusedWith (.clearLock l) l 0x25#8 .guardLow s :=
  refused_of_eq ((if_neg (not_busy idle)).trans (if_pos h))

theorem clearLock_taken (l : Link) (h : s.pins.guard = true) : WriteTaken (.clearLock l) l 0x25#8 (.lock false) 0x300 s :=
  writeTaken_of_eq ((if_neg (not_busy idle)).trans (if_neg (by simp [h])))

/-! ### The second check: the lock (R170) -/

theorem write_locked (h : storeLocked s = true) (l : Link) (b : Byte) (a : EntryArgs) (points : List Byte) (v : SettingsArgs) :
    RefusedWith (.writeDirectory l b a) l 0x20#8 .locked s ∧ RefusedWith (.eraseDirectory l b) l 0x21#8 .locked s ∧
      RefusedWith (.writeCurve l b points) l 0x22#8 .locked s ∧ RefusedWith (.writeSettings l v) l 0x23#8 .locked s :=
  have first := not_busy idle
  ⟨refused_of_eq ((if_neg first).trans (if_pos h)), refused_of_eq ((if_neg first).trans (if_pos h)),
    refused_of_eq ((if_neg first).trans (if_pos h)), refused_of_eq ((if_neg first).trans (if_pos h))⟩

/-! ### The other checks, with the store open (R167 to R169) -/

variable (opened : storeLocked s = false)
include opened

theorem writeDirectory_index (l : Link) {b : Byte} (a : EntryArgs) (h : 23 < b.toNat) :
    RefusedWith (.writeDirectory l b a) l 0x20#8 .badField s :=
  refused_of_eq ((if_neg (not_busy idle)).trans ((if_neg (not_locked opened)).trans (if_pos h)))

theorem exec_writeDirectory (l : Link) {b : Byte} (a : EntryArgs) (h : b.toNat ≤ 23) :
    exec (.writeDirectory l b a) s = (entryOfArgs a).elim (.next (postResult l 0x20#8 .badField 0 s)) fun e =>
      if entryInUse s b.toNat then .next (postResult l 0x20#8 .inUse 0 s)
      else .next (takeWrite l 0x20#8 (.entry b.toNat (some e)) s) := by
  refine (if_neg (not_busy idle)).trans ((if_neg (not_locked opened)).trans ((if_neg (by omega)).trans ?_))
  cases entryOfArgs a <;> rfl

theorem writeDirectory_range (l : Link) {b : Byte} {a : EntryArgs} (h : 23 < b.toNat ∨ EntryOutOfRange a) :
    RefusedWith (.writeDirectory l b a) l 0x20#8 .badField s := by
  by_cases index : 23 < b.toNat
  · exact writeDirectory_index idle opened l a index
  · refine refused_of_eq ((exec_writeDirectory idle opened l a (by omega)).trans ?_)
    rw [entryOfArgs_outOfRange (h.resolve_left index)]
    rfl

theorem writeDirectory_inRange (l : Link) {b : Byte} {a : EntryArgs} (h : b.toNat ≤ 23) (ha : ¬ EntryOutOfRange a) :
    (EntryNamed s b.toNat [.assigned, .sending] → RefusedWith (.writeDirectory l b a) l 0x20#8 .inUse s) ∧
      (¬ EntryNamed s b.toNat [.assigned, .sending] →
        ∃ e, EntryCarried a e ∧ WriteTaken (.writeDirectory l b a) l 0x20#8 (.entry b.toNat (some e)) b.toNat s) := by
  obtain ⟨e, he⟩ := entryOfArgs_inRange ha
  have run := exec_writeDirectory idle opened l a h
  rw [he] at run
  rw [← entryInUse_iff]
  exact ⟨fun used => refused_of_eq (run.trans (if_pos used)),
    fun free => ⟨e, entryOfArgs_carried he, writeTaken_of_eq (run.trans (if_neg free))⟩⟩

theorem eraseDirectory_index (l : Link) {b : Byte} (h : 23 < b.toNat) : RefusedWith (.eraseDirectory l b) l 0x21#8 .badField s :=
  refused_of_eq ((if_neg (not_busy idle)).trans ((if_neg (not_locked opened)).trans (if_pos h)))

theorem exec_eraseDirectory (l : Link) {b : Byte} (h : b.toNat ≤ 23) :
    exec (.eraseDirectory l b) s = if entryInUse s b.toNat then .next (postResult l 0x21#8 .inUse 0 s)
      else if entryReferenced s b.toNat then .next (postResult l 0x21#8 .referenced 0 s)
      else .next (takeWrite l 0x21#8 (.entry b.toNat none) s) :=
  (if_neg (not_busy idle)).trans ((if_neg (not_locked opened)).trans (if_neg (by omega)))

theorem eraseDirectory_inRange (l : Link) {b : Byte} (h : b.toNat ≤ 23) :
    (EntryNamed s b.toNat [.assigned, .sending] → RefusedWith (.eraseDirectory l b) l 0x21#8 .inUse s) ∧
      (¬ EntryNamed s b.toNat [.assigned, .sending] →
        (EntryNamed s b.toNat [.ready, .delayed] → RefusedWith (.eraseDirectory l b) l 0x21#8 .referenced s) ∧
          (¬ EntryNamed s b.toNat [.ready, .delayed] →
            WriteTaken (.eraseDirectory l b) l 0x21#8 (.entry b.toNat none) b.toNat s)) := by
  have run := exec_eraseDirectory idle opened l h
  rw [← entryInUse_iff, ← entryReferenced_iff]
  exact ⟨fun used => refused_of_eq (run.trans (if_pos used)), fun free =>
    ⟨fun named => refused_of_eq (run.trans ((if_neg free).trans (if_pos named))),
      fun unnamed => writeTaken_of_eq (run.trans ((if_neg free).trans (if_neg unnamed)))⟩⟩

theorem writeCurve_index (l : Link) {b : Byte} (points : List Byte) (h : 3 < b.toNat) :
    RefusedWith (.writeCurve l b points) l 0x22#8 .badField s :=
  refused_of_eq ((if_neg (not_busy idle)).trans ((if_neg (not_locked opened)).trans (if_pos h)))

theorem exec_writeCurve (l : Link) {b : Byte} {points : List Byte} {t : Curve} (h : b.toNat ≤ 3) (ht : curveOfPoints points = some t) :
    exec (.writeCurve l b points) s = if nonDecreasing t.toList = false then .next (postResult l 0x22#8 .badCurve 0 s)
      else .next (takeWrite l 0x22#8 (.curve b.toNat t) s) := by
  refine (if_neg (not_busy idle)).trans ((if_neg (not_locked opened)).trans ((if_neg (by omega)).trans ?_))
  rw [ht]

theorem writeCurve_inRange (l : Link) {b : Byte} {points : List Byte} (h : b.toNat ≤ 3) (hp : points.length = 17) :
    (¬ List.Pairwise (· ≤ ·) (points.map BitVec.toNat) → RefusedWith (.writeCurve l b points) l 0x22#8 .badCurve s) ∧
      (List.Pairwise (· ≤ ·) (points.map BitVec.toNat) → ∃ t : Curve, t.toList = points.map BitVec.toNat ∧
        WriteTaken (.writeCurve l b points) l 0x22#8 (.curve b.toNat t) (0x100 + b.toNat) s) := by
  obtain ⟨t, ht, list⟩ := curveOfPoints_some hp
  have run := exec_writeCurve idle opened l h ht
  rw [← list, ← nonDecreasing_iff]
  exact ⟨fun falls => refused_of_eq (run.trans (if_pos (Bool.eq_false_iff.mpr falls))),
    fun rises => ⟨t, rfl, writeTaken_of_eq (run.trans (if_neg (by simp [rises])))⟩⟩

theorem exec_writeSettings (l : Link) (v : SettingsArgs) :
    exec (.writeSettings l v) s = (settingsOfArgs v).elim (.next (postResult l 0x23#8 .badField 0 s)) fun x =>
      if channelBusy s x.config then .next (postResult l 0x23#8 .channelBusy 0 s)
      else .next (takeWrite l 0x23#8 (.settings x) s) := by
  refine (if_neg (not_busy idle)).trans ((if_neg (not_locked opened)).trans ?_)
  cases settingsOfArgs v <;> rfl

theorem writeSettings_range (l : Link) {v : SettingsArgs} (h : SettingsOutOfRange v) :
    RefusedWith (.writeSettings l v) l 0x23#8 .badField s := by
  refine refused_of_eq ((exec_writeSettings idle opened l v).trans ?_)
  rw [settingsOfArgs_outOfRange h]
  rfl

theorem writeSettings_inRange (l : Link) {v : SettingsArgs} (h : ¬ SettingsOutOfRange v) :
    ∃ x, SettingsCarried v x ∧ (SomeChannelBusy s x → RefusedWith (.writeSettings l v) l 0x23#8 .channelBusy s) ∧
      (¬ SomeChannelBusy s x → WriteTaken (.writeSettings l v) l 0x23#8 (.settings x) 0x200 s) := by
  obtain ⟨x, hx⟩ := settingsOfArgs_inRange h
  have run := exec_writeSettings idle opened l v
  rw [hx] at run
  refine ⟨x, settingsOfArgs_carried hx, ?_⟩
  rw [← channelBusy_iff]
  exact ⟨fun busy => refused_of_eq (run.trans (if_pos busy)), fun free => writeTaken_of_eq (run.trans (if_neg free))⟩

end

/-- Settles O55: the six writes, check by check. -/
theorem storeWritesAreCheckedInOrder : Obligations.StoreWritesAreCheckedInOrder := by
  unfold Obligations.StoreWritesAreCheckedInOrder
  rintro l b a points v s _ rfl hp
  refine ⟨fun busy => write_busy busy l b a points v, fun idle => ⟨setLock_taken idle l, clearLock_low idle l, clearLock_taken idle l,
    fun low => write_locked idle (storeLocked_of_low idle low) l b a points v, fun unlocked => ?_⟩⟩
  have opened := storeLocked_of_open unlocked
  exact ⟨writeDirectory_range idle opened l, writeDirectory_inRange idle opened l, eraseDirectory_index idle opened l,
    eraseDirectory_inRange idle opened l, writeCurve_index idle opened l points, fun h => writeCurve_inRange idle opened l h hp,
    writeSettings_range idle opened l, writeSettings_inRange idle opened l⟩

end Sys2Proof.Machine
end

section
/-! PROOF. The pieces of the answers of READ commands, as R184 lays their fields out (O6). -/

namespace Sys2Proof.Machine

/-! ### The bytes of fields (R184) -/

theorem fieldBytes_nil : fieldBytes [] = [] := rfl

/-- A field of one byte. -/
theorem be_byteOf (v : Nat) : be 1 v = [byteOf v] := be_one v

/-- A flag is one byte. -/
theorem byteOf_flag (b : Bool) : byteOf (flagNumber b) = boolByte b := by cases b <;> rfl

theorem byteOf_toNat (b : Byte) : byteOf b.toNat = b := by
  rw [byteOf, BitVec.ofNat_toNat, BitVec.setWidth_eq]

theorem be_zero : ∀ n, be n 0 = zeros n
  | 0 => rfl
  | n + 1 => by
    rw [be, be_zero n, Nat.zero_div]
    rfl

theorem fieldBytes_zeroFields (n : Nat) : fieldBytes (zeroFields n) = zeros n := by
  induction n with
  | zero => rfl
  | succ n ih =>
    rw [zeroFields, List.replicate_succ, fieldBytes_cons]
    exact congrArg (0#8 :: ·) ih

theorem fieldBytes_map_one {α : Type} (f : α → Nat) (xs : List α) :
    fieldBytes (xs.map fun x => (1, f x)) = xs.map fun x => byteOf (f x) := by
  induction xs with
  | nil => rfl
  | cons x xs ih => rw [List.map_cons, fieldBytes_cons, ih, be_byteOf]; rfl

theorem fieldBytes_flatMap {α : Type} (f : α → List (Nat × Nat)) (xs : List α) :
    fieldBytes (xs.flatMap f) = xs.flatMap fun x => fieldBytes (f x) := by
  induction xs with
  | nil => rfl
  | cons x xs ih => rw [List.flatMap_cons, fieldBytes_append, ih]; rfl

theorem fieldBytes_replicate (n v : Nat) : fieldBytes (List.replicate n (1, v)) = List.replicate n (byteOf v) := by
  induction n with
  | zero => rfl
  | succ n ih => rw [List.replicate_succ, fieldBytes_cons, ih, be_byteOf]; rfl

/-! ### Optional fields, timers, times, reports and characters (R184) -/

theorem fieldBytes_optField (width : Nat) (v : Option Nat) : fieldBytes (optField width v) = optionalNumber width v := by
  cases v with
  | none =>
    show be 1 0 ++ (be width 0 ++ []) = 0#8 :: zeros width
    rw [be_zero width, List.append_nil]
    rfl
  | some n =>
    show be 1 1 ++ (be width n ++ []) = 1#8 :: be width n
    rw [List.append_nil]
    rfl

theorem classBytes_eq (k : Option LpmClass) : classBytes k = optionalNumber 1 (k.map LpmClass.lpm) := by
  cases k with
  | none => rfl
  | some k => cases k <;> rfl

theorem fieldBytes_timerFields (now : Nat) (t : Timer) : fieldBytes (timerFields now t) = timerBytes now t := by
  cases t with
  | none =>
    show be 1 0 ++ (be 4 0 ++ []) = zeros 5
    rw [be_zero 4, List.append_nil]
    rfl
  | some t0 => simp [timerFields, timerBytes, fieldBytes_cons, fieldBytes_nil, elapsedMs, be_byteOf, byteOf_flag, boolByte]

theorem fieldBytes_timeFields (t : Option TimeOfDay) : fieldBytes (timeFields t) = timeBytes t := by
  cases t with
  | none => rfl
  | some t => simp [timeFields, timeBytes, optional, fieldBytes_cons, fieldBytes_nil, be_byteOf, byteOf_flag, boolByte]

theorem fieldBytes_reportFields (r : Option Report) : fieldBytes (reportFields r) = reportBytes r := by
  cases r with
  | none => rfl
  | some r => simp [reportFields, reportBytes, optional, fieldBytes_cons, fieldBytes_nil, be_byteOf, byteOf_flag, boolByte]

theorem fieldBytes_charFields (width : Nat) (cs : List Byte) : fieldBytes (charFields width cs) = charField width cs := by
  rw [charFields, fieldBytes_cons, fieldBytes_append, fieldBytes_characters, fieldBytes_replicate, be_byteOf]
  rfl

theorem fieldBytes_mountFields (m : Mount) : fieldBytes (mountFields m) = mountStatus m := by
  cases m <;> simp [mountFields, mountStatus, fieldBytes_cons, fieldBytes_nil, be_byteOf, byteOf, be_zero 3]

theorem fieldBytes_retakeFields (e : RetakeEntry) : fieldBytes (retakeFields e) = retakeBytes e := by
  cases e <;> simp [retakeFields, retakeBytes, fieldBytes_cons, fieldBytes_nil, be_byteOf, byteOf]

theorem holdBytes_eq (now : Nat) (t : Timer) :
    holdBytes now t = boolByte t.isNone :: timerBytes now t := by
  cases t <;> rfl

/-! ### The widths of fields -/

/-- The bytes that some fields take. -/
def fieldsWidth (fs : List (Nat × Nat)) : Nat := (fs.map Prod.fst).sum

theorem length_fieldBytes (fs : List (Nat × Nat)) : (fieldBytes fs).length = fieldsWidth fs := by
  simp [fieldBytes, fieldsWidth, List.length_flatMap]

@[simp] theorem fieldsWidth_nil : fieldsWidth [] = 0 := rfl

@[simp] theorem fieldsWidth_cons (f : Nat × Nat) (fs : List (Nat × Nat)) : fieldsWidth (f :: fs) = f.1 + fieldsWidth fs := by
  simp [fieldsWidth]

@[simp] theorem fieldsWidth_append (fs gs : List (Nat × Nat)) : fieldsWidth (fs ++ gs) = fieldsWidth fs + fieldsWidth gs := by
  simp [fieldsWidth]

@[simp] theorem fieldsWidth_optField (width : Nat) (v : Option Nat) : fieldsWidth (optField width v) = 1 + width := rfl

@[simp] theorem fieldsWidth_zeroFields (n : Nat) : fieldsWidth (zeroFields n) = n := by simp [fieldsWidth, zeroFields]

@[simp] theorem fieldsWidth_map_one {α : Type} (f : α → Nat) (xs : List α) : fieldsWidth (xs.map fun x => (1, f x)) = xs.length := by
  induction xs with
  | nil => rfl
  | cons x xs ih => rw [List.map_cons, fieldsWidth_cons, ih, List.length_cons, Nat.add_comm]

@[simp] theorem fieldsWidth_timerFields (now : Nat) (t : Timer) : fieldsWidth (timerFields now t) = 5 := rfl

@[simp] theorem fieldsWidth_timeFields (t : Option TimeOfDay) : fieldsWidth (timeFields t) = 5 := rfl

@[simp] theorem fieldsWidth_reportFields (r : Option Report) : fieldsWidth (reportFields r) = 8 := rfl

@[simp] theorem fieldsWidth_mountFields (m : Mount) : fieldsWidth (mountFields m) = 4 := by cases m <;> rfl

theorem fieldsWidth_charFields {width : Nat} {cs : List Byte} (h : cs.length ≤ width) : fieldsWidth (charFields width cs) = 1 + width := by
  rw [charFields, fieldsWidth_cons, fieldsWidth_append, fieldsWidth_map_one,
    show fieldsWidth (List.replicate (width - cs.length) (1, 0x20)) = width - cs.length by simp [fieldsWidth]]
  show 1 + (cs.length + (width - cs.length)) = 1 + width
  omega

theorem fieldsWidth_flatMap {α : Type} {f : α → List (Nat × Nat)} {n : Nat} (h : ∀ x, fieldsWidth (f x) = n) (xs : List α) :
    fieldsWidth (xs.flatMap f) = n * xs.length := by
  induction xs with
  | nil => rfl
  | cons x xs ih => rw [List.flatMap_cons, fieldsWidth_append, ih, h, List.length_cons, Nat.mul_succ, Nat.add_comm]

theorem fieldsWidth_retakeFields (e : RetakeEntry) : fieldsWidth (retakeFields e) = 3 := by cases e <;> rfl

@[simp] theorem fieldsWidth_roundFields (r : Round) : fieldsWidth (roundFields r) = 11 := by
  unfold roundFields
  split
  · rfl
  · simp [Chan.all]

end Sys2Proof.Machine
end

section
/-! PROOF. The answers of the READ commands, field by field (O6). -/

namespace Sys2Proof.Machine

theorem resultAnswer_eq (r : ResultRecord) :
    resultAnswer r = fieldBytes [(1, r.command.toNat), (1, r.code.number), (4, r.value)] := by
  simp [resultAnswer, fieldBytes_cons, fieldBytes_nil, be_byteOf, byteOf_toNat]

/-! ### READ STATUS -/

theorem membershipBytes_eq (m : PerChan (Option Nat)) : membershipBytes m = Chan.all.map fun c => byteOf ((m.get c).getD 0xFF) := by
  unfold membershipBytes
  refine List.map_congr_left fun c _ => ?_
  cases m.get c <;> rfl

theorem roundStatus_eq (r : Round) : roundStatus r = fieldBytes (roundFields r) := by
  unfold roundStatus roundFields
  split
  case h_1 h => simp [h, fieldBytes_cons, fieldBytes_zeroFields, be_byteOf, RoundState.number]
  case h_2 h =>
    rw [if_neg h]
    simp only [fieldBytes_append, fieldBytes_cons, fieldBytes_nil, fieldBytes_optField, fieldBytes_map_one, be_byteOf, byteOf_flag,
      classBytes_eq, membershipBytes_eq, List.append_assoc, List.cons_append, List.nil_append]

/-- The reference pair (R71). -/
theorem pairBytes_eq (p : Option ReferencePair) : optional 4 (p.map fun p => be 2 p.white ++ be 2 p.black) =
    boolByte p.isSome :: (be 2 ((p.map ReferencePair.white).getD 0) ++ be 2 ((p.map ReferencePair.black).getD 0)) := by
  cases p <;> rfl

/-- The latest reference (R71). -/
theorem latestBytes_eq (p : Option LatestReference) :
    optional 5 (p.map fun r => be 2 r.white ++ (be 2 r.black ++ [boolByte r.valid])) =
      boolByte p.isSome :: (be 2 ((p.map LatestReference.white).getD 0) ++ (be 2 ((p.map LatestReference.black).getD 0) ++
        [boolByte ((p.map LatestReference.valid).getD false)])) := by
  cases p with
  | none => rfl
  | some p => simp [optional, boolByte]

theorem statusAnswer_eq (s : State) : statusAnswer s = fieldBytes (statusFields s (readyLevel s)) := by
  simp only [statusFields, fieldBytes_append, ← roundStatus_eq, fieldBytes_mountFields, fieldBytes_cons, fieldBytes_nil,
    fieldBytes_optField, be_byteOf, byteOf_flag, statusAnswer, drumStatus, headStatus, converterStatus, storeStatus, printerStatus,
    classBytes_eq, pairBytes_eq, latestBytes_eq, List.append_assoc, List.cons_append, List.nil_append, List.append_nil]
  cases s.printer.slip <;> rfl

theorem length_statusAnswer (s : State) : (statusAnswer s).length = 71 := by
  rw [statusAnswer_eq, length_fieldBytes]
  simp [statusFields]

/-! ### READ QUEUE: the orders in selection order (1.1) -/

theorem insertOrder_perm (o : Order) (os : List Order) : (insertOrder o os).Perm (o :: os) := by
  induction os with
  | nil => exact List.Perm.refl _
  | cons x rest ih =>
    unfold insertOrder
    split
    · exact List.Perm.refl _
    · exact (ih.cons x).trans (List.Perm.swap o x rest)

theorem selectionOrder_perm (os : List Order) : (selectionOrder os).Perm os := by
  induction os with
  | nil => exact List.Perm.refl _
  | cons o rest ih => exact (insertOrder_perm o _).trans (ih.cons o)

theorem ahead_total (a b : Order) : ahead a b = true ∨ ahead b a = true := by
  simp only [ahead_iff]
  omega

theorem ahead_trans {a b c : Order} (hab : ahead a b = true) (hbc : ahead b c = true) : ahead a c = true := by
  simp only [ahead_iff] at *
  omega

theorem insertOrder_sorted {o : Order} {os : List Order} (h : os.Pairwise fun a b => ahead a b = true) :
    (insertOrder o os).Pairwise fun a b => ahead a b = true := by
  induction os with
  | nil => exact List.pairwise_singleton _ _
  | cons x rest ih =>
    obtain ⟨hx, hrest⟩ := List.pairwise_cons.mp h
    unfold insertOrder
    split
    case isTrue hox =>
      refine List.pairwise_cons.mpr ⟨fun y hy => ?_, h⟩
      rcases List.mem_cons.mp hy with rfl | hy
      · exact hox
      · exact ahead_trans hox (hx y hy)
    case isFalse hox =>
      refine List.pairwise_cons.mpr ⟨fun y hy => ?_, ih hrest⟩
      rcases List.mem_cons.mp ((insertOrder_perm o rest).subset hy) with rfl | hy
      · exact (ahead_total x y).resolve_right hox
      · exact hx y hy

theorem selectionOrder_sorted (os : List Order) : (selectionOrder os).Pairwise fun a b => ahead a b = true := by
  induction os with
  | nil => exact List.Pairwise.nil
  | cons o rest ih => exact insertOrder_sorted ih

theorem queuePlace_eq (o : Order) : queuePlace o = fieldBytes (queueFields o) := by
  simp [queuePlace, queueFields, fieldBytes_cons, fieldBytes_nil, be_byteOf]

theorem queueAnswer_eq (s : State) : queueAnswer s = fieldBytes ((1, (selectionOrder s.book.orders).length) ::
    ((selectionOrder s.book.orders).flatMap queueFields ++ zeroFields (8 * (16 - (selectionOrder s.book.orders).length)))) := by
  rw [(selectionOrder_perm s.book.orders).length_eq, fieldBytes_cons, fieldBytes_append, fieldBytes_flatMap, fieldBytes_zeroFields, be_byteOf,
    ← funext queuePlace_eq]
  rfl

theorem length_queueAnswer {s : State} (h : s.book.orders.length ≤ 16) : (queueAnswer s).length = 129 := by
  have width : ∀ o, fieldsWidth (queueFields o) = 8 := fun o => rfl
  rw [queueAnswer_eq, length_fieldBytes, fieldsWidth_cons, fieldsWidth_append, fieldsWidth_flatMap width, fieldsWidth_zeroFields,
    (selectionOrder_perm s.book.orders).length_eq]
  show 1 + (8 * _ + _) = 129
  omega

/-! ### READ ORDER and READ DESTINATION -/

/-- The free values shown for the entry-index bytes beyond the count (log entry 15). -/
def unlistedBytes (free : Nat) (ds : List Destination) : List Byte :=
  (List.range (12 - ds.length)).map fun k => Config.unlistedIndexByte (free + k)

theorem orderBytes_eq (free : Nat) (o : Order) : orderBytes free o = fieldBytes (orderFields o (unlistedBytes free o.dests)) := by
  simp only [orderBytes, orderFields, indexBytes, fieldBytes_append, fieldBytes_cons, fieldBytes_nil, fieldBytes_charFields,
    fieldBytes_map_one, be_byteOf, byteOf_flag, byteOf_toNat, List.map_id', List.append_assoc, List.cons_append, List.nil_append]
  rfl

theorem length_orderBytes {free : Nat} {o : Order} (hc : o.caption.length ≤ 240) (hd : o.dests.length ≤ 12) :
    (orderBytes free o).length = 278 := by
  rw [orderBytes_eq, length_fieldBytes]
  simp only [orderFields, fieldsWidth_append, fieldsWidth_cons, fieldsWidth_nil, fieldsWidth_charFields hc, fieldsWidth_map_one,
    unlistedBytes, List.length_map, List.length_range]
  omega

theorem destinationBytes_eq (now : Nat) (d : Destination) : destinationBytes now d = fieldBytes (destinationFields now d) := by
  simp only [destinationBytes, retryTimerBytes, destinationFields, fieldBytes_append, fieldBytes_cons,
    fieldBytes_optField, fieldBytes_timerFields, fieldBytes_timeFields, fieldBytes_reportFields, be_byteOf, byteOf_flag,
    List.append_assoc, List.cons_append, List.nil_append]
  rfl

theorem length_destinationBytes (now : Nat) (d : Destination) : (destinationBytes now d).length = 42 := by
  rw [destinationBytes_eq, length_fieldBytes]
  simp [destinationFields]

/-! ### READ CHANNEL -/

/-- The call shown (R96). -/
theorem callBytes_eq (k : Option Call) :
    optional 4 (k.map fun k => be 2 k.order ++ [byteOf k.dest, byteOf k.entryIndex]) =
      boolByte k.isSome :: (be 2 ((k.map Call.order).getD 0) ++
        [byteOf ((k.map Call.dest).getD 0), byteOf ((k.map Call.entryIndex).getD 0)]) := by
  cases k <;> rfl

theorem channelBytes_eq (s : State) (c : Chan) : channelBytes s c = fieldBytes (channelFields s.now (s.channels.get c)
    (s.pins.carrier.get c) (markedLines c s.lineStore)) := by
  simp only [channelBytes, lineTimerBytes, holdBytes_eq, callBytes_eq, channelFields, fieldBytes_append, fieldBytes_cons, fieldBytes_nil,
    fieldBytes_optField, fieldBytes_timerFields, fieldBytes_flatMap, fieldBytes_retakeFields, fieldBytes_zeroFields, be_byteOf,
    byteOf_flag, List.append_assoc, List.cons_append, List.nil_append, List.append_nil]
  rfl

theorem length_channelBytes {s : State} {c : Chan} (h : (s.channels.get c).queue.length ≤ 6) : (channelBytes s c).length = 77 := by
  rw [channelBytes_eq, length_fieldBytes]
  simp only [channelFields, fieldsWidth_append, fieldsWidth_cons, fieldsWidth_nil, fieldsWidth_optField, fieldsWidth_timerFields,
    fieldsWidth_flatMap fieldsWidth_retakeFields, fieldsWidth_zeroFields]
  omega

/-! ### READ RECEIPT and READ NEXT RECEIPT -/

theorem recordBytes_eq (r : Receipt) : recordBytes r = fieldBytes (receiptFields r) := by
  simp only [recordBytes, receiptFields, fieldBytes_append, fieldBytes_cons, fieldBytes_nil, fieldBytes_charFields,
    fieldBytes_optField, fieldBytes_timeFields, fieldBytes_reportFields, be_byteOf, byteOf_flag,
    List.append_assoc, List.cons_append, List.nil_append, List.append_nil]

theorem length_recordBytes {r : Receipt} (hn : r.name.length ≤ 16) (hc : r.caption.length ≤ 32) : (recordBytes r).length = 95 := by
  rw [recordBytes_eq, length_fieldBytes]
  simp [receiptFields, fieldsWidth_charFields hn, fieldsWidth_charFields hc]

/-! ### READ DIRECTORY, READ CURVE, READ SETTINGS and READ CLOCK -/

theorem directoryBytes_eq (e : EntryReading) : 1#8 :: entryReadingBytes e = fieldBytes (directoryFields e) := by
  cases e with
  | empty => simp only [directoryFields, fieldBytes_cons, fieldBytes_zeroFields, be_byteOf]; rfl
  | damaged => simp only [directoryFields, fieldBytes_cons, fieldBytes_zeroFields, be_byteOf]; rfl
  | valid e =>
    simp only [directoryFields, entryReadingBytes, entryBytes, fieldBytes_append, fieldBytes_cons, fieldBytes_nil, fieldBytes_charFields,
      be_byteOf, byteOf_toNat, List.append_assoc, List.cons_append, List.nil_append, List.append_nil]
    rfl

theorem curveAnswer_eq {s : State} {i : Nat} (h : i ≤ 3) :
    curveAnswer s i = fieldBytes ((1, 1) :: ((readCurvePoints s.store i).toList.map (fun v => (1, v)) ++
      [(1, flagNumber (curveReplaced s.store i))])) := by
  rw [curveAnswer, if_pos h]
  simp only [fieldBytes_append, fieldBytes_cons, fieldBytes_nil, fieldBytes_numbers, be_byteOf, byteOf_flag]
  rfl

theorem settingsAnswer_eq (s : State) : settingsAnswer s = fieldBytes (settingsFields s (readSettings s.store)) := by
  simp only [settingsFields, fieldBytes_append, fieldBytes_cons, fieldBytes_nil, fieldBytes_map_one, be_byteOf, byteOf_flag,
    byteOf_toNat, settingsAnswer, settingsBytes, List.append_assoc, List.cons_append, List.nil_append, List.append_nil]
  cases s.store.cycle <;> rfl

theorem clockAnswer_eq (s : State) : clockAnswer s = fieldBytes (clockFields s.clock) := by
  unfold clockAnswer clockFields
  cases s.clock with
  | none => rfl
  | some k => simp [fieldBytes_cons, fieldBytes_nil, be_byteOf, byteOf_flag, boolByte]

end Sys2Proof.Machine
end

section
/-! PROOF. READ NOTICE, the taking of an answer copy, and what READ commands answer (O6). -/

namespace Sys2Proof.Machine

/-! ### READ NOTICE (R180) -/

/-- The byte with bits 0 to 6 as given. -/
def bitsByte (b0 b1 b2 b3 b4 b5 b6 : Bool) : Byte :=
  byteOf ([(b0, 1), (b1, 2), (b2, 4), (b3, 8), (b4, 16), (b5, 32), (b6, 64)].foldl (fun n b => n + if b.1 then b.2 else 0) 0)

theorem bitsByte_bits : ∀ b0 b1 b2 b3 b4 b5 b6 : Bool, (List.range 8).map (bitsByte b0 b1 b2 b3 b4 b5 b6).getLsbD =
    [b0, b1, b2, b3, b4, b5, b6, false] := by decide

theorem presentSet_eq (ls : LinkState) : presentSet ls = bitsByte ls.notices.drumFault.isSome ls.notices.mountRequest.isSome
    ls.notices.lineTrouble.isSome ls.notices.printerAttention.isSome ls.notices.receiptFiled.isSome ls.notices.orderDone.isSome
    ls.notices.storeDone.isSome := rfl

theorem presentSet_bits (ls : LinkState) :
    (∀ k : NoticeKind, (presentSet ls).getLsbD (k.code - 1) = (ls.notices.get k).isSome) ∧ (presentSet ls).getLsbD 7 = false := by
  have bits := bitsByte_bits ls.notices.drumFault.isSome ls.notices.mountRequest.isSome ls.notices.lineTrouble.isSome
    ls.notices.printerAttention.isSome ls.notices.receiptFiled.isSome ls.notices.orderDone.isSome ls.notices.storeDone.isSome
  rw [← presentSet_eq] at bits
  simp only [List.range_succ, List.range_zero, List.nil_append, List.cons_append, List.map_cons, List.map_nil, List.cons.injEq, and_true] at bits
  obtain ⟨h0, h1, h2, h3, h4, h5, h6, h7⟩ := bits
  refine ⟨fun k => ?_, h7⟩
  cases k <;> assumption

/-- The kinds in code order: those before a kind have the lower codes. -/
theorem noticeKinds_split (k : NoticeKind) : NoticeKind.all = NoticeKind.all.take (k.code - 1) ++ k :: NoticeKind.all.drop k.code := by
  cases k <;> rfl

theorem code_lt_of_before {j k : NoticeKind} (h : j ∈ NoticeKind.all.take (k.code - 1)) : j.code < k.code := by
  revert h; cases k <;> cases j <;> decide

theorem highestNotice_first {ls : LinkState} {k : NoticeKind} {x : Notice} (hx : ls.notices.get k = some x)
    (hlow : ∀ j : NoticeKind, j.code < k.code → ls.notices.get j = none) : highestNotice ls = some x :=
  List.findSome?_eq_some_iff.mpr ⟨_, k, _, noticeKinds_split k, hx, fun j hj => hlow j (code_lt_of_before hj)⟩

theorem highestNotice_none {ls : LinkState} (h : ∀ k, ls.notices.get k = none) : highestNotice ls = none :=
  List.findSome?_eq_none_iff.mpr fun k _ => h k

theorem noticeDetail_eq (n : Notice) : noticeDetail n = fieldBytes (noticeFields n) := by
  cases n <;>
    simp [noticeDetail, noticeFields, fieldBytes_append, fieldBytes_cons, fieldBytes_nil, fieldBytes_optField, be_byteOf, byteOf, be_zero 2, be_zero 3, be_zero 4,
      be_zero 6, zeros]

/-- The answer of READ NOTICE with its present set, and the detail of the notice it shows. -/
theorem noticeAnswer_spec (ls : LinkState) : ∃ present, (noticeAnswer ls)[0]? = some present ∧
    (∀ k : NoticeKind, present.getLsbD (k.code - 1) = (ls.notices.get k).isSome) ∧ present.getLsbD 7 = false ∧
    ((∀ k, ls.notices.get k = none) → (noticeAnswer ls).drop 1 = List.replicate 9 0#8) ∧
    ∀ (k : NoticeKind) (x : Notice), ls.notices.get k = some x → x.kind = k →
      (∀ j : NoticeKind, j.code < k.code → ls.notices.get j = none) →
      (noticeAnswer ls).drop 1 = fieldBytes ((1, k.code) :: noticeFields x) := by
  obtain ⟨bits, high⟩ := presentSet_bits ls
  refine ⟨presentSet ls, rfl, bits, high, fun h => ?_, fun k x hx hk hlow => ?_⟩
  · unfold noticeAnswer
    rw [highestNotice_none h]
    rfl
  · unfold noticeAnswer
    rw [highestNotice_first hx hlow, fieldBytes_cons, ← noticeDetail_eq, be_byteOf, ← hk]
    rfl

/-! ### The copy of an answer (R176) -/

theorem takeAnswer_answers {i : Instr} {l : Link} {bytes answer : List Byte} {s : State} (h : exec i s = .next (takeAnswer l bytes answer s)) :
    AnswersWith [.links] i l bytes answer s :=
  ⟨_, h, PerLink.get_set _ _ _, fun _ hk => PerLink.get_set_ne _ _ hk, takeAnswer_moves _ _ _ _⟩

/-- A copy that shows free values uses them up (log entries 8 and 15). -/
theorem takeAnswer_using {i : Instr} {l : Link} {bytes answer : List Byte} {s : State} {n : Nat}
    (h : exec i s = .next { takeAnswer l bytes answer s with free := n }) : AnswersWith [.links, .free] i l bytes answer s := by
  refine ⟨_, h, PerLink.get_set _ _ _, fun _ hk => PerLink.get_set_ne _ _ hk, ?_⟩
  intro p hp; cases p <;> first | rfl | exact absurd (by decide) hp

theorem reads_answer (l : Link) (s : State) :
    AnswersWith [.links] (.readResult l) l [0x40#8] (resultAnswer (s.links.get l).result) s ∧
    AnswersWith [.links, .free] (.readStatus l) l [0x41#8] (statusAnswer s) s ∧
    AnswersWith [.links] (.readQueue l) l [0x42#8] (queueAnswer s) s ∧
    (∀ o : Word, AnswersWith [.links, .free] (.readOrder l o) l (0x43#8 :: wordBytes o) (orderAnswer s o.toNat) s) ∧
    (∀ (o : Word) (i : Byte), AnswersWith [.links] (.readDestination l o i) l (0x44#8 :: (wordBytes o ++ [i]))
      (destinationAnswer s o.toNat i.toNat) s) ∧
    (∀ c : Byte, AnswersWith [.links] (.readChannel l c) l [0x45#8, c] (channelAnswer s c) s) ∧
    (∀ f : Word, AnswersWith [.links] (.readReceipt l f) l (0x46#8 :: wordBytes f) (receiptAnswer s f.toNat) s) ∧
    AnswersWith [.links] (.readNextReceipt l) l [0x47#8] (nextReceiptAnswer s l) s ∧
    (∀ i : Byte, AnswersWith [.links] (.readDirectory l i) l [0x48#8, i] (directoryAnswer s i.toNat) s) ∧
    (∀ i : Byte, AnswersWith [.links] (.readCurve l i) l [0x49#8, i] (curveAnswer s i.toNat) s) ∧
    AnswersWith [.links] (.readSettings l) l [0x4A#8] (settingsAnswer s) s ∧
    AnswersWith [.links] (.readNotice l) l [0x4B#8] (noticeAnswer (s.links.get l)) s ∧
    AnswersWith [.links] (.readClock l) l [0x4C#8] (clockAnswer s) s :=
  ⟨takeAnswer_answers rfl, takeAnswer_using rfl, takeAnswer_answers rfl, fun _ => takeAnswer_using rfl, fun _ _ => takeAnswer_answers rfl,
    fun _ => takeAnswer_answers rfl, fun _ => takeAnswer_answers rfl, takeAnswer_answers rfl, fun _ => takeAnswer_answers rfl,
    fun _ => takeAnswer_answers rfl, takeAnswer_answers rfl, takeAnswer_answers rfl, takeAnswer_answers rfl⟩

theorem dataOut_spec (bytes answer : List Byte) (bits : List Bool) (p k : Nat) :
    (∀ h : k < answer.length, dataOutByte (.receiving bytes bits (some answer) p) k = answer[k]) ∧
      (answer.length ≤ k → dataOutByte (.receiving bytes bits (some answer) p) k = 0#8) ∧
      dataOutByte (.receiving bytes bits none p) k = 0#8 :=
  ⟨fun h => by simp [dataOutByte, List.getD_eq_getElem?_getD, h],
    fun h => by simp [dataOutByte, List.getD_eq_getElem?_getD, List.getElem?_eq_none h], rfl⟩

/-! ### What is found -/

theorem orderAnswer_none {s : State} {n : Nat} (h : findOrder s n = none) : orderAnswer s n = zeros 278 := by
  unfold orderAnswer; rw [h]; rfl

theorem orderAnswer_some {s : State} {n : Nat} {o : Order} (h : findOrder s n = some o) : orderAnswer s n = orderBytes s.free o := by
  unfold orderAnswer; rw [h]

theorem destinationAnswer_none {s : State} {n i : Nat} (h : findDest s n i = none) : destinationAnswer s n i = zeros 42 := by
  unfold destinationAnswer; rw [h]; rfl

theorem destinationAnswer_some {s : State} {n i : Nat} {d : Destination} (h : findDest s n i = some d) :
    destinationAnswer s n i = destinationBytes s.now d := by
  unfold destinationAnswer; rw [h]

theorem channelAnswer_none {b : Byte} (h : b.toNat = 0 ∨ 4 < b.toNat) (s : State) : channelAnswer s b = zeros 77 := by
  unfold channelAnswer; rw [chanOfByte_outside h]; rfl

theorem channelAnswer_some {b : Byte} {c : Chan} (h : b.toNat = c.number) (s : State) : channelAnswer s b = channelBytes s c := by
  unfold channelAnswer; rw [chanOfByte_number h]

theorem receiptAnswer_none {s : State} {f : Nat} (h : findReceipt s f = none) : receiptAnswer s f = zeros 96 := by
  unfold receiptAnswer; rw [h]; rfl

theorem receiptAnswer_some {s : State} {f : Nat} {r : Receipt} (h : findReceipt s f = some r) :
    receiptAnswer s f = 1#8 :: recordBytes r := by
  unfold receiptAnswer; rw [h]

theorem nextReceiptAnswer_none {s : State} {l : Link} (h : ∀ r ∈ s.log, r.released.get l = true) : nextReceiptAnswer s l = zeros 97 := by
  have none_left : unreleased l s = [] := List.filter_eq_nil_iff.mpr fun r hr => by simp [h r hr]
  unfold nextReceiptAnswer; rw [none_left]; rfl

/-- The first record that a link has not released, and how many there are from it on (R149). -/
theorem nextReceiptAnswer_first {s : State} {l : Link} {before after : List Receipt} {r : Receipt} (hlog : s.log = before ++ r :: after)
    (hb : ∀ x ∈ before, x.released.get l = true) (hr : r.released.get l = false) :
    nextReceiptAnswer s l = 1#8 :: byteOf (1 + (after.filter fun x => !x.released.get l).length) :: recordBytes r := by
  have skipped : before.filter (fun x => !x.released.get l) = [] := List.filter_eq_nil_iff.mpr fun x hx => by simp [hb x hx]
  have left : unreleased l s = r :: after.filter fun x => !x.released.get l := by
    rw [unreleased, hlog, List.filter_append, skipped, List.nil_append, List.filter_cons_of_pos (by simp [hr])]
  unfold nextReceiptAnswer
  rw [left, Nat.add_comm 1]
  rfl

/-- Settles O6: each answer by its fields, its length by their widths. -/
theorem readsCopyAndChangeNothingElse : Obligations.ReadsCopyAndChangeNothingElse := by
  unfold Obligations.ReadsCopyAndChangeNothingElse
  refine ⟨reads_answer, dataOut_spec, fun s => ⟨resultAnswer_eq, ⟨_, statusAnswer_eq s, fun h => by simp [readyLevel, h]⟩, length_statusAnswer s,
    fun h => ⟨_, selectionOrder_perm _, (selectionOrder_sorted _).imp (ahead_iff _ _).mp, queueAnswer_eq s, length_queueAnswer h⟩,
    fun n => ⟨orderAnswer_none, fun o ho hc hd => ?_⟩, fun n i => ⟨destinationAnswer_none, fun d hd => ?_⟩,
    fun b => ⟨fun h => channelAnswer_none h s, fun c hc => ?_⟩, fun f => ⟨receiptAnswer_none, fun r hr => ?_⟩,
    fun l => ⟨nextReceiptAnswer_none, fun before r after hlog hb hr => ?_⟩, fun i => ⟨fun h => if_neg (by omega), fun h => ?_⟩,
    fun i => ⟨fun h => if_neg (by omega), curveAnswer_eq⟩, settingsAnswer_eq s, noticeAnswer_spec, clockAnswer_eq s⟩⟩
  · rw [orderAnswer_some ho]
    exact ⟨length_orderBytes hc hd, unlistedBytes s.free o.dests, by simp [unlistedBytes], orderBytes_eq _ _⟩
  · rw [destinationAnswer_some hd]
    exact ⟨destinationBytes_eq _ _, length_destinationBytes _ _⟩
  · rw [channelAnswer_some hc]
    exact ⟨channelBytes_eq s c, length_channelBytes⟩
  · rw [receiptAnswer_some hr, fieldBytes_cons, ← recordBytes_eq, be_byteOf]
    exact ⟨rfl, fun hn hc => by rw [List.length_cons, length_recordBytes hn hc]⟩
  · rw [nextReceiptAnswer_first hlog hb hr, fieldBytes_cons, fieldBytes_cons, ← recordBytes_eq, be_byteOf, be_byteOf]
    rfl
  · exact (if_pos h).trans (directoryBytes_eq _)

end Sys2Proof.Machine
end
